-- ==== Sys2Proof/Word.lean ====
section
/-! DEFINITION. The byte of the supervisory link (12_supervisory_link_modes_and_resets.md, R178), the part's time base and
the index types of the tables (00_scope.md, Capacities and Numbering). -/

namespace Sys2Proof

/-- One byte of a frame on the supervisory link (R178). -/
abbrev Byte := BitVec 8

/-- Bytes in the order in which the line carries them. -/
abbrev Bytes := List Byte

/-- A moment or a length on the part's internal time base, in tenths of a second (00_scope.md, Times; log entry 1). -/
abbrev Time := Nat

/-- Zones 1 to 16. An index is the number less one in every table of the model. -/
abbrev ZoneNo := Fin 16
/-- Channels 1 to 32. -/
abbrev ChanNo := Fin 32
/-- Trip outputs T1 to T6, with F and M inputs of the same number. -/
abbrev OutNo := Fin 6
/-- Signal outputs S1 to S8. -/
abbrev SigNo := Fin 8
/-- Roster numbers 1 to 64. -/
abbrev Roster := Fin 64
/-- Vehicles 1 to 12. -/
abbrev VehNo := Fin 12
/-- Junctions 1 to 24. -/
abbrev JuncNo := Fin 24
/-- Refuge stations 1 to 4. -/
abbrev StationNo := Fin 4
/-- Programs 1 to 32. -/
abbrev ProgNo := Fin 32
/-- Runners A to D. -/
abbrev RunnerNo := Fin 4
/-- Spurs 1 to 8. -/
abbrev SpurNo := Fin 8
/-- Spur addresses 1 to 31. -/
abbrev Address := Fin 31
/-- Device table entries 1 to 96. -/
abbrev EntryNo := Fin 96
/-- Assignable trunk slots 8 to 31; the index is the slot number less 8. -/
abbrev SlotNo := Fin 24
/-- Keys 0 to 15, key 0 open. -/
abbrev Key := Fin 16

/-- The number, from 1, that an index stands for. -/
def number {n : Nat} (i : Fin n) : Nat := i.1 + 1

/-- A device reference: spur and address. -/
structure DevRef where
  spur : SpurNo
  addr : Address
  deriving DecidableEq, Repr

end Sys2Proof
end

