-- ==== Sys2Proof/Config.lean ====
section
/-! DEFINITION. The fixed limits of the part, each with its rule, and the values the spec leaves open: an `opaque` constant
here is a free value, nothing in Lean can evaluate it. -/

namespace Sys2Proof.Config

/-- The setup limit of a call, 10 s (R87). -/
def setupLimit : Time := 100
/-- The ring limit of a call, 30 s (R91). -/
def ringLimit : Time := 300
/-- The HELD limit of a call, 30 s (R96). -/
def heldLimit : Time := 300
/-- A tag party unheard this long is lost, 15 s (R88, R94). -/
def partyLostLimit : Time := 150
/-- A current call point that has not heard its tag this long loses it to any other zone, 10 s (R73). -/
def curHeardLimit : Time := 100
/-- A vehicle unread this long is LOST, 60 s (R122). -/
def lostLimit : Time := 600
/-- A route wait entry lives this long, 60 s (R124). -/
def waitLimit : Time := 600
/-- An announce step waits this long for a slot, 10 s (R161). -/
def slotWaitLimit : Time := 100
/-- A device that receives no poll this long falls back, 2.0 s (R170). -/
def fallbackLimit : Time := 20

/-- The report queue's bound (R184). -/
def reportQueueBound : Nat := 32
/-- The receive buffer's bound (R181). -/
def receiveBufferBound : Nat := 2
/-- The call table's bound (R83). -/
def callTableBound : Nat := 16
/-- The trunk request queue's bound (R107). -/
def requestQueueBound : Nat := 16
/-- The program start queue's bound (R159). -/
def startQueueBound : Nat := 16
/-- The route wait list's bound (R124). -/
def waitListBound : Nat := 8
/-- The longest run of untimed steps (R162). -/
def untimedBound : Nat := 8
/-- The longest body of a frame (R178). -/
def bodyBound : Nat := 248

/-- Steps and queue heads one input of the Alarm Program Unit may take in one event. R159 bounds the heads by 17 and R162
bounds the steps between two timed steps by 9, so the bound is never met (log entry 5). -/
def runFuel : Nat := 400
/-- Start requests the Alarm Program Unit may take up in one event (log entry 5). -/
def startFuel : Nat := 1000

/-! Free values. -/

/-- FREE VALUE (log entry 6): the bytes of a moment on the part's time base (the time granted in OVERSTAY, R135; the time of
arrival of a start queue entry, R167), whose width and unit the manual does not state. -/
opaque timeField : Time → Bytes
/-- FREE VALUE (log entry 6): the bytes of a creation number (R100) or a start number (R167), whose range the manual does
not bound. -/
opaque ordinalField : Nat → Bytes
/-- FREE VALUE (log entry 6): the bytes that stand for a run-status record that is none (R167), a field of many parts whose
range starts neither at 0 nor at 1. -/
opaque absentRecord : Bytes
/-- FREE VALUE (log entry 6): the bytes of a channel's source that is none (R19, R44); R178 numbers only the two alternatives
a source can have. -/
opaque absentSource : Bytes
/-- FREE VALUE (log entry 6): the byte that tells whether something holds, where the manual names no pair of states for it
(R62 close confirmation, R134 overstay reported, R145, R167). -/
opaque whether : Bool → Byte
/-- FREE VALUE (log entry 6): the byte that names the field of a failed binding in the refusal of START_RUN (R185), by the
model's own numbering of the fields. -/
opaque bindingField : Nat → Byte

end Sys2Proof.Config
end

