-- ==== Sys2Proof/Syntax.lean ====
section
/-! DEFINITION. The commands of the part: one constructor of `Instr` per row of spec/opcode_table.json, with its operands.
A host request carries the tag byte of its frame and its fields as the numbers that its bytes spell (R178), in range or not:
R182 leaves the range to the owner. An event of the field, of a pin, of the trunk or of a timer names its subject. -/

namespace Sys2Proof

/-- The kinds of field device (11_spur_lines_and_field_devices.md). -/
inductive DeviceKind | gasHead | callPoint | beacon | refugePanel
  deriving DecidableEq, Repr

/-- Head status (R28) and monitor status (R136). -/
inductive HeadStatus | ok | warming | fault
  deriving DecidableEq, Repr

/-- The button event of a heard entry (section 11.4). -/
inductive Button | none | call (dial : Nat) | emergency | answer | hangup
  deriving DecidableEq, Repr

/-- One heard entry of a call point's reply (section 11.4). -/
structure HeardEntry where
  tagId : Nat
  strength : Nat
  button : Button
  deriving DecidableEq, Repr

/-- A leg as a beacon reads it: any numbers (section 11.4). -/
structure RawLeg where
  junction : Nat
  entry : Nat
  exit : Nat
  deriving DecidableEq, Repr

/-- One read of a beacon's reply (section 7.4). -/
inductive Read
  | approach (tagId : Nat) (legs : List RawLeg)
  | clear (tagId : Nat)
  | walk
  deriving DecidableEq, Repr

/-- The quarters Q0 to Q3 (R136). -/
abbrev QuarterNo := Fin 4

inductive Direction | forward | reverse | standing
  deriving DecidableEq, Repr
inductive DriveState | off | ready | tramming | tripped
  deriving DecidableEq, Repr
inductive Brake | applied | released
  deriving DecidableEq, Repr

/-- The fields of one quarter (R136). -/
inductive Quarter
  | q0 (spur address speed : Nat) (direction : Direction)
  | q1 (raw : Nat) (status : HeadStatus)
  | q2 (drive : DriveState) (brake : Brake) (level : Nat)
  | q3 (codes : List Nat) (operator : Option Nat)
  deriving DecidableEq, Repr

/-- The contents of a device's reply (section 11.4). `misfit` stands for contents that follow no layout of the table. -/
inductive Contents
  | gasHead (status : HeadStatus) (raw1 raw2 raw3 raw4 : Nat)
  | callPoint (heard : List HeardEntry)
  | beacon (reads : List Read)
  | panel (doorOpen : Bool) (headcount : Nat) (pressed : Bool)
  | quarter (q : Quarter)
  | notHeard
  | misfit
  deriving DecidableEq, Repr

/-- A reply as the spur receives it: address, kind, contents and whether the check sequence matches (section 11.4). `late`
says that it answers a transaction of its spur that has ended already (R171). -/
structure DeviceReply where
  late : Bool := false
  checkGood : Bool
  address : Nat
  kind : DeviceKind
  contents : Contents
  deriving DecidableEq, Repr

/-! The bodies of the larger requests, every field the number that its bytes spell (R178). -/

/-- SET_ZONE (section 1.2). -/
structure ZoneFields where
  zone : Nat
  state : Nat
  key : Nat
  trip : Nat
  onAlarm : Nat
  onFault : Nat
  onTrip : Nat
  onEmergency : Nat
  deriving DecidableEq, Repr

/-- A channel source as written: the selector of R178 chooses the alternative; one outside its list chooses none. -/
inductive RawSource
  | head (spur address input : Nat)
  | vehicle (vehicle : Nat)
  | other (selector : Nat)
  deriving DecidableEq, Repr

/-- SET_CHANNEL (section 2.4). -/
structure ChannelFields where
  channel : Nat
  state : Nat
  gas : Nat
  source : RawSource
  zone : Nat
  zero : Nat
  span : Nat
  alert : Nat
  alarm : Nat
  hysteresis : Nat
  filter : Nat
  rateInterval : Nat
  rise : Nat
  stale : Nat
  qualification : Nat
  deriving DecidableEq, Repr

/-- SET_TRIP (section 3.9). -/
structure TripFields where
  output : Nat
  mode : Nat
  wait : Nat
  confirm : Nat
  backup : Nat
  warning : Nat
  edge : Nat
  sense : Nat
  deriving DecidableEq, Repr

/-- SET_VEHICLE (section 7.3). -/
structure VehicleFields where
  vehicle : Nat
  state : Nat
  tagId : Nat
  kind : Nat
  overstay : Nat
  period : Nat
  firstQuarter : Nat
  deriving DecidableEq, Repr

/-- SET_JUNCTION (section 7.3). -/
structure JunctionFields where
  junction : Nat
  state : Nat
  zone : Nat
  spur : Nat
  address : Nat
  branches : Nat
  walk : Nat
  deriving DecidableEq, Repr

/-- SET_STATION (section 9.2). -/
structure StationFields where
  station : Nat
  state : Nat
  zone : Nat
  served : List Nat
  spur : Nat
  address : Nat
  insideO2 : Nat
  insideCo : Nat
  onActivated : Nat
  onDistress : Nat
  deriving DecidableEq, Repr

/-- An optional field whose range starts at 0, as written: PRESENT with its value, ABSENT, or a presence byte outside that list
(R178). -/
inductive RawOptional
  | present (value : Nat)
  | absent
  | other (presence : Nat)
  deriving DecidableEq, Repr

/-- One step of LOAD_STEPS (section 10.1). The pattern is an optional field. -/
structure StepFields where
  action : Nat
  zone : Nat
  item : Nat
  pattern : RawOptional
  count : Nat
  chain : Nat
  deriving DecidableEq, Repr

/-- SET_DEVICE (section 11.7). -/
structure DeviceFields where
  entry : Nat
  state : Nat
  spur : Nat
  address : Nat
  kind : Nat
  zone : Nat
  exitGate : Nat
  deriving DecidableEq, Repr

/-- The requests of the part (R179), as their frames spell them. -/
inductive Request
  | setZone (f : ZoneFields)
  | orderEvacuation (zone : Nat)
  | liftEvacuation (zone key : Nat)
  | readZone (zone : Nat)
  | setChannel (f : ChannelFields)
  | setService (channel service : Nat)
  | readChannel (channel : Nat)
  | setTrip (f : TripFields)
  | trip (output : Nat)
  | restore (output key : Nat)
  | readTrip (output : Nat)
  | readSignal (output : Nat)
  | enrollTag (roster tagId absence : Nat)
  | removeTag (roster : Nat)
  | pageTag (roster action : Nat)
  | ackTag (roster : Nat)
  | readTag (roster : Nat)
  | placeCall (roster : Nat)
  | endCall (id : Nat)
  | readCall (id : Nat)
  | setTrunk (slots : List Nat)
  | readTrunk
  | setVehicle (f : VehicleFields)
  | setJunction (f : JunctionFields)
  | stopVehicle (vehicle : Nat)
  | releaseVehicle (vehicle : Nat)
  | readVehicle (vehicle : Nat)
  | readJunction (junction : Nat)
  | burstNow (vehicle firstQuarter : Nat)
  | readBurst (vehicle : Nat)
  | setStation (f : StationFields)
  | refugeReset (station key : Nat)
  | readStation (station : Nat)
  | loadSteps (first : Nat) (steps : List StepFields)
  | setProgram (program defined first urgency key : Nat)
  | startProgram (program zone : Nat)
  | cancelRunner (runner : Nat)
  | cancelPair (program zone : Nat)
  /-- CANCEL_PROGRAM with a selector that chooses neither a runner nor a pair (log entry 7). -/
  | cancelOther (selector : Nat)
  | readProgram (program : Nat)
  | readSteps (first count : Nat)
  | readRunner (runner : Nat)
  | setSpur (spur value : Nat)
  | setDevice (f : DeviceFields)
  | readDevice (entry : Nat)
  | readSpur (spur : Nat)
  | startRun
  | enterLoading
  | reset
  | readStatus
  deriving DecidableEq, Repr

/-- Which of a call's two parties. -/
inductive Side | a | b
  deriving DecidableEq, Repr

/-- The commands: one constructor per row of spec/opcode_table.json, in the table's order. -/
inductive Instr
  | setZone (tag : Byte) (f : ZoneFields)
  | orderEvacuation (tag : Byte) (zone : Nat)
  | liftEvacuation (tag : Byte) (zone key : Nat)
  | readZone (tag : Byte) (zone : Nat)
  | setChannel (tag : Byte) (f : ChannelFields)
  | setServiceOut (tag : Byte) (channel : Nat)
  | setServiceIn (tag : Byte) (channel : Nat)
  | readChannel (tag : Byte) (channel : Nat)
  | setTrip (tag : Byte) (f : TripFields)
  | trip (tag : Byte) (output : Nat)
  | restore (tag : Byte) (output key : Nat)
  | readTrip (tag : Byte) (output : Nat)
  | readSignal (tag : Byte) (output : Nat)
  | enrollTag (tag : Byte) (roster tagId absence : Nat)
  | removeTag (tag : Byte) (roster : Nat)
  | pageTagSend (tag : Byte) (roster : Nat)
  | pageTagCancel (tag : Byte) (roster : Nat)
  | ackTag (tag : Byte) (roster : Nat)
  | readTag (tag : Byte) (roster : Nat)
  | placeCall (tag : Byte) (roster : Nat)
  | endCall (tag : Byte) (id : Nat)
  | readCall (tag : Byte) (id : Nat)
  | setTrunk (tag : Byte) (slots : List Nat)
  | readTrunk (tag : Byte)
  | setVehicle (tag : Byte) (f : VehicleFields)
  | setJunction (tag : Byte) (f : JunctionFields)
  | stopVehicle (tag : Byte) (vehicle : Nat)
  | releaseVehicle (tag : Byte) (vehicle : Nat)
  | readVehicle (tag : Byte) (vehicle : Nat)
  | readJunction (tag : Byte) (junction : Nat)
  | burstNow (tag : Byte) (vehicle firstQuarter : Nat)
  | readBurst (tag : Byte) (vehicle : Nat)
  | setStation (tag : Byte) (f : StationFields)
  | refugeReset (tag : Byte) (station key : Nat)
  | readStation (tag : Byte) (station : Nat)
  | loadSteps (tag : Byte) (first : Nat) (steps : List StepFields)
  | setProgram (tag : Byte) (program defined first urgency key : Nat)
  | startProgram (tag : Byte) (program zone : Nat)
  | cancelProgramByRunner (tag : Byte) (runner : Nat)
  | cancelProgramByPair (tag : Byte) (program zone : Nat)
  | readProgram (tag : Byte) (program : Nat)
  | readSteps (tag : Byte) (first count : Nat)
  | readRunner (tag : Byte) (runner : Nat)
  | setSpurStandby (tag : Byte) (spur : Nat)
  | setSpurActive (tag : Byte) (spur : Nat)
  | setDevice (tag : Byte) (f : DeviceFields)
  | readDevice (tag : Byte) (entry : Nat)
  | readSpur (tag : Byte) (spur : Nat)
  | startRun (tag : Byte)
  | enterLoading (tag : Byte)
  | reset (tag : Byte)
  | readStatus (tag : Byte)
  | unknownRequestCode (tag : Byte) (body : Bytes)
  | malformedRequest (tag : Byte) (body : Bytes)
  | frameReceived (bytes : Bytes)
  | frameGapTimeout
  | frameSent
  | powerUp
  | supplyDip
  | resetPinLow
  | resetEnd
  | deviceReply (spur : SpurNo) (lineBusy : Bool) (reply : DeviceReply)
  | replyLimitExpiry (spur : SpurNo) (lineBusy : Bool)
  | emptyRoundExpiry (spur : SpurNo)
  | staleExpiry (channel : ChanNo)
  | waitExpiry (output : OutNo)
  | confirmExpiry (output : OutNo)
  | closeConfirmExpiry (output : OutNo)
  | feedbackChange (output : OutNo) (high : Bool)
  | manualEdge (output : OutNo) (high : Bool)
  | faultSenseChange (signal : SigNo) (openCircuit : Bool)
  | absenceExpiry (roster : Roster)
  | setupExpiry (call : Nat)
  | ringExpiry (call : Nat)
  | heldExpiry (call : Nat)
  | partyLostExpiry (call : Nat) (side : Side)
  | goodMark
  | missedMark
  | lostExpiry (vehicle : VehNo)
  | waitEntryExpiry (vehicle : VehNo)
  | walkDeadline (junction : JuncNo)
  | overstayExpiry (vehicle : VehNo)
  | periodExpiry (vehicle : VehNo)
  | stepCountEnd (runner : RunnerNo)
  | slotWaitExpiry (runner : RunnerNo)
  | manualInputLeavesActiveLevel (output : OutNo) (high : Bool)
  deriving DecidableEq, Repr

end Sys2Proof
end

