-- ==== Sys2Proof/Decode.lean ====
section
/-! DEFINITION. The frame and body layout of the supervisory link (12_supervisory_link_modes_and_resets.md, R178, R179,
R182): the check sequence, a request's body read from bytes and written to bytes. spec/opcode_table.json gives no row any
bits, so `decodeTableWord` reads no command from a word. -/

namespace Sys2Proof

/-! ## The check sequence (R178) -/

/-- One bit of the CRC: the bit enters most significant first, polynomial 1021 hexadecimal. -/
def crcBit (crc : BitVec 16) (bit : Bool) : BitVec 16 :=
  let shifted := crc <<< 1
  if crc.msb ^^ bit then shifted ^^^ 0x1021#16 else shifted

/-- One byte, most significant bit first. -/
def crcByte (crc : BitVec 16) (b : Byte) : BitVec 16 :=
  [7, 6, 5, 4, 3, 2, 1, 0].foldl (fun c i => crcBit c (b.getLsbD i)) crc

/-- CRC-16 over the bytes, initial value FFFF hexadecimal, no reflection, no final exclusive-or (R178). -/
def crc16 (bs : Bytes) : BitVec 16 := bs.foldl crcByte 0xFFFF#16

/-- The two check bytes, low byte first (R178). -/
def checkBytes (bs : Bytes) : Bytes := [(crc16 bs).setWidth 8, ((crc16 bs) >>> 8).setWidth 8]

/-- The sync byte (R178). -/
def syncByte : Byte := 0x5A

def kindRequest : Byte := 0x01
def kindReply : Byte := 0x02
def kindReport : Byte := 0x03

/-- A whole frame: sync, kind, tag, length, body, check (R178). -/
def buildFrame (kind tag : Byte) (body : Bytes) : Bytes :=
  let covered := kind :: tag :: BitVec.ofNat 8 body.length :: body
  syncByte :: (covered ++ checkBytes covered)

/-! ## Fields (R178) -/

/-- A number with range up to 255. -/
def byteField (n : Nat) : Bytes := [BitVec.ofNat 8 n]

/-- A number with range up to 65535, low byte first. -/
def wordField (n : Nat) : Bytes := [BitVec.ofNat 8 n, BitVec.ofNat 8 (n / 256)]

/-- A tag id: three bytes, low byte first. -/
def tagIdField (n : Nat) : Bytes := [BitVec.ofNat 8 n, BitVec.ofNat 8 (n / 256), BitVec.ofNat 8 (n / 65536)]

/-- An optional field whose range starts at 0: PRESENT and the field, or ABSENT. -/
def presenceField {α : Type} (f : α → Bytes) : Option α → Bytes
  | some a => byteField 0 ++ f a
  | none => byteField 1

/-- A list: a count byte, then the items. -/
def listField {α : Type} (f : α → Bytes) (l : List α) : Bytes := byteField l.length ++ l.flatMap f

/-- What a reader of fields answers: the field and the bytes after it, or none when the bytes run out. -/
abbrev Reader (α : Type) := Bytes → Option (α × Bytes)

def readByte : Reader Nat
  | b :: r => some (b.toNat, r)
  | [] => none

def readWord : Reader Nat
  | a :: b :: r => some (a.toNat + 256 * b.toNat, r)
  | _ => none

def readTagId : Reader Nat
  | a :: b :: c :: r => some (a.toNat + 256 * b.toNat + 65536 * c.toNat, r)
  | _ => none

/-- An optional byte: PRESENT and the byte, ABSENT, or a presence byte outside that list, which stands alone (log entry 7). -/
def readOptional : Reader RawOptional := fun bs =>
  match bs with
  | 0x00#8 :: r => (readByte r).map fun (a, r) => (.present a, r)
  | 0x01#8 :: r => some (.absent, r)
  | b :: r => some (.other b.toNat, r)
  | [] => none

def optionalField : RawOptional → Bytes
  | .present a => byteField 0 ++ byteField a
  | .absent => byteField 1
  | .other b => byteField b

def readMany {α : Type} (p : Reader α) : Nat → Reader (List α)
  | 0, bs => some ([], bs)
  | n + 1, bs => do
    let (a, bs) ← p bs
    let (l, bs) ← readMany p n bs
    return (a :: l, bs)

def readList {α : Type} (p : Reader α) : Reader (List α) := fun bs => do
  let (n, bs) ← readByte bs
  readMany p n bs

/-- A channel source: the selector byte and the alternative it chooses (R178). A selector outside the list chooses none and
stands alone (log entry 7). -/
def readSource : Reader RawSource := fun bs =>
  match bs with
  | 0x00#8 :: r => do
    let (s, r) ← readByte r
    let (a, r) ← readByte r
    let (i, r) ← readByte r
    return (.head s a i, r)
  | 0x01#8 :: r => (readByte r).map fun (v, r) => (.vehicle v, r)
  | b :: r => some (.other b.toNat, r)
  | [] => none

def sourceField : RawSource → Bytes
  | .head s a i => byteField 0 ++ byteField s ++ byteField a ++ byteField i
  | .vehicle v => byteField 1 ++ byteField v
  | .other b => byteField b

/-- A step of LOAD_STEPS: the step table's fields in order (R154). The item operand is one byte (log entry 8). -/
def readStep : Reader StepFields := fun bs => do
  let (action, bs) ← readByte bs
  let (zone, bs) ← readByte bs
  let (item, bs) ← readByte bs
  let (pattern, bs) ← readOptional bs
  let (count, bs) ← readByte bs
  let (chain, bs) ← readByte bs
  return (⟨action, zone, item, pattern, count, chain⟩, bs)

def stepField (s : StepFields) : Bytes :=
  byteField s.action ++ byteField s.zone ++ byteField s.item ++ optionalField s.pattern ++ byteField s.count
    ++ byteField s.chain

/-! ## Request bodies (R179, each chapter's own order of fields) -/

/-- The request codes run from 01 to 30 hexadecimal (R179). -/
def isRequestCode (c : Byte) : Bool := 1 ≤ c.toNat && c.toNat ≤ 0x30

/-- The one-byte code of a request (R179). -/
def requestCode : Request → Byte
  | .setZone .. => 0x01
  | .orderEvacuation .. => 0x02
  | .liftEvacuation .. => 0x03
  | .readZone .. => 0x04
  | .setChannel .. => 0x05
  | .setService .. => 0x06
  | .readChannel .. => 0x07
  | .setTrip .. => 0x08
  | .trip .. => 0x09
  | .restore .. => 0x0A
  | .readTrip .. => 0x0B
  | .readSignal .. => 0x0C
  | .enrollTag .. => 0x0D
  | .removeTag .. => 0x0E
  | .pageTag .. => 0x0F
  | .ackTag .. => 0x10
  | .readTag .. => 0x11
  | .placeCall .. => 0x12
  | .endCall .. => 0x13
  | .readCall .. => 0x14
  | .setTrunk .. => 0x15
  | .readTrunk => 0x16
  | .setVehicle .. => 0x17
  | .setJunction .. => 0x18
  | .stopVehicle .. => 0x19
  | .releaseVehicle .. => 0x1A
  | .readVehicle .. => 0x1B
  | .readJunction .. => 0x1C
  | .burstNow .. => 0x1D
  | .readBurst .. => 0x1E
  | .setStation .. => 0x1F
  | .refugeReset .. => 0x20
  | .readStation .. => 0x21
  | .loadSteps .. => 0x22
  | .setProgram .. => 0x23
  | .startProgram .. => 0x24
  | .cancelRunner .. => 0x25
  | .cancelPair .. => 0x25
  | .cancelOther _ => 0x25
  | .readProgram .. => 0x26
  | .readSteps .. => 0x27
  | .readRunner .. => 0x28
  | .setSpur .. => 0x29
  | .setDevice .. => 0x2A
  | .readDevice .. => 0x2B
  | .readSpur .. => 0x2C
  | .startRun => 0x2D
  | .enterLoading => 0x2E
  | .reset => 0x2F
  | .readStatus => 0x30

/-- The fields of a request, in the order its chapter states. -/
def requestFields : Request → Bytes
  | .setZone f => byteField f.zone ++ byteField f.state ++ byteField f.key ++ byteField f.trip ++ byteField f.onAlarm
      ++ byteField f.onFault ++ byteField f.onTrip ++ byteField f.onEmergency
  | .orderEvacuation z => byteField z
  | .liftEvacuation z k => byteField z ++ byteField k
  | .readZone z => byteField z
  | .setChannel f => byteField f.channel ++ byteField f.state ++ byteField f.gas ++ sourceField f.source
      ++ byteField f.zone ++ wordField f.zero ++ wordField f.span ++ wordField f.alert ++ wordField f.alarm
      ++ wordField f.hysteresis ++ byteField f.filter ++ byteField f.rateInterval ++ wordField f.rise
      ++ byteField f.stale ++ byteField f.qualification
  | .setService c v => byteField c ++ byteField v
  | .readChannel c => byteField c
  | .setTrip f => byteField f.output ++ byteField f.mode ++ wordField f.wait ++ byteField f.confirm
      ++ byteField f.backup ++ byteField f.warning ++ byteField f.edge ++ byteField f.sense
  | .trip o => byteField o
  | .restore o k => byteField o ++ byteField k
  | .readTrip o => byteField o
  | .readSignal o => byteField o
  | .enrollTag r t a => byteField r ++ tagIdField t ++ wordField a
  | .removeTag r => byteField r
  | .pageTag r a => byteField r ++ byteField a
  | .ackTag r => byteField r
  | .readTag r => byteField r
  | .placeCall r => byteField r
  | .endCall i => byteField i
  | .readCall i => byteField i
  | .setTrunk l => listField byteField l
  | .readTrunk => []
  | .setVehicle f => byteField f.vehicle ++ byteField f.state ++ tagIdField f.tagId ++ byteField f.kind
      ++ wordField f.overstay ++ byteField f.period ++ byteField f.firstQuarter
  | .setJunction f => byteField f.junction ++ byteField f.state ++ byteField f.zone ++ byteField f.spur
      ++ byteField f.address ++ byteField f.branches ++ byteField f.walk
  | .stopVehicle v => byteField v
  | .releaseVehicle v => byteField v
  | .readVehicle v => byteField v
  | .readJunction j => byteField j
  | .burstNow v q => byteField v ++ byteField q
  | .readBurst v => byteField v
  | .setStation f => byteField f.station ++ byteField f.state ++ byteField f.zone ++ listField byteField f.served
      ++ byteField f.spur ++ byteField f.address ++ byteField f.insideO2 ++ byteField f.insideCo
      ++ byteField f.onActivated ++ byteField f.onDistress
  | .refugeReset s k => byteField s ++ byteField k
  | .readStation s => byteField s
  | .loadSteps i l => byteField i ++ listField stepField l
  | .setProgram p d i u k => byteField p ++ byteField d ++ byteField i ++ byteField u ++ byteField k
  | .startProgram p z => byteField p ++ byteField z
  | .cancelRunner r => byteField 0 ++ byteField r
  | .cancelPair p z => byteField 1 ++ byteField p ++ byteField z
  | .cancelOther b => byteField b
  | .readProgram p => byteField p
  | .readSteps i n => byteField i ++ byteField n
  | .readRunner r => byteField r
  | .setSpur s v => byteField s ++ byteField v
  | .setDevice f => byteField f.entry ++ byteField f.state ++ byteField f.spur ++ byteField f.address ++ byteField f.kind
      ++ byteField f.zone ++ byteField f.exitGate
  | .readDevice e => byteField e
  | .readSpur s => byteField s
  | .startRun => []
  | .enterLoading => []
  | .reset => []
  | .readStatus => []

/-- A request's body: its code, then its fields (R178). -/
def encodeBody (r : Request) : Bytes := requestCode r :: requestFields r

/-- One field of one byte. -/
def read1 (mk : Nat → Request) : Reader Request := fun bs => do
  let (a, bs) ← readByte bs
  return (mk a, bs)

/-- Two fields of one byte each. -/
def read2 (mk : Nat → Nat → Request) : Reader Request := fun bs => do
  let (a, bs) ← readByte bs
  let (b, bs) ← readByte bs
  return (mk a b, bs)

def readSetZone : Reader Request := fun bs => do
  let (zone, bs) ← readByte bs
  let (state, bs) ← readByte bs
  let (key, bs) ← readByte bs
  let (trip, bs) ← readByte bs
  let (a, bs) ← readByte bs
  let (f, bs) ← readByte bs
  let (t, bs) ← readByte bs
  let (e, bs) ← readByte bs
  return (.setZone ⟨zone, state, key, trip, a, f, t, e⟩, bs)

def readSetChannel : Reader Request := fun bs => do
  let (channel, bs) ← readByte bs
  let (state, bs) ← readByte bs
  let (gas, bs) ← readByte bs
  let (source, bs) ← readSource bs
  let (zone, bs) ← readByte bs
  let (zeroAt, bs) ← readWord bs
  let (span, bs) ← readWord bs
  let (alert, bs) ← readWord bs
  let (alarm, bs) ← readWord bs
  let (hysteresis, bs) ← readWord bs
  let (filter, bs) ← readByte bs
  let (rate, bs) ← readByte bs
  let (rise, bs) ← readWord bs
  let (stale, bs) ← readByte bs
  let (qual, bs) ← readByte bs
  return (.setChannel ⟨channel, state, gas, source, zone, zeroAt, span, alert, alarm, hysteresis, filter, rate, rise,
    stale, qual⟩, bs)

def readSetTrip : Reader Request := fun bs => do
  let (output, bs) ← readByte bs
  let (mode, bs) ← readByte bs
  let (wait, bs) ← readWord bs
  let (confirm, bs) ← readByte bs
  let (backup, bs) ← readByte bs
  let (warning, bs) ← readByte bs
  let (edge, bs) ← readByte bs
  let (sense, bs) ← readByte bs
  return (.setTrip ⟨output, mode, wait, confirm, backup, warning, edge, sense⟩, bs)

def readEnrollTag : Reader Request := fun bs => do
  let (roster, bs) ← readByte bs
  let (tagId, bs) ← readTagId bs
  let (absence, bs) ← readWord bs
  return (.enrollTag roster tagId absence, bs)

def readSetVehicle : Reader Request := fun bs => do
  let (vehicle, bs) ← readByte bs
  let (state, bs) ← readByte bs
  let (tagId, bs) ← readTagId bs
  let (kind, bs) ← readByte bs
  let (overstay, bs) ← readWord bs
  let (period, bs) ← readByte bs
  let (first, bs) ← readByte bs
  return (.setVehicle ⟨vehicle, state, tagId, kind, overstay, period, first⟩, bs)

def readSetJunction : Reader Request := fun bs => do
  let (junction, bs) ← readByte bs
  let (state, bs) ← readByte bs
  let (zone, bs) ← readByte bs
  let (spur, bs) ← readByte bs
  let (address, bs) ← readByte bs
  let (branches, bs) ← readByte bs
  let (walk, bs) ← readByte bs
  return (.setJunction ⟨junction, state, zone, spur, address, branches, walk⟩, bs)

def readSetStation : Reader Request := fun bs => do
  let (station, bs) ← readByte bs
  let (state, bs) ← readByte bs
  let (zone, bs) ← readByte bs
  let (served, bs) ← readList readByte bs
  let (spur, bs) ← readByte bs
  let (address, bs) ← readByte bs
  let (o2, bs) ← readByte bs
  let (co, bs) ← readByte bs
  let (act, bs) ← readByte bs
  let (dis, bs) ← readByte bs
  return (.setStation ⟨station, state, zone, served, spur, address, o2, co, act, dis⟩, bs)

def readLoadSteps : Reader Request := fun bs => do
  let (first, bs) ← readByte bs
  let (steps, bs) ← readList readStep bs
  return (.loadSteps first steps, bs)

def readSetProgram : Reader Request := fun bs => do
  let (program, bs) ← readByte bs
  let (defined, bs) ← readByte bs
  let (first, bs) ← readByte bs
  let (urgency, bs) ← readByte bs
  let (key, bs) ← readByte bs
  return (.setProgram program defined first urgency key, bs)

/-- CANCEL_PROGRAM carries a runner, or a program and a zone, chosen by a selector (R166, R178). A selector outside the list
chooses neither and stands alone (log entry 7). -/
def readCancel : Reader Request := fun bs =>
  match bs with
  | 0x00#8 :: r => read1 .cancelRunner r
  | 0x01#8 :: r => read2 .cancelPair r
  | b :: r => some (.cancelOther b.toNat, r)
  | [] => none

def readSetDevice : Reader Request := fun bs => do
  let (entry, bs) ← readByte bs
  let (state, bs) ← readByte bs
  let (spur, bs) ← readByte bs
  let (address, bs) ← readByte bs
  let (kind, bs) ← readByte bs
  let (zone, bs) ← readByte bs
  let (exitGate, bs) ← readByte bs
  return (.setDevice ⟨entry, state, spur, address, kind, zone, exitGate⟩, bs)

/-- The fields that a request code calls for; none for a code that R179 does not give. -/
def requestReader (code : Byte) : Option (Reader Request) :=
  match code.toNat with
  | 0x01 => some readSetZone
  | 0x02 => some (read1 .orderEvacuation)
  | 0x03 => some (read2 .liftEvacuation)
  | 0x04 => some (read1 .readZone)
  | 0x05 => some readSetChannel
  | 0x06 => some (read2 .setService)
  | 0x07 => some (read1 .readChannel)
  | 0x08 => some readSetTrip
  | 0x09 => some (read1 .trip)
  | 0x0A => some (read2 .restore)
  | 0x0B => some (read1 .readTrip)
  | 0x0C => some (read1 .readSignal)
  | 0x0D => some readEnrollTag
  | 0x0E => some (read1 .removeTag)
  | 0x0F => some (read2 .pageTag)
  | 0x10 => some (read1 .ackTag)
  | 0x11 => some (read1 .readTag)
  | 0x12 => some (read1 .placeCall)
  | 0x13 => some (read1 .endCall)
  | 0x14 => some (read1 .readCall)
  | 0x15 => some fun bs => (readList readByte bs).map fun (l, r) => (.setTrunk l, r)
  | 0x16 => some fun bs => some (.readTrunk, bs)
  | 0x17 => some readSetVehicle
  | 0x18 => some readSetJunction
  | 0x19 => some (read1 .stopVehicle)
  | 0x1A => some (read1 .releaseVehicle)
  | 0x1B => some (read1 .readVehicle)
  | 0x1C => some (read1 .readJunction)
  | 0x1D => some (read2 .burstNow)
  | 0x1E => some (read1 .readBurst)
  | 0x1F => some readSetStation
  | 0x20 => some (read2 .refugeReset)
  | 0x21 => some (read1 .readStation)
  | 0x22 => some readLoadSteps
  | 0x23 => some readSetProgram
  | 0x24 => some (read2 .startProgram)
  | 0x25 => some readCancel
  | 0x26 => some (read1 .readProgram)
  | 0x27 => some (read2 .readSteps)
  | 0x28 => some (read1 .readRunner)
  | 0x29 => some (read2 .setSpur)
  | 0x2A => some readSetDevice
  | 0x2B => some (read1 .readDevice)
  | 0x2C => some (read1 .readSpur)
  | 0x2D => some fun bs => some (.startRun, bs)
  | 0x2E => some fun bs => some (.enterLoading, bs)
  | 0x2F => some fun bs => some (.reset, bs)
  | 0x30 => some fun bs => some (.readStatus, bs)
  | _ => none

/-- What a frame's body is (R182 steps 1 to 4): a request, an unknown code, or a malformed body with the code to echo. -/
inductive Content
  | request (r : Request)
  | unknownCode (code : Byte)
  | badFrame (code : Byte)
  deriving DecidableEq, Repr

/-- R182 steps 1 to 3: an empty body, then an unknown code, then a length other than the one the body calls for. -/
def parseBody : Bytes → Content
  | [] => .badFrame 0
  | code :: fields =>
    match requestReader code with
    | none => .unknownCode code
    | some p =>
      match p fields with
      | some (r, []) => .request r
      | _ => .badFrame code

/-- The request code that a discarded frame is reported with (R181): the first byte of its body, 0 when the body is empty
(log entry 7). -/
def contentCode : Content → Byte
  | .request r => requestCode r
  | .unknownCode c => c
  | .badFrame c => c

/-- The command that a word spells by the bits of spec/opcode_table.json: the table gives no row any bits. -/
def decodeTableWord (_nbits _w : Nat) : Option Instr := none

end Sys2Proof
end

