-- ==== Sys2Proof/Machine/State.lean ====
section
/-! DEFINITION. The state of the part as plain data: every record, list, counter, timer, mode and pin the spec gives it, and
the machine right after a power-up reset. A timer is the moment of its expiry, none while it is stopped (log entry 1). -/

namespace Sys2Proof.Machine

/-! ## Supervisory link, modes and resets (12_supervisory_link_modes_and_resets.md) -/

/-- The part's mode (section 12.6). -/
inductive Mode | loading | run
  deriving DecidableEq, Repr

/-- The report classes of the report queue (R184). -/
inductive ReportClass | safety | routine
  deriving DecidableEq, Repr

/-- The loss marker (R184). -/
inductive Marker | none | lost | lostSafety
  deriving DecidableEq, Repr

/-- A report as it stands in the queue: its class, its code (R179) and its fields in the order of its rule. -/
structure Report where
  cls : ReportClass
  code : Byte
  fields : Bytes
  deriving DecidableEq, Repr

/-- A formed reply: its request's tag and its body (R178). -/
structure Reply where
  tag : Byte
  body : Bytes
  deriving DecidableEq, Repr

/-- The frame being sent (R183). -/
structure Sending where
  isReply : Bool
  frame : Bytes
  deriving DecidableEq, Repr

/-- The receiver: HUNT, or FRAME with the bytes after the sync byte collected so far (R180). -/
inductive Receiver
  | hunt
  | frame (collected : Bytes)
  deriving DecidableEq, Repr

/-- A complete request frame in the receive buffer (R181). -/
structure Received where
  tag : Byte
  content : Content
  deriving DecidableEq, Repr

/-- A set of reset causes (R187). -/
structure Causes where
  power : Bool := false
  dip : Bool := false
  line : Bool := false
  link : Bool := false
  deriving DecidableEq, Repr

/-- The Supervisory Link Port. -/
structure Slp where
  mode : Mode
  causes : Causes
  retained : Bool
  receiver : Receiver
  buffer : List Received
  replySlot : Option Reply
  sending : Option Sending
  queue : List Report
  marker : Marker
  /-- an accepted RESET whose reply is not yet sent in full (R187) -/
  resetDue : Bool
  /-- the causes gathered so far while a reset lasts, none while the part operates (R187) -/
  inReset : Option Causes
  deriving DecidableEq, Repr

/-! ## Zone Table (01_zone_table.md) -/

inductive Summary | normal | alert | fault | alarm
  deriving DecidableEq, Repr
inductive Evac | none | ordered | cleared
  deriving DecidableEq, Repr

/-- The states of a trip output (section 3.2). A zone's power view is one of them, or none when unbound (R8). -/
inductive TripState | held | closed | waiting | opening | opened | unconfirmed
  deriving DecidableEq, Repr

/-- A zone record (section 1.1). The missing count is derived from the list (R9). -/
structure Zone where
  configured : Bool := false
  key : Key := 0
  trip : Option OutNo := none
  onAlarm : Option ProgNo := none
  onFault : Option ProgNo := none
  onTrip : Option ProgNo := none
  onEmergency : Option ProgNo := none
  summary : Summary := .normal
  view : Option TripState := none
  evac : Evac := .none
  occupancy : List Roster := []
  vehicles : List VehNo := []
  deriving DecidableEq, Repr

/-! ## Air readings (02_air_readings.md) -/

inductive GasType | ch4 | co | o2 | air
  deriving DecidableEq, Repr
inductive Level | normal | alert | alarm | fault
  deriving DecidableEq, Repr
inductive FaultCause | stale | head | warmup | underRange | deviceOffline | standby | outOfService | noSample
  deriving DecidableEq, Repr
inductive Qualification | none | alarm | alarmOrFault
  deriving DecidableEq, Repr
inductive Service | inService | outOfService
  deriving DecidableEq, Repr

/-- A channel's source (R22). -/
inductive Source
  | head (dev : DevRef) (input : Fin 4)
  | vehicle (v : VehNo)
  deriving DecidableEq, Repr

/-- A channel record (section 2.1, R20). The defaults are the values after a reset that loses configuration (R19). -/
structure Channel where
  configured : Bool := false
  gas : GasType := .ch4
  source : Option Source := none
  zone : Option ZoneNo := none
  zero : Nat := 0
  span : Nat := 1
  alert : Nat := 1
  alarm : Nat := 1
  hysteresis : Nat := 0
  filter : Nat := 1
  rateInterval : Nat := 2
  rise : Nat := 0
  stale : Nat := 1
  qualification : Qualification := .none
  service : Service := .outOfService
  window : List Nat := []
  f : Nat := 0
  mark : Nat := 0
  count : Nat := 0
  riseSet : Bool := false
  /-- OVER -/
  saturated : Bool := false
  level : Level := .fault
  cause : Option FaultCause := some .outOfService
  lastValid : Option Time := none
  staleAt : Option Time := none
  deriving DecidableEq, Repr

/-! ## Trip and signal outputs (03_trip_and_signal_outputs.md) -/

inductive TripMode | direct | delayed
  deriving DecidableEq, Repr
inductive ManualEdge | falling | rising | disabled
  deriving DecidableEq, Repr
inductive Sense | offWhenLow | offWhenHigh
  deriving DecidableEq, Repr
inductive TripCause
  | demand | waitExpired | abandoned | manual | host | backup | feedbackOff | confirmTimeout | feedbackOn | restore
  | loading | start
  deriving DecidableEq, Repr

/-- A trip output record (sections 3.1, 3.2) with the levels of its F and M inputs. The confirm timer runs for close
confirmation exactly while it runs in CLOSED (R47). -/
structure Trip where
  mode : TripMode := .direct
  wait : Nat := 0
  waitPending : Nat := 0
  confirm : Nat := 20
  backup : Option OutNo := none
  warning : Option SigNo := none
  edge : ManualEdge := .disabled
  sense : Sense := .offWhenLow
  state : TripState := .held
  waitAt : Option Time := none
  confirmAt : Option Time := none
  origin : Option (ZoneNo × ChanNo) := none
  lastCause : Option TripCause := none
  /-- the F input stands high -/
  feedbackHigh : Bool := false
  /-- the M input stands high -/
  manualHigh : Bool := false
  deriving DecidableEq, Repr

inductive Pattern | steady | slow | fast
  deriving DecidableEq, Repr

/-- An entry of a driver set (R63). -/
inductive Driver
  | runner (r : RunnerNo) (pattern : Pattern) (urgency : Nat)
  | warning (o : OutNo)
  deriving DecidableEq, Repr

/-- A signal output (section 3.11): its driver set, the pattern shown with the moment its phase began (R64), its FAULT flag
and its fault-sense input. -/
structure Signal where
  drivers : List Driver := []
  shown : Option Pattern := none
  phaseFrom : Time := 0
  fault : Bool := false
  openCircuit : Bool := false
  deriving DecidableEq, Repr

/-! ## Miner tags (04_miner_tags_and_occupancy.md) -/

inductive TagState | unplaced | placed | missing | out
  deriving DecidableEq, Repr

/-- An enrolled tag (section 4.1). A free roster number has none. `placed` is the state IN. -/
structure Tag where
  id : Nat
  absence : Nat
  state : TagState := .unplaced
  zone : Option ZoneNo := none
  cur : Option DevRef := none
  strength : Nat := 0
  lastHeard : Option Time := none
  curHeard : Option Time := none
  absentAt : Option Time := none
  call : Option Nat := none
  page : Bool := false
  emergency : Bool := false
  deriving DecidableEq, Repr

/-! ## Calls (05_calls.md) -/

inductive CallKind | routine | priority | emergency
  deriving DecidableEq, Repr
inductive CallState | setup | ringing | active | held
  deriving DecidableEq, Repr

/-- The cause of a CALL report: the end causes in the order of R84, then the causes of other changes (log entry 8). -/
inductive CallCause
  | unreachable | busy | noResource | noTrunk | noAnswer | hangup | hostEnd | partyLost | partyLeft | preempted
  | superseded | trunkLost | created | connected | answered | slotPreempted | slotGranted | handover
  deriving DecidableEq, Repr

/-- A party: a tag, SURFACE, or a dial code that is no roster number, as received (section 5.2). -/
inductive Party
  | tag (r : Roster)
  | surface
  | dialled (code : Nat)
  deriving DecidableEq, Repr

/-- The trunk classes (R105). -/
inductive TrunkClass | alarm | emergency | priority | telemetry | routine
  deriving DecidableEq, Repr

/-- A voice channel: the call point's device entry and channel 1 to 4 (R82). -/
structure VoiceRef where
  entry : EntryNo
  chan : Fin 4
  deriving DecidableEq, Repr

/-- A call record (section 5.2). -/
structure Call where
  id : Nat
  creation : Nat
  kind : CallKind
  a : Party
  b : Party
  state : CallState
  chanA : Option VoiceRef := none
  chanB : Option VoiceRef := none
  cls : Option TrunkClass := none
  slot : Option SlotNo := none
  waiting : Bool := false
  deadline : Option Time := none
  lostA : Option Time := none
  lostB : Option Time := none
  deriving DecidableEq, Repr

/-! ## Trunk (06_trunk_and_slot_arbiter.md) -/

inductive TrunkState | sync | up | down
  deriving DecidableEq, Repr

/-- A holder of a trunk slot (section 6.4). -/
inductive Holder
  | call (id : Nat)
  | burst (v : VehNo)
  | runner (r : RunnerNo)
  deriving DecidableEq, Repr

/-- A held slot with its holder and class. -/
structure HeldSlot where
  slot : SlotNo
  holder : Holder
  cls : TrunkClass
  deriving DecidableEq, Repr

/-- A waiting request. -/
structure Waiting where
  holder : Holder
  cls : TrunkClass
  deriving DecidableEq, Repr

/-- The trunk items of R101. `held` is the slot table and the grant order in one: the held slots, oldest grant first. -/
structure Trunk where
  state : TrunkState := .sync
  marks : Nat := 0
  misses : Nat := 0
  allotment : List SlotNo := List.finRange 24
  held : List HeldSlot := []
  queue : List Waiting := []
  deriving DecidableEq, Repr

/-! ## Haulage (07_haulage_vehicles_and_junctions.md) -/

inductive VehicleKind | shuttle | scoop | service
  deriving DecidableEq, Repr
inductive VehicleState | unseen | idle | claimWait | claimed | stopped | lost
  deriving DecidableEq, Repr
inductive StopReason | trip | evacuation | host
  deriving DecidableEq, Repr

/-- A stop set, drawn from TRIP, EVACUATION and HOST. -/
structure StopSet where
  trip : Bool := false
  evacuation : Bool := false
  host : Bool := false
  deriving DecidableEq, Repr

/-- A leg of a claim or of a wait entry. -/
structure Leg where
  junction : JuncNo
  entry : Nat
  exit : Nat
  cleared : Bool := false
  deriving DecidableEq, Repr

/-- A route claim (section 7.1) with its overstay timer (R132). -/
structure Claim where
  legs : List Leg
  granted : Time
  reported : Bool := false
  overstayAt : Option Time := none
  deriving DecidableEq, Repr

/-- A vehicle record (section 7.1) with its telemetry period timer (R138). The onboard channel is read from the channel table
(R22). -/
structure Vehicle where
  configured : Bool := false
  tagId : Nat := 0
  kind : VehicleKind := .shuttle
  overstay : Nat := 90
  period : Nat := 5
  firstQuarter : QuarterNo := 1
  state : VehicleState := .unseen
  zone : Option ZoneNo := none
  lastJunction : Option JuncNo := none
  stop : StopSet := {}
  claim : Option Claim := none
  lastRead : Option Time := none
  lostAt : Option Time := none
  periodAt : Option Time := none
  deriving DecidableEq, Repr

inductive JunctionState | inService | failed
  deriving DecidableEq, Repr
inductive JunctionHolder
  | none
  | claim (v : VehNo)
  | walk
  | evacuation
  deriving DecidableEq, Repr

/-- A junction record (section 7.2). `go` is the one branch whose lamp shows GO, none when every lamp shows STOP (R117).
`fresh` holds until the first entry into IN_SERVICE after a reset or a SET_JUNCTION, which is not reported (R118). -/
structure Junction where
  configured : Bool := false
  zone : Option ZoneNo := none
  beacon : Option DevRef := none
  branches : Nat := 2
  walk : Nat := 20
  state : JunctionState := .failed
  holder : JunctionHolder := .none
  go : Option Nat := none
  walkPending : Bool := false
  walkAt : Option Time := none
  fresh : Bool := true
  deriving DecidableEq, Repr

/-- An entry of the route wait list (R124). -/
structure WaitEntry where
  vehicle : VehNo
  legs : List Leg
  joined : Time
  deriving DecidableEq, Repr

/-! ## Telemetry bursts (08_telemetry_bursts.md) -/

inductive BurstOrigin | periodic | host
  deriving DecidableEq, Repr
inductive BurstState | gathering | interrupted | done
  deriving DecidableEq, Repr
inductive GatherEnd | complete | notHeard | beaconFailed | vehicleChanged
  deriving DecidableEq, Repr
inductive StopCause | noSlot | noTrunk | trunkLost | period | vehicleChanged
  deriving DecidableEq, Repr
inductive Forwarding
  | pending
  | holding
  | forwarded
  | stopped (cause : StopCause)
  deriving DecidableEq, Repr
inductive Q1Outcome | entered | zoneChanged | noChannel | noQ1
  deriving DecidableEq, Repr

/-- A burst record (R137). `gatherEnd` is none while gathering is RUNNING. `carried` holds while the first unforwarded quarter
goes out in the cycle under way (R142; log entry 12). -/
structure Burst where
  origin : BurstOrigin
  first : QuarterNo
  state : BurstState := .gathering
  received : List Quarter := []
  gatherEnd : Option GatherEnd := none
  outstanding : Option (QuarterNo × DevRef) := none
  misses : Nat := 0
  forwarded : Nat := 0
  carried : Bool := false
  forwarding : Forwarding := .pending
  slot : Option SlotNo := none
  zoneAtQ1 : Option ZoneNo := none
  zoneChanged : Bool := false
  outcome : Option Q1Outcome := none
  deriving DecidableEq, Repr

/-! ## Refuge stations (09_refuge_stations.md) -/

inductive Door | opened | closed | unknown
  deriving DecidableEq, Repr
inductive Latched | standby | activated | distress
  deriving DecidableEq, Repr

/-- A station record (section 9.1). -/
structure Station where
  configured : Bool := false
  zone : Option ZoneNo := none
  served : List ZoneNo := []
  panel : Option DevRef := none
  insideO2 : Option ChanNo := none
  insideCo : Option ChanNo := none
  onActivated : Option ProgNo := none
  onDistress : Option ProgNo := none
  door : Door := .unknown
  headcount : Nat := 0
  latched : Latched := .standby
  online : Bool := false
  strobe : List RunnerNo := []
  deriving DecidableEq, Repr

/-! ## Alarm programs (10_alarm_programs.md) -/

inductive Action | sound | strobe | announce | page | evacuate | wait | test | transfer | report
  deriving DecidableEq, Repr

/-- A step of the step store (section 10.1). The defaults are the step after a reset that loses configuration (R153). `item`
is the number its byte spells, 0 for an action without one (log entry 8). -/
structure Step where
  action : Action := .report
  zone : Nat := 0
  item : Nat := 0
  pattern : Option Pattern := none
  count : Nat := 0
  chain : Bool := false
  deriving DecidableEq, Repr

/-- A directory entry (section 10.1). -/
structure Program where
  defined : Bool := false
  first : Nat := 0
  urgency : Nat := 1
  key : Key := 0
  deriving DecidableEq, Repr

inductive StartCause
  | zoneAlarm | zoneFault | zoneTrip | minerEmergency | refugeActivated | refugeDistress | host
  deriving DecidableEq, Repr

inductive EndReason
  | normal | cancelled | preempted | loading | programCheck | protectionCheck | dataCheck | slotCheck
  deriving DecidableEq, Repr

inductive RunnerState | idle | stepping | slotWait
  deriving DecidableEq, Repr

/-- The check flags of a run (section 10.2). -/
structure CheckFlags where
  program : Bool := false
  protection : Bool := false
  data : Bool := false
  slot : Bool := false
  deriving DecidableEq, Repr

/-- A run-status record (R165). -/
structure RunStatus where
  program : ProgNo
  zone : ZoneNo
  cause : StartCause
  reason : EndReason
  lastStep : Option Nat
  nextStep : Option Nat
  residual : Nat
  checks : CheckFlags
  deriving DecidableEq, Repr

/-- A runner (section 10.2). `current` is the timed step whose count runs or that waits for a slot; `countEnd` the moment its
count runs out; `slotWaitAt` the expiry of the slot wait timer; `lastTaken` the last step taken in the run (R165). -/
structure Runner where
  state : RunnerState := .idle
  program : Option ProgNo := none
  zone : Option ZoneNo := none
  cause : Option StartCause := none
  urgency : Option Nat := none
  key : Option Key := none
  startNo : Option Nat := none
  current : Option Nat := none
  countEnd : Option Time := none
  untimed : Nat := 0
  lastTransfer : Bool := false
  checks : CheckFlags := {}
  record : Option RunStatus := none
  slotWaitAt : Option Time := none
  lastTaken : Option Nat := none
  deriving DecidableEq, Repr

/-- A start request (section 10.3). -/
structure StartReq where
  program : ProgNo
  zone : ZoneNo
  cause : StartCause
  deriving DecidableEq, Repr

/-- A start queue entry (R159). -/
structure QueuedStart where
  req : StartReq
  urgency : Nat
  arrived : Time
  deriving DecidableEq, Repr

/-! ## Spur lines and field devices (11_spur_lines_and_field_devices.md) -/

inductive DeviceState | suspect | online | offline | standby
  deriving DecidableEq, Repr
inductive MissCause | lineBusy | noReply | badCheck | wrongAddress | wrongKind
  deriving DecidableEq, Repr

/-- The commands a poll carries, by kind (R170). -/
inductive PollCommands
  | gasHead
  | callPoint (voice : List (Option Nat)) (ring : List Nat) (pages : List Nat) (message : Option Nat)
  | beacon (go : List Bool)
  | panel (strobe : Bool)
  deriving DecidableEq, Repr

/-- A device table entry (section 11.1). The bound items are read from the owners' configuration. `held` is what the device
commands itself by: its latest poll and that poll's moment (R170). -/
structure Device where
  configured : Bool := false
  ref : DevRef := ⟨0, 0⟩
  kind : DeviceKind := .gasHead
  zone : Option ZoneNo := none
  exitGate : Bool := false
  state : DeviceState := .suspect
  misses : Nat := 0
  lastMiss : Option MissCause := none
  held : Option (PollCommands × Time) := none
  deriving DecidableEq, Repr

/-- A telemetry fetch: the vehicle, its tag id, the quarter and the beacon it goes through (R136). -/
structure Fetch where
  vehicle : VehNo
  tagId : Nat
  quarter : QuarterNo
  beacon : DevRef
  deriving DecidableEq, Repr

/-- A transaction on a spur (R169). -/
inductive Transaction
  | poll (e : EntryNo) (commands : PollCommands)
  | fetch (e : EntryNo) (f : Fetch)
  deriving DecidableEq, Repr

/-- A spur record (section 11.1). `passed` is the highest address the round has passed. `broadcasts` counts the broadcast
resets sent on the line since the reset (R176; the model's own field, log entry 9). -/
structure Spur where
  standby : Bool := false
  counter : Nat := 0
  passed : Nat := 0
  fetches : List Fetch := []
  underWay : Option Transaction := none
  broadcasts : Nat := 0
  deriving DecidableEq, Repr

/-! ## The whole part -/

/-- Everything the spec gives the part, the queue of commands waiting, the time base, the start requests handed to the Alarm
Program Unit while it was taking an earlier input (log entry 5), and, while a PLACE_CALL is answered, its call with the cause
it has ended with (log entry 63). -/
structure State where
  pending : List Instr
  now : Time
  slp : Slp
  zones : Vector Zone 16
  channels : Vector Channel 32
  trips : Vector Trip 6
  signals : Vector Signal 8
  tags : Vector (Option Tag) 64
  calls : List Call
  nextCallId : Nat
  nextCreation : Nat
  voice : Vector (Vector (Option Nat) 4) 96
  trunk : Trunk
  vehicles : Vector Vehicle 12
  junctions : Vector Junction 24
  waits : List WaitEntry
  bursts : Vector (Option Burst) 12
  stations : Vector Station 4
  steps : Vector Step 128
  programs : Vector Program 32
  runners : Vector Runner 4
  startQueue : List QueuedStart
  nextStart : Nat
  devices : Vector Device 96
  spurs : Vector Spur 8
  handOffs : List StartReq
  answering : Option (Nat × Option CallCause)
  deriving DecidableEq, Repr

/-- No command of the table stops the part: every row has an effect the spec gives. The one constructor is kept for the
interface and is raised by nothing (safe). -/
inductive Fault
  | unreachable
  deriving DecidableEq, Repr

/-- Why the model may decline a command. -/
inductive Refusal
  /-- Raised by a refused arm of `exec` for a command without a meaning; no arm is refused (safe). -/
  | notModelled (mnemonic : String)
  deriving DecidableEq, Repr

/-! ## Reset values -/

/-- The fields of the START report (R187) for a cause set, RETAINED or LOST, and mode LOADING: the causes as a count and
the causes in the order of R187's table. -/
def startFields (c : Causes) (retained : Bool) : Bytes :=
  let causes := [(c.power, 0), (c.dip, 1), (c.line, 2), (c.link, 3)].filterMap fun (p, n) => if p then some n else none
  listField byteField causes ++ byteField (if retained then 0 else 1) ++ byteField 0

/-- The START report, of class SAFETY (R187). -/
def startReport (c : Causes) (retained : Bool) : Report := ⟨.safety, 0x80, startFields c retained⟩

/-- The byte of a loss marker (R178). -/
def markerByte : Marker → Byte
  | .none => 0
  | .lost => 1
  | .lostSafety => 2

/-- A report frame: tag 0, the code, the loss marker, the fields (R178, R184). -/
def reportFrame (m : Marker) (r : Report) : Bytes := buildFrame kindReport 0 (r.code :: markerByte m :: r.fields)

/-- The cause set of a power-up reset. -/
def powerCauses : Causes := { power := true }

/-- The part right after a power-up reset (R187): configuration LOST, mode LOADING, every record at its stated values, no
command waiting, and the START report going out as the first frame (R183). -/
def State.reset : State where
  pending := []
  now := 0
  slp :=
    { mode := .loading, causes := powerCauses, retained := false, receiver := .hunt, buffer := [], replySlot := none
      sending := some ⟨false, reportFrame .none (startReport powerCauses false)⟩
      queue := [], marker := .none, resetDue := false, inReset := none }
  zones := Vector.replicate 16 {}
  channels := Vector.replicate 32 {}
  trips := Vector.replicate 6 {}
  signals := Vector.replicate 8 {}
  tags := Vector.replicate 64 none
  calls := []
  nextCallId := 1
  nextCreation := 1
  voice := Vector.replicate 96 (Vector.replicate 4 none)
  trunk := {}
  vehicles := Vector.replicate 12 {}
  junctions := Vector.replicate 24 {}
  waits := []
  bursts := Vector.replicate 12 none
  stations := Vector.replicate 4 {}
  steps := Vector.replicate 128 {}
  programs := Vector.replicate 32 {}
  runners := Vector.replicate 4 {}
  startQueue := []
  nextStart := 1
  devices := Vector.replicate 96 {}
  spurs := Vector.replicate 8 { passed := 31, broadcasts := 1 }
  handOffs := []
  answering := none

end Sys2Proof.Machine
end

