-- ==== Sys2Proof/Machine/Ops.lean ====
section
/-! DEFINITION. The named operations over the state that every block uses: one update per table, the report queue (R184), the
time base, and the small list operations of the lists "oldest first". -/

namespace Sys2Proof.Machine

/-! ## One update per table -/

def State.modSlp (s : State) (f : Slp → Slp) : State := { s with slp := f s.slp }
def State.modZone (s : State) (z : ZoneNo) (f : Zone → Zone) : State :=
  { s with zones := s.zones.set z (f (s.zones.get z)) }
def State.modChannel (s : State) (c : ChanNo) (f : Channel → Channel) : State :=
  { s with channels := s.channels.set c (f (s.channels.get c)) }
def State.modTrip (s : State) (o : OutNo) (f : Trip → Trip) : State :=
  { s with trips := s.trips.set o (f (s.trips.get o)) }
def State.modSignal (s : State) (g : SigNo) (f : Signal → Signal) : State :=
  { s with signals := s.signals.set g (f (s.signals.get g)) }
def State.setTag (s : State) (r : Roster) (t : Option Tag) : State := { s with tags := s.tags.set r t }
def State.modTag (s : State) (r : Roster) (f : Tag → Tag) : State :=
  { s with tags := s.tags.set r ((s.tags.get r).map f) }
def State.modCall (s : State) (id : Nat) (f : Call → Call) : State :=
  { s with calls := s.calls.map fun c => if c.id = id then f c else c }
def State.modTrunk (s : State) (f : Trunk → Trunk) : State := { s with trunk := f s.trunk }
def State.modVehicle (s : State) (v : VehNo) (f : Vehicle → Vehicle) : State :=
  { s with vehicles := s.vehicles.set v (f (s.vehicles.get v)) }
def State.modJunction (s : State) (j : JuncNo) (f : Junction → Junction) : State :=
  { s with junctions := s.junctions.set j (f (s.junctions.get j)) }
def State.setBurst (s : State) (v : VehNo) (b : Option Burst) : State := { s with bursts := s.bursts.set v b }
def State.modStation (s : State) (n : StationNo) (f : Station → Station) : State :=
  { s with stations := s.stations.set n (f (s.stations.get n)) }
def State.modRunner (s : State) (r : RunnerNo) (f : Runner → Runner) : State :=
  { s with runners := s.runners.set r (f (s.runners.get r)) }
def State.modDevice (s : State) (e : EntryNo) (f : Device → Device) : State :=
  { s with devices := s.devices.set e (f (s.devices.get e)) }
def State.modSpur (s : State) (p : SpurNo) (f : Spur → Spur) : State :=
  { s with spurs := s.spurs.set p (f (s.spurs.get p)) }
def State.setVoice (s : State) (r : VoiceRef) (c : Option Nat) : State :=
  { s with voice := s.voice.set r.entry ((s.voice.get r.entry).set r.chan c) }

/-! ## The report queue (R184) -/

/-- Whether the queue holds a ROUTINE report. -/
def hasRoutine (q : List Report) : Bool := q.any fun r => r.cls == .routine

/-- The loss marker after a ROUTINE report is discarded: LOST unless it is already LOST_SAFETY. -/
def Marker.afterRoutineLoss : Marker → Marker
  | .lostSafety => .lostSafety
  | _ => .lost

/-- A produced report joins the end; a queue that then holds more than 32 discards its oldest ROUTINE report, or else its
oldest SAFETY report, and the loss marker shows it (R184). -/
def queueReport (q : List Report) (m : Marker) (r : Report) : List Report × Marker :=
  let joined := q ++ [r]
  if joined.length ≤ Config.reportQueueBound then (joined, m)
  else if hasRoutine joined then (joined.eraseP fun r => r.cls == .routine, m.afterRoutineLoss)
  else (joined.tail, .lostSafety)

/-- A report is produced (R184). -/
def State.report (s : State) (r : Report) : State :=
  s.modSlp fun l => { l with queue := (queueReport l.queue l.marker r).1, marker := (queueReport l.queue l.marker r).2 }

/-! ## The time base (log entry 1) -/

/-- The time base has reached a moment: an expiry is taken at its moment or later. -/
def State.reach (s : State) (t : Time) : State := { s with now := max s.now t }

/-- The time left to a moment. -/
def State.left (s : State) (t : Time) : Time := t - s.now

/-- An age in whole seconds, 65535 at most (R44, R81). -/
def State.ageSeconds (s : State) (t : Time) : Nat := min 65535 ((s.now - t) / 10)

/-! ## Lists oldest first -/

/-- Appended when not already there (R9, R10). -/
def appendNew {α : Type} [DecidableEq α] (l : List α) (a : α) : List α := if a ∈ l then l else l ++ [a]

/-- Every index of a table, in ascending number. -/
def allOf (n : Nat) : List (Fin n) := List.finRange n

/-- The indices of a table that satisfy a test, in ascending number. -/
def thoseOf (n : Nat) (p : Fin n → Bool) : List (Fin n) := (List.finRange n).filter p

/-- The lowest index of a table that satisfies a test. -/
def firstOf (n : Nat) (p : Fin n → Bool) : Option (Fin n) := (List.finRange n).find? p

/-- A change carried out for one item after another. -/
def State.forEach {α : Type} (s : State) (l : List α) (f : State → α → State) : State := l.foldl f s

end Sys2Proof.Machine
end

