-- ==== Sys2Proof/Machine/Operands.lean ====
section
/-! DEFINITION. Operands: numbers of the manual as table indices, and named values as the numbers R178 gives them, "from 0 in
the order in which the manual first lists the values of that field" (log entry 8). -/

namespace Sys2Proof.Machine

/-- The index of a number 1 to n; none outside. -/
def index? (n k : Nat) : Option (Fin n) := if h : 1 ≤ k ∧ k ≤ n then some ⟨k - 1, by omega⟩ else none

/-- An optional number: 0 is none, otherwise 1 to n; none at all outside (R178). -/
def optIndex? (n k : Nat) : Option (Option (Fin n)) := if k = 0 then some none else (index? n k).map some

/-- A key 0 to 15. -/
def key? (k : Nat) : Option Key := if h : k < 16 then some ⟨k, h⟩ else none

/-- A device reference: spur 1 to 8 and address 1 to 31. -/
def devRef? (spur address : Nat) : Option DevRef := do
  let p ← index? 8 spur
  let a ← index? 31 address
  return ⟨p, a⟩

/-- An assignable slot 8 to 31. -/
def slot? (n : Nat) : Option SlotNo := if h : 8 ≤ n ∧ n ≤ 31 then some ⟨n - 8, by omega⟩ else none

/-- The number of an assignable slot. -/
def slotNumber (k : SlotNo) : Nat := k.1 + 8

/-! ## Named values, each list in the order in which the manual first lists its values -/

/-- CONFIGURED or UNCONFIGURED; true is CONFIGURED. -/
def configuredStates : List Bool := [true, false]
/-- DEFINED or UNDEFINED; true is DEFINED. -/
def definedStates : List Bool := [true, false]
/-- set or clear; true is set. -/
def setClear : List Bool := [true, false]
def summaries : List Summary := [.normal, .alert, .fault, .alarm]
def powerViews : List (Option TripState) :=
  [none, some .held, some .closed, some .waiting, some .opening, some .opened, some .unconfirmed]
def evacStates : List Evac := [.none, .ordered, .cleared]
def gasTypes : List GasType := [.ch4, .co, .o2, .air]
def levels : List Level := [.normal, .alert, .alarm, .fault]
def faultCauses : List FaultCause :=
  [.stale, .head, .warmup, .underRange, .deviceOffline, .standby, .outOfService, .noSample]
def qualifications : List Qualification := [.none, .alarm, .alarmOrFault]
def services : List Service := [.inService, .outOfService]
def tripModes : List TripMode := [.direct, .delayed]
def manualEdges : List ManualEdge := [.falling, .rising, .disabled]
def senses : List Sense := [.offWhenLow, .offWhenHigh]
def tripStates : List TripState := [.held, .closed, .waiting, .opening, .opened, .unconfirmed]
def tripCauses : List TripCause :=
  [.demand, .waitExpired, .abandoned, .manual, .host, .backup, .feedbackOff, .confirmTimeout, .feedbackOn, .restore,
    .loading, .start]
def patterns : List Pattern := [.steady, .slow, .fast]
def tagStates : List TagState := [.unplaced, .placed, .missing, .out]
def callKinds : List CallKind := [.routine, .priority, .emergency]
def callStates : List CallState := [.setup, .ringing, .active, .held]
def callClasses : List TrunkClass := [.routine, .emergency, .priority]
def trunkStates : List TrunkState := [.sync, .up, .down]
def trunkClasses : List TrunkClass := [.alarm, .emergency, .priority, .telemetry, .routine]
def vehicleKinds : List VehicleKind := [.shuttle, .scoop, .service]
def vehicleStates : List VehicleState := [.unseen, .idle, .claimWait, .claimed, .stopped, .lost]
def stopReasons : List StopReason := [.trip, .evacuation, .host]
def junctionStates : List JunctionState := [.inService, .failed]
def burstOrigins : List BurstOrigin := [.periodic, .host]
def burstStates : List BurstState := [.gathering, .interrupted, .done]
def gatherEnds : List GatherEnd := [.complete, .notHeard, .beaconFailed, .vehicleChanged]
def stopCauses : List StopCause := [.noSlot, .noTrunk, .trunkLost, .period, .vehicleChanged]
def q1Outcomes : List Q1Outcome := [.entered, .zoneChanged, .noChannel, .noQ1]
def headStatuses : List HeadStatus := [.ok, .warming, .fault]
def directions : List Direction := [.forward, .reverse, .standing]
def driveStates : List DriveState := [.off, .ready, .tramming, .tripped]
def brakes : List Brake := [.applied, .released]
def doors : List Door := [.opened, .closed, .unknown]
def latchedStates : List Latched := [.standby, .activated, .distress]
def actions : List Action := [.sound, .strobe, .announce, .page, .evacuate, .wait, .test, .transfer, .report]
def startCauses : List StartCause :=
  [.zoneAlarm, .zoneFault, .zoneTrip, .minerEmergency, .refugeActivated, .refugeDistress, .host]
def endReasons : List EndReason :=
  [.normal, .cancelled, .preempted, .loading, .programCheck, .protectionCheck, .dataCheck, .slotCheck]
def runnerStates : List RunnerState := [.idle, .stepping, .slotWait]
def deviceKinds : List DeviceKind := [.gasHead, .callPoint, .beacon, .refugePanel]
/-- The order of R26 and R40, where all four are first listed. -/
def deviceStates : List DeviceState := [.offline, .standby, .suspect, .online]
def missCauses : List MissCause := [.lineBusy, .noReply, .badCheck, .wrongAddress, .wrongKind]
def modes : List Mode := [.loading, .run]

/-- The byte of a named value: its place in its list (R178). -/
def named {α : Type} [DecidableEq α] (l : List α) (a : α) : Bytes := byteField (l.idxOf a)

/-- An optional named value: its numbers start at 0, so PRESENT or ABSENT goes first (R178). -/
def optNamed {α : Type} [DecidableEq α] (l : List α) (a : Option α) : Bytes := presenceField (named l) a

/-- A table number, from 1. -/
def num {n : Nat} (i : Fin n) : Bytes := byteField (number i)

/-- An optional table number, 0 for none (R178). -/
def optNum {n : Nat} (i : Option (Fin n)) : Bytes := byteField (i.elim 0 number)

/-- An optional trunk slot: its range starts above 0, so 0 is none (R178; log entry 8). -/
def optSlot (k : Option SlotNo) : Bytes := byteField (k.elim 0 slotNumber)

/-- A device reference: spur byte, then address byte (R178). -/
def refField (r : DevRef) : Bytes := num r.spur ++ num r.addr

/-- An optional device reference: spur and address each start at 1, so each is 0 for none (R178; log entry 52). -/
def optRef (r : Option DevRef) : Bytes := optNum (r.map DevRef.spur) ++ optNum (r.map DevRef.addr)

end Sys2Proof.Machine
end

