-- ==== Sys2Proof/Machine/Flags.lean ====
section
/-! DEFINITION. What the part derives from its records: bindings and assignments, level and summary ranks, qualifying states,
readings, patterns, lamps, conditions. Nothing here changes the state. -/

namespace Sys2Proof.Machine

/-! ## Devices and bindings (R22, R82, R118, R148, R168) -/

/-- The CONFIGURED entry at a spur and address (R168). -/
def State.deviceAt (s : State) (r : DevRef) : Option EntryNo :=
  firstOf 96 fun e => (s.devices.get e).configured && (s.devices.get e).ref == r

/-- The CONFIGURED entry of one kind at a spur and address. -/
def State.deviceOfKind (s : State) (k : DeviceKind) (r : DevRef) : Option EntryNo :=
  (s.deviceAt r).filter fun e => (s.devices.get e).kind == k

/-- The CONFIGURED channel that names an input of a head (R22). -/
def State.headChannel (s : State) (r : DevRef) (input : Fin 4) : Option ChanNo :=
  firstOf 32 fun c => (s.channels.get c).configured && (s.channels.get c).source == some (.head r input)

/-- The CONFIGURED channels that name a head, in input order (R40). -/
def State.headChannels (s : State) (r : DevRef) : List ChanNo := (allOf 4).filterMap (s.headChannel r)

/-- The onboard channel of a vehicle: the CONFIGURED channel that names it (R22). -/
def State.onboardChannel (s : State) (v : VehNo) : Option ChanNo :=
  firstOf 32 fun c => (s.channels.get c).configured && (s.channels.get c).source == some (.vehicle v)

/-- The CONFIGURED junction that names a beacon (section 7.4). -/
def State.beaconJunction (s : State) (r : DevRef) : Option JuncNo :=
  firstOf 24 fun j => (s.junctions.get j).configured && (s.junctions.get j).beacon == some r

/-- The CONFIGURED station that names a panel (R148). -/
def State.panelStation (s : State) (r : DevRef) : Option StationNo :=
  firstOf 4 fun n => (s.stations.get n).configured && (s.stations.get n).panel == some r

/-- A spur's poll list: the CONFIGURED entries that name it, in ascending address order (R168). -/
def State.pollList (s : State) (p : SpurNo) : List EntryNo :=
  (allOf 31).filterMap fun a => s.deviceAt ⟨p, a⟩

/-- The zones bound to an output: CONFIGURED and naming it, in ascending number (R46). -/
def State.boundZones (s : State) (o : OutNo) : List ZoneNo :=
  thoseOf 16 fun z => (s.zones.get z).configured && (s.zones.get z).trip == some o

/-- The output of a zone that takes part: none for an UNCONFIGURED zone (R1, R4). -/
def State.zoneOutput (s : State) (z : ZoneNo) : Option OutNo :=
  if (s.zones.get z).configured then (s.zones.get z).trip else none

/-! ## Fallback (R170) -/

/-- The commands that a device goes on with when it has fallen back: a beacon shows STOP on every branch, a call point keeps its
voice channels and stops ringing, flashing pages and playing, a panel's strobe is off (R170). -/
def PollCommands.fallenBack : PollCommands → PollCommands
  | .gasHead => .gasHead
  | .callPoint voice _ _ _ => .callPoint voice [] [] none
  | .beacon go => .beacon (go.map fun _ => false)
  | .panel _ => .panel false

/-- What a device holds after a fallback, the moment of its latest poll kept. -/
def Device.fallenBack (d : Device) : Option (PollCommands × Time) := d.held.map fun (c, t) => (c.fallenBack, t)

/-! ## Zones (R2, R6, R8, R9, R16) -/

/-- The zone in whose vehicles-present list a vehicle stands (R10). -/
def State.listZone (s : State) (v : VehNo) : Option ZoneNo := firstOf 16 fun z => v ∈ (s.zones.get z).vehicles

/-- The zone in whose occupancy list a tag stands (R9). -/
def State.tagZone (s : State) (r : Roster) : Option ZoneNo := firstOf 16 fun z => r ∈ (s.zones.get z).occupancy

/-- The zone a channel is assigned to (R2, R22). -/
def State.channelZone (s : State) (c : ChanNo) : Option ZoneNo :=
  let ch := s.channels.get c
  if ch.configured then
    match ch.source with
    | some (.head ..) => ch.zone
    | some (.vehicle v) => s.listZone v
    | none => none
  else none

/-- The channels assigned to a zone, in ascending number. -/
def State.channelsOf (s : State) (z : ZoneNo) : List ChanNo := thoseOf 32 fun c => s.channelZone c == some z

/-- A level state as a summary grade (R6). -/
def summaryOf : Level → Summary
  | .normal => .normal
  | .alert => .alert
  | .alarm => .alarm
  | .fault => .fault

/-- The rank of a summary, lowest first: NORMAL, ALERT, FAULT, ALARM (R6). -/
def summaryRank : Summary → Nat
  | .normal => 0
  | .alert => 1
  | .fault => 2
  | .alarm => 3

/-- The higher ranked of two summaries. -/
def worse (a b : Summary) : Summary := if summaryRank a < summaryRank b then b else a

/-- The summary that R6 gives a zone: the highest-ranked level state among its channels, NORMAL when none is. -/
def State.gradeOf (s : State) (z : ZoneNo) : Summary :=
  (s.channelsOf z).foldl (fun a c => worse a (summaryOf (s.channels.get c).level)) .normal

/-- The power view that R8 gives a zone. -/
def State.viewOf (s : State) (z : ZoneNo) : Option TripState := (s.zoneOutput z).map fun o => (s.trips.get o).state

/-- OPENING, OPEN or UNCONFIRMED (R16, R128). -/
def isTripped : Option TripState → Bool
  | some .opening => true
  | some .opened => true
  | some .unconfirmed => true
  | _ => false

/-- The number of tags in a zone's list whose state is MISSING (R9). -/
def State.missingCount (s : State) (z : ZoneNo) : Nat :=
  ((s.zones.get z).occupancy.filter fun r => (s.tags.get r).any fun t => t.state == .missing).length

/-- A zone's evacuation is in force: ORDERED or CLEARED. -/
def State.evacuating (s : State) (z : ZoneNo) : Bool := (s.zones.get z).evac != .none

/-- The conditions of R16. -/
inductive Condition | occupied | missing | tripped | evacCleared
  deriving DecidableEq, Repr

/-- The conditions in the order of R16's table. -/
def conditions : List Condition := [.occupied, .missing, .tripped, .evacCleared]

/-- A condition of a zone as its record stands; every condition of an UNCONFIGURED zone is false (R16). -/
def State.condition (s : State) (z : ZoneNo) (c : Condition) : Bool :=
  (s.zones.get z).configured &&
    match c with
    | .occupied => !(s.zones.get z).occupancy.isEmpty
    | .missing => 0 < s.missingCount z
    | .tripped => isTripped (s.zones.get z).view
    | .evacCleared => (s.zones.get z).evac == .cleared

/-- Something is assigned to a zone (R2): a channel, call point, junction, station, tag or vehicle. A junction's or station's
record names the zone whether it is CONFIGURED or not; a free device entry has no binding. -/
def State.inUse (s : State) (z : ZoneNo) : Bool :=
  !(s.channelsOf z).isEmpty
    || (allOf 96).any (fun e => (s.devices.get e).configured && (s.devices.get e).kind == .callPoint
        && (s.devices.get e).zone == some z)
    || (allOf 24).any (fun j => (s.junctions.get j).zone == some z)
    || (allOf 4).any (fun n => (s.stations.get n).zone == some z || z ∈ (s.stations.get n).served)
    || !(s.zones.get z).occupancy.isEmpty || !(s.zones.get z).vehicles.isEmpty

/-! ## Channels (R21, R35 to R37, R42) -/

/-- The range maximum of a gas type (R21). -/
def rangeMax : GasType → Nat
  | .ch4 => 500
  | .co => 999
  | .o2 => 250
  | .air => 1500

/-- Whether bad air rises (R21). -/
def isRising : GasType → Bool
  | .ch4 => true
  | .co => true
  | .o2 => false
  | .air => false

/-- A channel is in a qualifying state (R42). -/
def Channel.qualifies (c : Channel) : Bool :=
  c.configured &&
    match c.qualification with
    | .none => false
    | .alarm => c.level == .alarm
    | .alarmOrFault => c.level == .alarm || c.level == .fault

/-- A zone has an assigned channel in a qualifying state (R42). -/
def State.zoneQualifies (s : State) (z : ZoneNo) : Bool := (s.channelsOf z).any fun c => (s.channels.get c).qualifies

/-! ## Trip and signal outputs (R47, R49, R50, R63, R64) -/

/-- The feedback reading is POWER_OFF (R49). -/
def Trip.powerOff (t : Trip) : Bool := t.feedbackHigh == (t.sense == .offWhenHigh)

/-- The manual-trip input is at its active level (R50). -/
def Trip.manualActive (t : Trip) : Bool :=
  match t.edge with
  | .falling => !t.manualHigh
  | .rising => t.manualHigh
  | .disabled => false

/-- The contact permits power: in CLOSED or WAITING while the part is in RUN (R47). -/
def State.contactClosed (s : State) (o : OutNo) : Bool :=
  s.slp.inReset.isNone && s.slp.mode == .run
    && ((s.trips.get o).state == .closed || (s.trips.get o).state == .waiting)

/-- The runner entry that wins among the runners of a driver set: the highest urgency, the earliest among equals (R64). -/
def winner (ds : List Driver) : Option (Pattern × Nat) :=
  ds.foldl (fun best d =>
    match d, best with
    | .runner _ p u, none => some (p, u)
    | .runner _ p u, some (q, w) => if w < u then some (p, u) else some (q, w)
    | .warning _, b => b) none

/-- The pattern chosen among the drivers; none when the set is empty (R63, R64). -/
def chosenPattern (ds : List Driver) : Option Pattern :=
  if ds.any fun d => match d with | .warning _ => true | .runner .. => false then some .fast
  else (winner ds).map fun w => w.1

/-- Whether the output stands driven at this moment: STEADY throughout, SLOW 0.5 s on and 0.5 s off, FAST 0.1 s on and
0.1 s off, each from the start of its phase (R64). -/
def State.signalDriven (s : State) (g : SigNo) : Bool :=
  match (s.signals.get g).shown with
  | none => false
  | some .steady => true
  | some .slow => (s.now - (s.signals.get g).phaseFrom) / 5 % 2 == 0
  | some .fast => (s.now - (s.signals.get g).phaseFrom) % 2 == 0

/-- The trip output whose warning a signal output is (R60). -/
def State.warningOf (s : State) (g : SigNo) : Option OutNo := firstOf 6 fun o => (s.trips.get o).warning == some g

/-! ## Haulage (R116, R117, R126, R128) -/

/-- A junction is free (R126). -/
def Junction.isFree (j : Junction) : Bool :=
  j.configured && j.state == .inService && j.holder == .none && !j.walkPending

/-- The lamps of a junction, true for GO, branch 1 first (R117). -/
def Junction.lamps (j : Junction) : List Bool := (List.range j.branches).map fun b => j.go == some (b + 1)

/-- A stop set is empty. -/
def StopSet.isEmpty (x : StopSet) : Bool := !x.trip && !x.evacuation && !x.host

/-- The reasons of a stop set, in the order TRIP, EVACUATION, HOST. -/
def StopSet.toList (x : StopSet) : List StopReason :=
  (if x.trip then [.trip] else []) ++ (if x.evacuation then [.evacuation] else []) ++ (if x.host then [.host] else [])

/-- A stop set holds a reason. -/
def StopSet.has (x : StopSet) : StopReason → Bool
  | .trip => x.trip
  | .evacuation => x.evacuation
  | .host => x.host

/-- A stop set with one reason present or absent. -/
def StopSet.put (x : StopSet) (r : StopReason) (b : Bool) : StopSet :=
  match r with
  | .trip => { x with trip := b }
  | .evacuation => { x with evacuation := b }
  | .host => { x with host := b }

/-- A vehicle has an entry in the route wait list. -/
def State.waitOf (s : State) (v : VehNo) : Option WaitEntry := s.waits.find? fun w => w.vehicle == v

/-- The legs of a claim that still hold their junctions (R125). -/
def heldLegs (legs : List Leg) : List Leg := legs.filter fun l => !l.cleared

/-! ## Bursts (R137) -/

/-- A burst is in progress: GATHERING or INTERRUPTED (R137). -/
def Burst.inProgress (b : Burst) : Bool := b.state == .gathering || b.state == .interrupted

/-- Which quarter some contents are. -/
def quarterNo : Quarter → QuarterNo
  | .q0 .. => 0
  | .q1 .. => 1
  | .q2 .. => 2
  | .q3 .. => 3

/-- The quarter of the order that follows the received ones: the first quarter upward, modulo 4 (R137). -/
def Burst.nextQuarter (b : Burst) : QuarterNo := b.first + Fin.ofNat 4 b.received.length

/-- The Q1 contents, when received. -/
def Burst.q1 (b : Burst) : Option (Nat × HeadStatus) :=
  b.received.findSome? fun q => match q with | .q1 raw st => some (raw, st) | _ => none

/-! ## Stations (R151) -/

/-- The strobe command the next poll of the panel would carry (R151). -/
def State.strobeOn (s : State) (n : StationNo) : Bool :=
  (s.stations.get n).configured
    && ((s.stations.get n).served.any (fun z => s.evacuating z) || !(s.stations.get n).strobe.isEmpty)

/-! ## Programs (R156, R160, R170) -/

/-- A runner runs a program: it is STEPPING or SLOT_WAIT. -/
def Runner.running (r : Runner) : Bool := r.state != .idle

/-- The runner that runs a program for a zone (R156). -/
def State.runnerOf (s : State) (p : ProgNo) (z : ZoneNo) : Option RunnerNo :=
  firstOf 4 fun r => (s.runners.get r).running && (s.runners.get r).program == some p && (s.runners.get r).zone == some z

/-- Some runner runs a program. -/
def State.programRuns (s : State) (p : ProgNo) : Bool :=
  (allOf 4).any fun r => (s.runners.get r).running && (s.runners.get r).program == some p

/-- The start queue holds an entry for a program and zone (R156). -/
def State.queuedPair (s : State) (p : ProgNo) (z : ZoneNo) : Bool :=
  s.startQueue.any fun q => q.req.program == p && q.req.zone == z

/-- A timed step (section 10.1). -/
def isTimed : Action → Bool
  | .sound => true
  | .strobe => true
  | .announce => true
  | .wait => true
  | _ => false

/-- A step's zone operand resolved: the own zone for 0, the zone named otherwise (section 10.1). -/
def resolveZone (own : ZoneNo) (operand : Nat) : ZoneNo := (index? 16 operand).getD own

/-- The step at an index, none above 127 (R162). -/
def State.stepAt (s : State) (i : Nat) : Option Step := if h : i < 128 then some (s.steps.get ⟨i, h⟩) else none

/-- The zone and message of the announcement a runner is playing: its ANNOUNCE step's count runs (R170). -/
def State.playing (s : State) (r : RunnerNo) : Option (ZoneNo × Nat) :=
  let x := s.runners.get r
  if x.state == .stepping && x.countEnd.isSome then
    match x.current.bind s.stepAt, x.zone with
    | some st, some own => if st.action == .announce then some (resolveZone own st.zone, st.item) else none
    | _, _ => none
  else none

/-- The message a call point of a zone carries: of the runners playing there the one of highest urgency, and among equals
the one of lower start number (R170). Nothing plays for an UNCONFIGURED zone (R164). -/
def State.messageFor (s : State) (z : ZoneNo) : Option Nat :=
  let best := (allOf 4).foldl (fun b r =>
    match s.playing r with
    | some (w, m) =>
      let u := ((s.runners.get r).urgency).getD 0
      let n := ((s.runners.get r).startNo).getD 0
      if w = z then
        match b with
        | none => some (u, n, m)
        | some (u', n', m') => if u' < u || (u' == u && n < n') then some (u, n, m) else some (u', n', m')
      else b
    | none => b) (none : Option (Nat × Nat × Nat))
  if (s.zones.get z).configured then best.map fun b => b.2.2 else none

/-! ## Calls and trunk -/

/-- A call in the table. -/
def State.callOf (s : State) (id : Nat) : Option Call := s.calls.find? fun c => c.id == id

/-- The holder of a slot entry waits or holds (R105). -/
def Trunk.holds (t : Trunk) (h : Holder) : Bool := t.held.any fun x => x.holder == h
def Trunk.waitsFor (t : Trunk) (h : Holder) : Bool := t.queue.any fun x => x.holder == h

/-- The rank of a class, 1 highest (R105). -/
def classRank : TrunkClass → Nat
  | .alarm => 1
  | .emergency => 2
  | .priority => 3
  | .telemetry => 4
  | .routine => 5

/-- Whether a request of one class may preempt a holder of another (R105). -/
def mayPreempt : TrunkClass → TrunkClass → Bool
  | .alarm, .priority => true
  | .alarm, .telemetry => true
  | .alarm, .routine => true
  | .emergency, .telemetry => true
  | .emergency, .routine => true
  | .priority, .routine => true
  | _, _ => false

/-- The lowest-numbered free slot of the allotment (R105 case 3). -/
def Trunk.freeSlot (t : Trunk) : Option SlotNo :=
  firstOf 24 fun k => k ∈ t.allotment && !(t.held.any fun x => x.slot == k)

/-- The lowest class among some classes, as its rank. -/
def lowestRank (l : List TrunkClass) : Nat := l.foldl (fun m c => max m (classRank c)) 0

/-- The victim of a request: of the lowest class it may preempt that is present, the slot latest in the grant order (R106). -/
def Trunk.victim (t : Trunk) (c : TrunkClass) : Option HeldSlot :=
  let takeable := t.held.filter fun x => mayPreempt c x.cls
  (takeable.filter fun x => classRank x.cls == lowestRank (takeable.map fun y => y.cls)).getLast?

end Sys2Proof.Machine
end

