-- ==== Sys2Proof/Machine/Haulage.lean ====
section
/-! DEFINITION. The Haulage Controller (07_haulage_vehicles_and_junctions.md) as far as it needs no other block: lamps and
holders, the abort of claims, release processing, stop reasons, evacuation holds, and the HLC's reports (R135). -/

namespace Sys2Proof.Machine

/-! ## Reports (R135) -/

/-- The cause of a VEHICLE report. -/
inductive VehicleCause | reasonAdded | reasonRemoved | lost | found
  deriving DecidableEq, Repr

def vehicleCauses : List VehicleCause := [.reasonAdded, .reasonRemoved, .lost, .found]

/-- The cause of an abort (R129). -/
inductive AbortCause | stop | evacuationHold | junctionFailed | loading
  deriving DecidableEq, Repr

def abortCauses : List AbortCause := [.stop, .evacuationHold, .junctionFailed, .loading]

/-- The cause of a ROUTE_INVALID report. -/
inductive RouteCause | unknownVehicle | badLeg | loading | junctionFailed
  deriving DecidableEq, Repr

def routeCauses : List RouteCause := [.unknownVehicle, .badLeg, .loading, .junctionFailed]

/-- A stop set: a count and its reasons (R134). -/
def stopSetField (x : StopSet) : Bytes := listField (named stopReasons) x.toList

/-- A junction holder: none, CLAIM with the vehicle, WALK or EVACUATION (R134). -/
def holderField : JunctionHolder → Bytes
  | .none => byteField 0
  | .claim v => byteField 1 ++ num v
  | .walk => byteField 2
  | .evacuation => byteField 3

/-- A leg of a report or of a wait entry: junction, entry branch, exit branch (log entry 10). -/
def legField (l : Leg) : Bytes := num l.junction ++ byteField l.entry ++ byteField l.exit

/-- VEHICLE (R135): the state, zone and stop set are the vehicle's as they stand. -/
def State.reportVehicle (s : State) (v : VehNo) (prev : VehicleState) (cause : VehicleCause)
    (reason : Option StopReason) : State :=
  let x := s.vehicles.get v
  s.report ⟨.safety, 0x90, num v ++ named vehicleStates prev ++ named vehicleStates x.state ++ optNum x.zone
    ++ stopSetField x.stop ++ named vehicleCauses cause ++ optNamed stopReasons reason⟩

/-- CLAIM_ABORTED (R135): what was given up is CLAIM (0) or WAIT (1). -/
def State.reportAborted (s : State) (v : VehNo) (cause : AbortCause) (claim : Bool) (released : List JuncNo) : State :=
  s.report ⟨.safety, 0x91, num v ++ named abortCauses cause ++ named [true, false] claim ++ listField num released⟩

/-- JUNCTION (R135). -/
def State.reportJunction (s : State) (j : JuncNo) : State :=
  let x := s.junctions.get j
  s.report ⟨.safety, 0x92, num j ++ optNum x.zone ++ named junctionStates x.state ++ holderField x.holder⟩

/-- ROUTE_INVALID (R135). -/
def State.reportRouteInvalid (s : State) (beacon : DevRef) (tagId : Nat) (v : Option VehNo) (cause : RouteCause) : State :=
  s.report ⟨.routine, 0x93, refField beacon ++ tagIdField tagId ++ optNum v ++ named routeCauses cause⟩

/-- ROUTE_CONFLICT (R135). -/
def State.reportRouteConflict (s : State) (v : VehNo) (claimed : List JuncNo) (read : List Nat) : State :=
  s.report ⟨.routine, 0x94, num v ++ listField num claimed ++ listField byteField read⟩

/-- WAIT_FULL (R135). -/
def State.reportWaitFull (s : State) (v : VehNo) (legs : List Leg) : State :=
  s.report ⟨.routine, 0x95, num v ++ listField legField legs⟩

/-- WAIT_EXPIRED (R135). -/
def State.reportWaitExpired (s : State) (v : VehNo) (legs : List Leg) : State :=
  s.report ⟨.routine, 0x96, num v ++ listField legField legs⟩

/-- OVERSTAY (R135): the time granted is a free value's bytes (log entry 6). -/
def State.reportOverstay (s : State) (v : VehNo) (granted : Time) (held : List Leg) : State :=
  s.report ⟨.routine, 0x97, num v ++ Config.timeField granted ++ listField legField held⟩

/-! ## Holders and lamps (R117) -/

/-- A junction loses its holder: every lamp STOP. -/
def dropHolder (j : Junction) : Junction := { j with holder := .none, go := none }

/-- A route claim takes a junction: GO on the leg's entry branch (R123 step 3). -/
def claimHolder (v : VehNo) (l : Leg) (j : Junction) : Junction := { j with holder := .claim v, go := some l.entry }

/-- A walk takes a junction for its walk time from now (R126, R127). -/
def walkHolder (now : Time) (j : Junction) : Junction :=
  { j with holder := .walk, go := none, walkPending := false, walkAt := some (now + 10 * j.walk) }

/-- A walk hold ends: the holder and the walk deadline become none. -/
def endWalk (j : Junction) : Junction := if j.holder = .walk then { dropHolder j with walkAt := none } else j

/-- An evacuation takes a junction: any walk hold ended, walk pending cleared, every lamp STOP (R131 step 3). -/
def evacHolder (j : Junction) : Junction :=
  { endWalk j with holder := .evacuation, go := none, walkPending := false, walkAt := none }

/-! ## Grants and releases (R123, R126) -/

/-- The grant steps of R123. -/
def State.grant (s : State) (v : VehNo) (legs : List Leg) : State :=
  let s1 := { s with waits := s.waits.filter fun w => w.vehicle != v }
  let s2 := s1.forEach legs fun t l => t.modJunction l.junction (claimHolder v l)
  s2.modVehicle v fun x => { x with
    claim := some { legs := legs, granted := s.now, overstayAt := some (s.now + 10 * x.overstay) }, state := .claimed }

/-- Every leg names a free junction. -/
def State.allFree (s : State) (legs : List Leg) : Bool := legs.all fun l => (s.junctions.get l.junction).isFree

/-- Release processing, step 1: a pending walk takes a released junction (R126). -/
def State.releaseWalk (s : State) (j : JuncNo) : State :=
  let x := s.junctions.get j
  if x.state = .inService ∧ x.holder = .none ∧ x.walkPending = true then s.modJunction j (walkHolder s.now) else s

/-- One entry of the scan: granted when its every junction is free at this moment (R126). -/
def State.scanEntry (s : State) (w : WaitEntry) : State := if s.allFree w.legs then s.grant w.vehicle w.legs else s

/-- Release processing over the junctions that one event released (R126). R126's single scan is followed also where it makes the
two orders of R130 end with different holders (log entry 60). -/
def State.releaseAll (s : State) (released : List JuncNo) : State :=
  if released.isEmpty then s
  else
    let walked := s.forEach released State.releaseWalk
    walked.forEach walked.waits State.scanEntry

/-! ## Aborts (R129) -/

/-- The state of a vehicle that has given up what it held: STOPPED with a stop set, IDLE without; UNSEEN and LOST stay. -/
def settled (x : Vehicle) : Vehicle :=
  if x.state = .unseen ∨ x.state = .lost then x
  else { x with state := if x.stop.isEmpty then .idle else .stopped }

/-- Steps 1 to 4 of an abort, with the junctions released in leg order. -/
def State.abort (s : State) (v : VehNo) (cause : AbortCause) : State × List JuncNo :=
  let x := s.vehicles.get v
  let released := (x.claim.elim [] fun c => heldLegs c.legs).map fun l => l.junction
  let s1 := s.forEach released fun t j => t.modJunction j dropHolder
  let s2 := s1.modVehicle v fun y => settled { y with claim := none }
  let s3 := { s2 with waits := s2.waits.filter fun w => w.vehicle != v }
  if x.claim.isSome || (s.waitOf v).isSome then (s3.reportAborted v cause x.claim.isSome released, released)
  else (s3, released)

/-- A whole abort, its release processing included. -/
def State.abortWhole (s : State) (v : VehNo) (cause : AbortCause) : State :=
  let (s1, released) := s.abort v cause
  s1.releaseAll released

/-! ## Stop reasons (R128) -/

/-- A reason is added to a stop set: the VEHICLE report, and the abort when the set was empty. -/
def State.addReason (s : State) (v : VehNo) (r : StopReason) : State :=
  let x := s.vehicles.get v
  if x.stop.has r then s
  else
    let s1 := s.modVehicle v fun y =>
      let y := { y with stop := y.stop.put r true }
      if x.stop.isEmpty then settled y else y
    let s2 := s1.reportVehicle v x.state .reasonAdded (some r)
    if x.stop.isEmpty then s2.abortWhole v .stop else s2

/-- A reason is removed: a STOPPED vehicle whose set becomes empty is IDLE. -/
def State.removeReason (s : State) (v : VehNo) (r : StopReason) : State :=
  let x := s.vehicles.get v
  if x.stop.has r then
    let s1 := s.modVehicle v fun y =>
      let y := { y with stop := y.stop.put r false }
      if y.stop.isEmpty && y.state == .stopped then { y with state := .idle } else y
    s1.reportVehicle v x.state .reasonRemoved (some r)
  else s

/-- A reason is made present or absent. -/
def State.matchReason (s : State) (v : VehNo) (r : StopReason) (present : Bool) : State :=
  if present then s.addReason v r else s.removeReason v r

/-- TRIP stops a SHUTTLE or a SCOOP (R128). -/
def stopsOnTrip : VehicleKind → Bool
  | .shuttle => true
  | .scoop => true
  | .service => false

/-- TRIP matched to the kind of a vehicle and the power view of its zone (R128). -/
def State.matchTrip (s : State) (v : VehNo) : State :=
  let x := s.vehicles.get v
  s.matchReason v .trip (stopsOnTrip x.kind && x.zone.any fun z => isTripped (s.zones.get z).view)

/-- EVACUATION matched to the evacuation state of a vehicle's zone (R128). -/
def State.matchEvacuation (s : State) (v : VehNo) : State :=
  s.matchReason v .evacuation ((s.vehicles.get v).zone.any fun z => s.evacuating z)

/-- A power view change handed over by the Zone Table (R128). -/
def State.hlcPowerView (s : State) (z : ZoneNo) (prev new : Option TripState) : State :=
  let present := (s.zones.get z).vehicles
  if isTripped new && !isTripped prev then
    s.forEach (present.filter fun v => stopsOnTrip (s.vehicles.get v).kind) fun t v => t.addReason v .trip
  else if isTripped prev && !isTripped new then s.forEach present fun t v => t.removeReason v .trip
  else s

/-! ## Evacuation holds (R131) -/

/-- The CONFIGURED junctions of a zone, in ascending number. -/
def State.junctionsOf (s : State) (z : ZoneNo) : List JuncNo :=
  thoseOf 24 fun j => (s.junctions.get j).configured && (s.junctions.get j).zone == some z

/-- The claim on a junction of an evacuating zone is aborted whole, apart from release processing (R131 step 2). -/
def State.abortForEvacuation (acc : State × List JuncNo) (j : JuncNo) : State × List JuncNo :=
  match (acc.1.junctions.get j).holder with
  | .claim v =>
    let (t, released) := acc.1.abort v .evacuationHold
    (t, acc.2 ++ released)
  | _ => acc

/-- A zone leaves NONE (R131). -/
def State.hlcEvacuate (s : State) (z : ZoneNo) : State :=
  let s1 := s.forEach (s.zones.get z).vehicles fun t v => t.addReason v .evacuation
  let (s2, released) := (s1.junctionsOf z).foldl State.abortForEvacuation (s1, [])
  let s3 := s2.forEach (s2.junctionsOf z) fun t j => t.modJunction j evacHolder
  s3.releaseAll (released.filter fun j => (s3.junctions.get j).zone != some z)

/-- A zone returns to NONE (R131). -/
def State.hlcLift (s : State) (z : ZoneNo) : State :=
  let s1 := s.forEach (s.zones.get z).vehicles fun t v => t.removeReason v .evacuation
  let freed := (s1.junctionsOf z).filter fun j => (s1.junctions.get j).holder == .evacuation
  (s1.forEach freed fun t j => t.modJunction j dropHolder).releaseAll freed

/-- A change of evacuation state handed over by the Zone Table (R128, R131). -/
def State.hlcEvacuation (s : State) (z : ZoneNo) (prev new : Evac) : State :=
  if prev = .none ∧ new ≠ .none then s.hlcEvacuate z
  else if prev ≠ .none ∧ new = .none then s.hlcLift z
  else s

/-! ## Junction state (R118) -/

/-- A junction in IN_SERVICE whose beacon goes OFFLINE or into STANDBY (R118). -/
def State.failJunction (s : State) (j : JuncNo) : State :=
  let s1 := s.modJunction j fun x => { x with state := .failed }
  let s2 := match (s1.junctions.get j).holder with
    | .claim v => s1.abortWhole v .junctionFailed
    | _ => s1
  let s3 := s2.modJunction j fun x => { endWalk x with walkPending := false }
  s3.reportJunction j

/-- A FAILED junction whose beacon becomes ONLINE (R118). -/
def State.serveJunction (s : State) (j : JuncNo) : State :=
  let first := (s.junctions.get j).fresh
  let s1 := s.modJunction j fun x => { x with state := .inService, fresh := false }
  let s2 := if first then s1 else s1.reportJunction j
  s2.releaseAll [j]

/-- A change of state of a BEACON device (R118). -/
def State.hlcBeacon (s : State) (r : DevRef) (new : DeviceState) : State :=
  match s.beaconJunction r with
  | none => s
  | some j =>
    match new, (s.junctions.get j).state with
    | .online, .failed => s.serveJunction j
    | .offline, .inService => s.failJunction j
    | .standby, .inService => s.failJunction j
    | _, _ => s

/-! ## Walks (R127) -/

/-- A walk read at a junction. -/
def State.walkRead (s : State) (j : JuncNo) : State :=
  let x := s.junctions.get j
  match x.state, x.holder with
  | .failed, _ => s
  | .inService, .evacuation => s
  | .inService, .walk => s
  | .inService, .claim _ => s.modJunction j fun y => { y with walkPending := true }
  | .inService, .none => s.modJunction j (walkHolder s.now)

/-- The walk deadline runs out. -/
def State.walkEnds (s : State) (j : JuncNo) : State := (s.modJunction j endWalk).releaseAll [j]

/-! ## Approach and clear reads (R123 to R125) -/

/-- A leg as read becomes a leg of a claim when its junction is CONFIGURED and its branches exist (R123 case 3). -/
def State.leg? (s : State) (l : RawLeg) : Option Leg := do
  let j ← index? 24 l.junction
  let x := s.junctions.get j
  if x.configured && 1 ≤ l.entry && l.entry ≤ x.branches && 1 ≤ l.exit && l.exit ≤ x.branches then
    some { junction := j, entry := l.entry, exit := l.exit }
  else none

/-- The legs of a read; none when one is invalid or a junction is named twice (R123 case 3). -/
def State.legs? (s : State) (raw : List RawLeg) : Option (List Leg) := do
  let legs ← raw.mapM s.leg?
  if (legs.map fun l => l.junction).Nodup then some legs else none

/-- A request for a route joins the wait list (R124). -/
def State.joinWait (s : State) (v : VehNo) (legs : List Leg) : State :=
  if (s.waitOf v).isSome then
    { s with waits := s.waits.map fun w => if w.vehicle = v then { w with legs := legs } else w }
  else if s.waits.length < Config.waitListBound then
    let s1 : State := { s with waits := s.waits ++ [{ vehicle := v, legs := legs, joined := s.now }] }
    s1.modVehicle v fun x => { x with state := .claimWait }
  else s.reportWaitFull v legs

/-- An approach read after its position update, at the first case that applies (R123). -/
def State.approach (s : State) (v : VehNo) (beacon : DevRef) (raw : List RawLeg) : State :=
  let x := s.vehicles.get v
  if !x.stop.isEmpty then s
  else match x.claim with
    | some c =>
      if raw.all fun l => c.legs.any fun k => number k.junction == l.junction then s
      else s.reportRouteConflict v (c.legs.map fun k => k.junction) (raw.map fun l => l.junction)
    | none =>
      match s.legs? raw with
      | none => s.reportRouteInvalid beacon x.tagId (some v) .badLeg
      | some legs =>
        if s.slp.mode = .loading then s.reportRouteInvalid beacon x.tagId (some v) .loading
        else if legs.any fun l => (s.junctions.get l.junction).state == .failed then
          s.reportRouteInvalid beacon x.tagId (some v) .junctionFailed
        else if s.allFree legs then s.grant v legs
        else s.joinWait v legs

/-- The legs of a claim after a clear at a junction. -/
def clearLeg (j : JuncNo) (legs : List Leg) : List Leg :=
  legs.map fun l => if l.junction = j then { l with cleared := true } else l

/-- The claim loses its leg at the reading junction, and ends at its last clear (R125 steps 1 and 3). -/
def clearClaim (j : JuncNo) (c : Claim) (x : Vehicle) : Vehicle :=
  let legs := clearLeg j c.legs
  if (heldLegs legs).isEmpty then { x with claim := none, state := .idle }
  else { x with claim := some { c with legs := legs } }

/-- A clear read after its position update (R125). -/
def State.clear (s : State) (v : VehNo) (j : JuncNo) : State :=
  match (s.vehicles.get v).claim with
  | some c =>
    if c.legs.any fun l => l.junction == j && !l.cleared then
      let s1 := s.modVehicle v (clearClaim j c)
      (s1.modJunction j dropHolder).releaseAll [j]
    else s
  | none => s

/-! ## Time (R122, R124, R132) -/

/-- The lost expiry of a vehicle (R122). -/
def State.loseVehicle (s : State) (v : VehNo) : State :=
  let prev := (s.vehicles.get v).state
  (s.modVehicle v fun x => { x with state := .lost, lostAt := none }).reportVehicle v prev .lost none

/-- The wait expiry of a vehicle's entry (R124). -/
def State.expireWait (s : State) (w : WaitEntry) : State :=
  let s1 := { s with waits := s.waits.filter fun y => y.vehicle != w.vehicle }
  (s1.modVehicle w.vehicle fun x => { x with state := if x.state = .lost then .lost else .idle }).reportWaitExpired
    w.vehicle w.legs

/-- The overstay expiry of a claim (R132). -/
def State.overstay (s : State) (v : VehNo) (c : Claim) : State :=
  (s.modVehicle v fun x => { x with claim := some { c with reported := true, overstayAt := none } }).reportOverstay
    v c.granted (heldLegs c.legs)

/-! ## ENTER_LOADING (R133) -/

/-- The abort of every claim in ascending vehicle number, with every junction released. -/
def State.abortClaims (s : State) : State × List JuncNo :=
  (thoseOf 12 fun v => (s.vehicles.get v).claim.isSome).foldl (fun acc v =>
    let (t, released) := acc.1.abort v .loading
    (t, acc.2 ++ released)) (s, [])

/-- The Haulage Controller at ENTER_LOADING. -/
def State.hlcLoading (s : State) : State :=
  let s1 := s.forEach (s.waits.map fun w => w.vehicle) fun t v => (t.abort v .loading).1
  let (s2, released) := s1.abortClaims
  s2.releaseAll released

end Sys2Proof.Machine
end

