-- ==== Sys2Proof/Machine/Zone.lean ====
section
/-! DEFINITION. The Zone Table (01_zone_table.md): summaries, power views, occupancy and vehicles-present lists, evacuation,
zone-bound starts, and its reports (R18). -/

namespace Sys2Proof.Machine

/-- How a block hands start requests, in their order, to the Alarm Program Unit. The unit itself is defined later and is given
to the blocks below it as this operand (log entry 5). -/
abbrev Starter := List StartReq → State → State

/-- Start requests held back while an input is being taken: handed over when it is done (log entry 5). -/
def deferStart : Starter := fun qs s => { s with handOffs := s.handOffs ++ qs }

/-- A start request for a binding: none is sent when the binding is none (R7, R8, R15, R146, R149). -/
def State.startBound (s : State) (st : Starter) (p : Option ProgNo) (z : ZoneNo) (c : StartCause) : State :=
  match p with
  | some p => st [⟨p, z, c⟩] s
  | none => s

/-! ## Reports (R18) -/

/-- The cause of an EVACUATION report. -/
inductive EvacCause
  | hostOrder
  | stepOrder (r : RunnerNo)
  | listEmpty
  | tagEntered
  | hostLift
  deriving DecidableEq, Repr

/-- The cause's number, and the runner or none. -/
def EvacCause.field : EvacCause → Bytes
  | .hostOrder => byteField 0 ++ byteField 0
  | .stepOrder r => byteField 1 ++ num r
  | .listEmpty => byteField 2 ++ byteField 0
  | .tagEntered => byteField 3 ++ byteField 0
  | .hostLift => byteField 4 ++ byteField 0

/-- The occupancy count and the missing count of a zone. -/
def State.countsField (s : State) (z : ZoneNo) : Bytes :=
  byteField (s.zones.get z).occupancy.length ++ byteField (s.missingCount z)

/-- ZONE (R18). -/
def State.reportZone (s : State) (z : ZoneNo) (sum : Summary) (view : Option TripState) : State :=
  let x := s.zones.get z
  s.report ⟨.safety, 0x82, num z ++ named summaries sum ++ named summaries x.summary ++ named powerViews view
    ++ named powerViews x.view ++ s.countsField z⟩

/-- EVACUATION (R18). -/
def State.reportEvacuation (s : State) (z : ZoneNo) (prev : Evac) (cause : EvacCause) : State :=
  s.report ⟨.safety, 0x83, num z ++ named evacStates prev ++ named evacStates (s.zones.get z).evac ++ cause.field
    ++ s.countsField z⟩

/-! ## Summary (R6, R7) -/

/-- The start that a change of summary sends (R7). -/
def State.startSummary (s : State) (st : Starter) (z : ZoneNo) (prev new : Summary) : State :=
  match new with
  | .alarm => if prev = .alarm then s else s.startBound st (s.zones.get z).onAlarm z .zoneAlarm
  | .fault => if summaryRank prev < summaryRank .fault then s.startBound st (s.zones.get z).onFault z .zoneFault else s
  | _ => s

/-- A recomputation of a zone's summary (R6, R7). -/
def State.recompute (s : State) (st : Starter) (z : ZoneNo) : State :=
  let prev := (s.zones.get z).summary
  let new := s.gradeOf z
  if (s.zones.get z).configured = true ∧ new ≠ prev then
    ((s.modZone z fun x => { x with summary := new }).reportZone z prev (s.zones.get z).view).startSummary st z prev new
  else s

/-- The zones of an event's channel, the zone left first (R6). -/
def State.recomputeZones (s : State) (st : Starter) (left joined : Option ZoneNo) : State :=
  let s1 := left.elim s (s.recompute st)
  if joined = left then s1 else joined.elim s1 (s1.recompute st)

/-! ## Power view (R8) -/

/-- A zone's power view derived anew: the report, then the Haulage Controller (R8 steps 1 and 2). -/
def State.updateView (s : State) (z : ZoneNo) : State :=
  let prev := (s.zones.get z).view
  let new := s.viewOf z
  if new ≠ prev then
    ((s.modZone z fun x => { x with view := new }).reportZone z (s.zones.get z).summary prev).hlcPowerView z prev new
  else s

/-- A zone's power view is about to become OPENING (R8 step 3). -/
def State.viewOpens (s : State) (z : ZoneNo) : Bool :=
  s.viewOf z == some .opening && (s.zones.get z).view != some .opening

/-- A zone follows its output: the view with its report and its hand-over, then the on_trip start (R8). The start is held back
until the trip outputs have taken their input to its end (R48; log entry 50). -/
def State.followOutput (s : State) (z : ZoneNo) : State :=
  if s.viewOpens z then s.updateView z |>.startBound deferStart (s.zones.get z).onTrip z .zoneTrip else s.updateView z

/-- A change of an output's state reaches its bound zones in ascending number (R8). -/
def State.outputChanged (s : State) (o : OutNo) : State := s.forEach (s.boundZones o) State.followOutput

/-! ## Evacuation (R11 to R14) -/

/-- A zone's evacuation state changes: the report, then the Haulage Controller (R14). -/
def State.setEvac (s : State) (z : ZoneNo) (new : Evac) (cause : EvacCause) : State :=
  let prev := (s.zones.get z).evac
  ((s.modZone z fun x => { x with evac := new }).reportEvacuation z prev cause).hlcEvacuation z prev new

/-- An ORDERED zone with an empty list becomes CLEARED (R12). -/
def State.testEmpty (s : State) (z : ZoneNo) : State :=
  if (s.zones.get z).evac = .ordered ∧ (s.zones.get z).occupancy = [] then s.setEvac z .cleared .listEmpty else s

/-- A CLEARED zone that a tag enters becomes ORDERED (R12). -/
def State.testEntered (s : State) (z : ZoneNo) : State :=
  if (s.zones.get z).evac = .cleared then s.setEvac z .ordered .tagEntered else s

/-- An evacuation order on a CONFIGURED zone (R11). -/
def State.orderEvac (s : State) (z : ZoneNo) (cause : EvacCause) : State :=
  if (s.zones.get z).evac = .ordered then s else (s.setEvac z .ordered cause).testEmpty z

/-! ## Occupancy (R9) -/

/-- UNPLACE(tag). -/
def State.unplace (s : State) (r : Roster) : State :=
  match s.tagZone r with
  | none => s
  | some y => (s.modZone y fun x => { x with occupancy := x.occupancy.filter fun t => t != r }).testEmpty y

/-- PLACE(tag, z): the zone left is tested before the zone joined. -/
def State.place (s : State) (r : Roster) (z : ZoneNo) : State :=
  if r ∈ (s.zones.get z).occupancy then s
  else
    let left := s.tagZone r
    let s1 := left.elim s fun y => s.modZone y fun x => { x with occupancy := x.occupancy.filter fun t => t != r }
    let s2 := s1.modZone z fun x => { x with occupancy := x.occupancy ++ [r] }
    (left.elim s2 s2.testEmpty).testEntered z

/-! ## Vehicles present (R10) -/

/-- The summaries of the zones that a vehicle with an onboard channel left and joined (R6, R10). -/
def State.followOnboard (s : State) (st : Starter) (v : VehNo) (left joined : Option ZoneNo) : State :=
  if (s.onboardChannel v).isSome then s.recomputeZones st left joined else s

/-- ENTER(vehicle, z). -/
def State.enterZone (s : State) (st : Starter) (v : VehNo) (z : ZoneNo) : State :=
  let left := s.listZone v
  if left = some z then s
  else
    let s1 := left.elim s fun y => s.modZone y fun x => { x with vehicles := x.vehicles.filter fun w => w != v }
    (s1.modZone z fun x => { x with vehicles := x.vehicles ++ [v] }).followOnboard st v left (some z)

/-- LEAVE(vehicle), the summaries apart. -/
def State.leaveList (s : State) (v : VehNo) : State :=
  match s.listZone v with
  | none => s
  | some y => s.modZone y fun x => { x with vehicles := x.vehicles.filter fun w => w != v }

/-! ## Emergency buttons and conditions (R15, R16) -/

/-- An EMERGENCY button event with the tag's zone, when it has one (R15). -/
def State.emergencyIn (s : State) (st : Starter) (zone : Option ZoneNo) : State :=
  zone.elim s fun z => s.startBound st (s.zones.get z).onEmergency z .minerEmergency

/-- The roster numbers a PAGE step names: none for an UNCONFIGURED zone (R16). -/
def State.pageListOf (s : State) (z : ZoneNo) : List Roster :=
  if (s.zones.get z).configured then (s.zones.get z).occupancy else []

end Sys2Proof.Machine
end

