-- ==== Sys2Proof/Machine/Trip.lean ====
section
/-! DEFINITION. The Trip Control Unit (03_trip_and_signal_outputs.md): signal driver sets and patterns, the state machine of
the trip outputs, backups, feedback and manual inputs, and its reports (R62, R65). -/

namespace Sys2Proof.Machine

/-! ## Signal outputs (R63, R64, R65) -/

/-- The pattern chosen again after a change of the set; a different pattern starts with its on phase (R64). -/
def chooseAgain (now : Time) (g : Signal) : Signal :=
  let p := chosenPattern g.drivers
  if p = g.shown then g else { g with shown := p, phaseFrom := now }

/-- A change of a driver set. -/
def State.changeDrivers (s : State) (g : SigNo) (f : List Driver → List Driver) : State :=
  s.modSignal g fun x => chooseAgain s.now { x with drivers := f x.drivers }

/-- Whether an entry is a runner's. -/
def isRunnerEntry (r : RunnerNo) : Driver → Bool
  | .runner q _ _ => q == r
  | .warning _ => false

/-- A runner adds itself: appended, or its entry keeps its place and takes the new pattern and urgency (R63). -/
def joinRunner (r : RunnerNo) (p : Pattern) (u : Nat) (l : List Driver) : List Driver :=
  if l.any (isRunnerEntry r) then l.map fun d => if isRunnerEntry r d then .runner r p u else d
  else l ++ [.runner r p u]

/-- A runner removes itself (R63). -/
def leaveRunner (r : RunnerNo) (l : List Driver) : List Driver := l.filter fun d => !isRunnerEntry r d

/-- A runner leaves every driver set at a program end (R63). -/
def State.leaveDrivers (s : State) (r : RunnerNo) : State :=
  s.forEach ((allOf 8).filter fun g => (s.signals.get g).drivers.any (isRunnerEntry r)) fun t g =>
    t.changeDrivers g (leaveRunner r)

/-- The trip warning joins or leaves the warning output's set (R63). -/
def State.warn (s : State) (o : OutNo) (present : Bool) : State :=
  match (s.trips.get o).warning with
  | none => s
  | some g =>
    let there := decide (Driver.warning o ∈ (s.signals.get g).drivers)
    if present = there then s
    else if present then s.changeDrivers g fun l => l ++ [.warning o]
    else s.changeDrivers g fun l => l.filter fun d => d != .warning o

/-- The state of a SIGNAL_FAULT report and of READ_SIGNAL: FAULT or GOOD (R65, R66). -/
def faultField (fault : Bool) : Bytes := named [true, false] fault

/-- SIGNAL_FAULT (R65). -/
def State.reportSignalFault (s : State) (g : SigNo) : State :=
  s.report ⟨.safety, 0x88, num g ++ faultField (s.signals.get g).fault⟩

/-- A change of a fault-sense reading (R65). -/
def State.senseChange (s : State) (g : SigNo) (openCircuit : Bool) : State :=
  if (s.signals.get g).openCircuit = openCircuit then s
  else (s.modSignal g fun x => { x with openCircuit := openCircuit, fault := openCircuit }).reportSignalFault g

/-! ## Trip reports (R62) -/

/-- A feedback reading: POWER_OFF or POWER_ON (R49). -/
def feedbackField (t : Trip) : Bytes := named [true, false] t.powerOff

/-- Zone and channel of a wait origin, each 0 for none (R62, R178; log entry 52). -/
def originField (p : Option (ZoneNo × ChanNo)) : Bytes := optNum (p.map Prod.fst) ++ optNum (p.map Prod.snd)

/-- The wait origin that a TRIP report carries (R62). -/
def shownOrigin (t : Trip) (cause : TripCause) : Option (ZoneNo × ChanNo) :=
  match cause with
  | .demand => if t.state = .waiting then t.origin else none
  | .waitExpired => t.origin
  | .abandoned => t.origin
  | _ => none

/-- TRIP (R62). -/
def State.reportTrip (s : State) (o : OutNo) (prev : TripState) (cause : TripCause) : State :=
  let t := s.trips.get o
  s.report ⟨.safety, 0x85, num o ++ named tripStates prev ++ named tripStates t.state ++ named tripCauses cause
    ++ originField (shownOrigin t cause) ++ feedbackField t ++ wordField t.wait⟩

/-- TRIP_ABANDONED (R62). -/
def State.reportTripAbandoned (s : State) (o : OutNo) (origin : Option (ZoneNo × ChanNo)) : State :=
  s.report ⟨.safety, 0x86, num o ++ originField origin ++ wordField (s.trips.get o).wait⟩

/-- CLOSE_UNCONFIRMED (R62). -/
def State.reportCloseUnconfirmed (s : State) (o : OutNo) : State :=
  s.report ⟨.safety, 0x87, num o ++ feedbackField (s.trips.get o)⟩

/-! ## State changes (R47, R48, R54, R55) -/

/-- The record of an output on entry to a state: the timers stand as R47's table gives, the confirm timer loaded with C on
entry to OPENING (R54) and at a RESTORE (R58). -/
def Trip.entered (t : Trip) (now : Time) (new : TripState) (cause : TripCause) : Trip :=
  { t with
    state := new, lastCause := some cause
    waitAt := if new = .waiting then t.waitAt else none
    confirmAt := if new = .opening ∨ cause = .restore then some (now + t.confirm) else none }

/-- Steps 1 to 3 of a change of state (R48). The wait origin is cleared on leaving WAITING, after the report (R47). -/
def State.moveTrip (s : State) (o : OutNo) (new : TripState) (cause : TripCause) : State :=
  let prev := (s.trips.get o).state
  let s1 := (s.modTrip o fun t => t.entered s.now new cause).reportTrip o prev cause
  let s2 := s1.modTrip o fun t => if new = .waiting then t else { t with origin := none }
  let s3 := s2.warn o (new = .waiting ∧ (s2.trips.get o).waitAt.isSome)
  s3.outputChanged o

/-- The feedback test on entry to OPENING (R54). -/
def State.testOpening (s : State) (o : OutNo) : State :=
  if (s.trips.get o).state = .opening ∧ (s.trips.get o).powerOff = true then s.moveTrip o .opened .feedbackOff else s

/-- An output goes to OPENING (R54). -/
def State.openTrip (s : State) (o : OutNo) (cause : TripCause) : State :=
  (s.moveTrip o .opening cause).testOpening o

/-- The output stands CLOSED or WAITING. -/
def State.tripClosed (s : State) (o : OutNo) : Bool :=
  (s.trips.get o).state == .closed || (s.trips.get o).state == .waiting

/-- An output in CLOSED or WAITING is tripped; in another state nothing changes (R50, R53, R55). -/
def State.tripNow (s : State) (o : OutNo) (cause : TripCause) : State :=
  if s.tripClosed o then s.openTrip o cause else s

/-- An output goes to UNCONFIRMED and its backup is opened (R48 step 4, R55). -/
def State.unconfirm (s : State) (o : OutNo) (cause : TripCause) : State :=
  let s1 := s.moveTrip o .unconfirmed cause
  (s1.trips.get o).backup.elim s1 fun b => s1.tripNow b .backup

/-! ## Demands and the wait (R51, R52) -/

/-- The test at the expiry of a wait (R52). -/
def State.endWait (s : State) (o : OutNo) : State :=
  if (s.boundZones o).any s.zoneQualifies then s.openTrip o .waitExpired
  else (s.moveTrip o .closed .abandoned).reportTripAbandoned o (s.trips.get o).origin

/-- A demand reaching a CLOSED output in DELAYED mode: the pending W is loaded, and a W of 0 expires at once (R51). -/
def State.startWait (s : State) (o : OutNo) (z : ZoneNo) (c : ChanNo) : State :=
  let s1 := s.modTrip o fun t => { t with
    wait := t.waitPending, origin := some (z, c)
    waitAt := if t.waitPending = 0 then none else some (s.now + t.waitPending) }
  let s2 := s1.moveTrip o .waiting .demand
  if (s.trips.get o).waitPending = 0 then s2.endWait o else s2

/-- A trip demand naming an output, a zone and a channel (R51). -/
def State.demand (s : State) (o : OutNo) (z : ZoneNo) (c : ChanNo) : State :=
  if (s.trips.get o).state = .closed then
    match (s.trips.get o).mode with
    | .direct => s.openTrip o .demand
    | .delayed => s.startWait o z c
  else s

/-! ## Feedback (R49, R54, R56, R58) -/

/-- A change of the feedback reading as an event at the output. -/
def State.feedbackEvent (s : State) (o : OutNo) : State :=
  let t := s.trips.get o
  match t.state, t.powerOff with
  | .closed, false => s.modTrip o fun t => { t with confirmAt := none }
  | .opening, true => s.moveTrip o .opened .feedbackOff
  | .opened, false => s.unconfirm o .feedbackOn
  | .unconfirmed, true => s.moveTrip o .opened .feedbackOff
  | _, _ => s

/-- The input or the sense of a feedback changes: an event when the reading changes (R49). -/
def State.rereadFeedback (s : State) (o : OutNo) (f : Trip → Trip) : State :=
  let was := (s.trips.get o).powerOff
  let s1 := s.modTrip o f
  if (s1.trips.get o).powerOff = was then s1 else s1.feedbackEvent o

/-- The confirm timer of an output in OPENING runs out (R54). -/
def State.confirmEnds (s : State) (o : OutNo) : State := s.unconfirm o .confirmTimeout

/-- Close confirmation runs out (R58). -/
def State.closeConfirmEnds (s : State) (o : OutNo) : State :=
  (s.modTrip o fun t => { t with confirmAt := none }).reportCloseUnconfirmed o

/-! ## Manual inputs (R50) -/

/-- A change of level of a manual-trip input: the edge that leads to the active level trips the output (R50, R53). -/
def State.manualLevel (s : State) (o : OutNo) (high : Bool) : State :=
  if (s.trips.get o).manualHigh = high then s
  else
    let s1 := s.modTrip o fun t => { t with manualHigh := high }
    if (s1.trips.get o).manualActive then s1.tripNow o .manual else s1

/-! ## Restore and modes (R57 to R59) -/

/-- The checks of a RESTORE on the bound zones and the manual input (R57 checks 4 to 6): some condition is not met. -/
def State.restoreBarred (s : State) (o : OutNo) : Bool :=
  (s.boundZones o).any s.zoneQualifies || (s.boundZones o).any s.evacuating || (s.trips.get o).manualActive

/-- An accepted RESTORE: CLOSED with close confirmation, complete at once when the reading is POWER_ON (R57, R58). -/
def State.restoreTrip (s : State) (o : OutNo) : State :=
  (s.moveTrip o .closed .restore).modTrip o fun t => if t.powerOff then t else { t with confirmAt := none }

/-- ENTER_LOADING (R59). -/
def State.tcuLoading (s : State) : State :=
  s.forEach (allOf 6) fun t o => if (t.trips.get o).state = .held then t else t.moveTrip o .held .loading

/-- One output at START_RUN, with its feedback test (R59). -/
def State.startTrip (s : State) (o : OutNo) : State :=
  if (s.trips.get o).state = .held then
    let s1 := s.moveTrip o .opened .start
    if (s1.trips.get o).powerOff then s1 else s1.unconfirm o .feedbackOn
  else s

/-- START_RUN (R59). -/
def State.tcuStart (s : State) : State := s.forEach (allOf 6) fun t o => t.startTrip o

end Sys2Proof.Machine
end

