-- ==== Sys2Proof/Machine/Refuge.lean ====
section
/-! DEFINITION. The Refuge Monitor (09_refuge_stations.md): panel contents, activation, distress, the strobe driver set, and
the REFUGE report (R152). -/

namespace Sys2Proof.Machine

/-- The cause of a REFUGE report. -/
inductive RefugeCause | doorOpen | headcount | distressButton | insideAlarm | hostReset | panelChange
  deriving DecidableEq, Repr

def refugeCauses : List RefugeCause :=
  [.doorOpen, .headcount, .distressButton, .insideAlarm, .hostReset, .panelChange]

/-- A panel link: ONLINE or OFFLINE. -/
def linkField (online : Bool) : Bytes := named [true, false] online

/-- REFUGE (R152). -/
def State.reportRefuge (s : State) (n : StationNo) (prev : Latched) (cause : RefugeCause) : State :=
  let x := s.stations.get n
  s.report ⟨.safety, 0x99, num n ++ optNum x.zone ++ named latchedStates prev ++ named latchedStates x.latched
    ++ named refugeCauses cause ++ named doors x.door ++ byteField x.headcount ++ linkField x.online⟩

/-- A start for one of a station's bindings, with the station's zone as own zone (R148, R149). -/
def State.startStation (s : State) (st : Starter) (n : StationNo) (p : Option ProgNo) (c : StartCause) : State :=
  (s.stations.get n).zone.elim s fun z => s.startBound st p z c

/-- A distress event: an entry into DISTRESS starts on_distress, a repeat is reported alone (R149). -/
def State.distress (s : State) (st : Starter) (n : StationNo) (cause : RefugeCause) : State :=
  let prev := (s.stations.get n).latched
  let s1 := (s.modStation n fun x => { x with latched := .distress }).reportRefuge n prev cause
  if prev = .distress then s1 else s1.startStation st n (s1.stations.get n).onDistress .refugeDistress

/-- A change of level state of a channel reaches the stations that name it as an inside channel (R149). -/
def State.rfmChannel (s : State) (st : Starter) (c : ChanNo) (prev new : Level) : State :=
  if new = .alarm ∧ prev ≠ .alarm then
    s.forEach (thoseOf 4 fun n => (s.stations.get n).configured
        && ((s.stations.get n).insideO2 == some c || (s.stations.get n).insideCo == some c)) fun t n =>
      t.distress st n .insideAlarm
  else s

/-- The activation test with its report and start (R148). A reply that brings both conditions at once is reported with DOOR_OPEN
(DESIGN CHOICE on R152, log entry 68). -/
def State.activate (s : State) (st : Starter) (n : StationNo) : State :=
  let cause := if (s.stations.get n).door = .opened then RefugeCause.doorOpen else .headcount
  let s1 := (s.modStation n fun x => { x with latched := .activated }).reportRefuge n .standby cause
  s1.startStation st n (s1.stations.get n).onActivated .refugeActivated

/-- The door, headcount and panel link of two records are the same. -/
def samePanel (a b : Station) : Bool := a.door == b.door && a.headcount == b.headcount && a.online == b.online

/-- A good reply from a station's panel; `before` is the record before the event, its device change included (R148, R152). -/
def State.panelReply (s : State) (st : Starter) (n : StationNo) (before : Station) (doorOpen : Bool) (headcount : Nat)
    (pressed : Bool) : State :=
  let s1 := s.modStation n fun x => { x with
    door := if doorOpen then .opened else .closed, headcount := headcount }
  let x := s1.stations.get n
  let activates := x.latched == .standby && (doorOpen || 0 < headcount)
  let s2 := if activates then s1.activate st n else s1
  if pressed then s2.distress st n .distressButton
  else if activates || samePanel before x then s2
  else s2.reportRefuge n x.latched .panelChange

/-- A change of state of a REFUGE_PANEL device (R148). A change to ONLINE is reported with the reply that brought it. -/
def State.rfmDevice (s : State) (r : DevRef) (new : DeviceState) : State :=
  match s.panelStation r with
  | none => s
  | some n =>
    let x := s.stations.get n
    match new with
    | .suspect => s
    | .online => s.modStation n fun y => { y with online := true }
    | _ =>
      let s1 := s.modStation n fun y => { y with online := false, door := .unknown }
      if samePanel x (s1.stations.get n) then s1 else s1.reportRefuge n x.latched .panelChange

/-- A runner joins a strobe driver set (R151). -/
def State.joinStrobe (s : State) (n : StationNo) (r : RunnerNo) : State :=
  s.modStation n fun x => { x with strobe := appendNew x.strobe r }

/-- A runner leaves a strobe driver set (R151). -/
def State.leaveStrobe (s : State) (n : StationNo) (r : RunnerNo) : State :=
  s.modStation n fun x => { x with strobe := x.strobe.filter fun q => q != r }

/-- An inside channel in ALARM (R150 check 5). -/
def State.insideAlarm (s : State) (n : StationNo) : Bool :=
  let inAlarm (c : Option ChanNo) : Bool := c.any fun c => (s.channels.get c).level == .alarm
  inAlarm (s.stations.get n).insideO2 || inAlarm (s.stations.get n).insideCo

/-- A reset that passed its checks (R150). -/
def State.resetStation (s : State) (n : StationNo) : State :=
  let prev := (s.stations.get n).latched
  (s.modStation n fun x => { x with latched := .standby }).reportRefuge n prev .hostReset

end Sys2Proof.Machine
end

