-- ==== Sys2Proof/Machine/Air.lean ====
section
/-! DEFINITION. The Air Reading Unit (02_air_readings.md): acceptance, conversion, window and filter, rate check, level
grading, faults, trip demands, and the CHANNEL report (R45). -/

namespace Sys2Proof.Machine

/-! ## The arithmetic of a sample (R29, R31 to R37) -/

/-- Stage 1: the fault of a sample that may not be entered (R29). -/
def rejection (status : HeadStatus) (raw : Nat) : Option FaultCause :=
  match status with
  | .fault => some .head
  | .warming => if 4080 ≤ raw then some .head else some .warmup
  | .ok => if 4080 ≤ raw then some .head else none

/-- Stage 2: the value v and OVER, none when d lies below −100 (R31, R32). -/
def Channel.convert (c : Channel) (raw : Nat) : Option (Nat × Bool) :=
  if raw + 100 < c.zero then none
  else
    let v := if raw ≤ c.zero then 0 else ((raw - c.zero) * c.span + 2000) / 4000
    if rangeMax c.gas < v then some (rangeMax c.gas, true) else some (v, false)

/-- The window after v joins its end (R33). -/
def pushWindow (n : Nat) (w : List Nat) (v : Nat) : List Nat :=
  let l := w ++ [v]
  if n < l.length then l.tail else l

/-- The filtered value of a window (R33). -/
def filtered (w : List Nat) : Nat := (w.sum + w.length / 2) / w.length

/-- Stage 4 on a channel whose f has its new value (R34). -/
def Channel.checkRate (c : Channel) : Channel :=
  if isRising c.gas ∧ 0 < c.rise then
    if c.count + 1 = c.rateInterval then
      { c with riseSet := decide (c.mark + c.rise ≤ c.f), mark := c.f, count := 0 }
    else { c with count := c.count + 1 }
  else c

/-- The grade of a fresh evaluation (R37). -/
def Channel.freshLevel (c : Channel) : Level :=
  if isRising c.gas then
    if c.alarm ≤ c.f then .alarm else if c.alert ≤ c.f then .alert else .normal
  else if c.f ≤ c.alarm then .alarm else if c.f ≤ c.alert then .alert else .normal

/-- Stage 5 for a rising type (R35): the first row that matches. -/
def Channel.gradeRising (c : Channel) : Level :=
  if c.riseSet ∨ c.alarm ≤ c.f then .alarm
  else if c.level = .normal ∧ c.alert ≤ c.f then .alert
  else if c.level = .alert ∧ c.f + c.hysteresis < c.alert then .normal
  else if c.level = .alarm ∧ c.f + c.hysteresis < c.alert then .normal
  else if c.level = .alarm ∧ c.f + c.hysteresis < c.alarm then .alert
  else c.level

/-- Stage 5 for a falling type (R36): the first row that matches. -/
def Channel.gradeFalling (c : Channel) : Level :=
  if c.f ≤ c.alarm then .alarm
  else if c.level = .normal ∧ c.f ≤ c.alert then .alert
  else if c.level = .alert ∧ c.alert + c.hysteresis ≤ c.f then .normal
  else if c.level = .alarm ∧ c.alert + c.hysteresis ≤ c.f then .normal
  else if c.level = .alarm ∧ c.alarm + c.hysteresis ≤ c.f then .alert
  else c.level

/-- Stage 5 (R35, R36). -/
def Channel.grade (c : Channel) : Level := if isRising c.gas then c.gradeRising else c.gradeFalling

/-- The first valid sample of a channel in FAULT (R37). -/
def Channel.enterFresh (c : Channel) (v : Nat) : Channel :=
  let c := { c with window := [v], f := v, mark := v, count := 0, riseSet := false }
  { c with level := c.freshLevel, cause := none }

/-- A valid sample of a channel that is not in FAULT: stages 3 to 5 (R33 to R36). -/
def Channel.enterNext (c : Channel) (v : Nat) : Channel :=
  let w := pushWindow c.filter c.window v
  let c := { c with window := w, f := filtered w }.checkRate
  { c with level := c.grade }

/-- A valid sample: OVER, the stages, the time of the sample and the stale timer (R32 to R37, R39). -/
def Channel.enter (c : Channel) (now : Time) (v : Nat) (sat : Bool) : Channel :=
  let c := if c.level = .fault then c.enterFresh v else c.enterNext v
  { c with saturated := sat, lastValid := some now, staleAt := some (now + 10 * c.stale) }

/-! ## Handing on (R41, R43, R45) -/

/-- CHANNEL (R45). -/
def State.reportChannel (s : State) (c : ChanNo) (prev : Level) : State :=
  let x := s.channels.get c
  s.report ⟨.safety, 0x84, num c ++ optNum (s.channelZone c) ++ named levels prev ++ named levels x.level
    ++ optNamed faultCauses x.cause ++ wordField x.f ++ named setClear x.riseSet ++ named setClear x.saturated⟩

/-- A trip demand for the zone a channel is assigned to, when the zone has an output (R43). The starts that the trip outputs
have sent are handed over once they have taken the demand (R48; log entry 50). -/
def State.raiseDemand (s : State) (st : Starter) (c : ChanNo) : State :=
  match s.channelZone c with
  | none => s
  | some z => (s.zoneOutput z).elim s fun o => st [] (s.demand o z c)

/-- A change of level state handed on, the Refuge Monitor last; `before` is the record before the change (R41, R149). -/
def State.handOn (s : State) (st : Starter) (c : ChanNo) (before : Channel) : State :=
  let s1 := s.reportChannel c before.level
  let s2 := (s1.channelZone c).elim s1 fun z => s1.recompute st z
  let s3 := if (s.channels.get c).qualifies && !before.qualifies then s2.raiseDemand st c else s2
  s3.rfmChannel st c before.level (s.channels.get c).level

/-! ## Faults and samples (R28 to R30, R38 to R40) -/

/-- A channel in FAULT with a cause; its stale timer stops (R38). -/
def Channel.toFault (cause : FaultCause) (c : Channel) : Channel :=
  { c with level := .fault, cause := some cause, staleAt := none }

/-- A fault event at a channel (R38). -/
def State.faultEvent (s : State) (st : Starter) (c : ChanNo) (cause : FaultCause) : State :=
  let x := s.channels.get c
  if x.service = .outOfService then s
  else if x.level = .fault then
    if x.cause = some cause then s else (s.modChannel c (Channel.toFault cause)).reportChannel c .fault
  else (s.modChannel c (Channel.toFault cause)).handOn st c x

/-- A valid sample reaches a channel (R35 to R37, R41). -/
def State.validSample (s : State) (st : Starter) (c : ChanNo) (v : Nat) (sat : Bool) : State :=
  let x := s.channels.get c
  let s1 := s.modChannel c fun y => y.enter s.now v sat
  if (s1.channels.get c).level = x.level then s1 else s1.handOn st c x

/-- A sample with its head status or monitor status (R28 to R31). -/
def State.sample (s : State) (st : Starter) (c : ChanNo) (status : HeadStatus) (raw : Nat) : State :=
  let x := s.channels.get c
  if x.service = .outOfService then s
  else match rejection status raw with
    | some cause => s.faultEvent st c cause
    | none =>
      match x.convert raw with
      | none => s.faultEvent st c .underRange
      | some (v, sat) => s.validSample st c v sat

/-- The contents of a gas head's reply, in input order (R28). -/
def State.headReply (s : State) (st : Starter) (r : DevRef) (status : HeadStatus) (raws : List Nat) : State :=
  s.forEach ((allOf 4).zip raws) fun t (i, raw) => (t.headChannel r i).elim t fun c => t.sample st c status raw

/-- The fault cause that a device state brings (R40). -/
def deviceFault : DeviceState → Option FaultCause
  | .offline => some .deviceOffline
  | .standby => some .standby
  | _ => none

/-- A change of state of a GAS_HEAD device, in input order (R40). -/
def State.aruDevice (s : State) (st : Starter) (r : DevRef) (new : DeviceState) : State :=
  (deviceFault new).elim s fun cause => s.forEach (s.headChannels r) fun t c => t.faultEvent st c cause

/-- A Q1 reading handed over by the Telemetry Gatherer (R30). -/
def State.onboardSample (s : State) (st : Starter) (v : VehNo) (raw : Nat) (status : HeadStatus) : State :=
  (s.onboardChannel v).elim s fun c => s.sample st c status raw

/-- The stale expiry of a channel (R39). -/
def State.staleFault (s : State) (st : Starter) (c : ChanNo) : State := s.faultEvent st c .stale

/-! ## Zone changes of a vehicle channel (R22, R43) -/

/-- ENTER(vehicle, z) with the Zone Table's summaries and then the onboard channel's demand (R10, R22, R43, R121). -/
def State.vehicleEnters (s : State) (st : Starter) (v : VehNo) (z : ZoneNo) : State :=
  let moved := s.listZone v != some z
  let s1 := s.enterZone st v z
  match s1.onboardChannel v with
  | some c => if moved && (s1.channels.get c).qualifies then s1.raiseDemand st c else s1
  | none => s1

/-! ## SET_CHANNEL and SET_SERVICE (R24 to R26) -/

/-- The dynamic fields after an accepted SET_CHANNEL (R24 step 1). -/
def Channel.cleared (c : Channel) : Channel :=
  { c with window := [], f := 0, mark := 0, count := 0, riseSet := false, saturated := false, lastValid := none
           level := .fault, cause := some .outOfService, staleAt := none }

/-- An accepted SET_CHANNEL (R24): `new` holds the configuration written. -/
def State.writeChannel (s : State) (st : Starter) (c : ChanNo) (new : Channel) : State :=
  let before := s.channels.get c
  let left := s.channelZone c
  let s1 := s.modChannel c fun _ => new.cleared
  let joined := s1.channelZone c
  let s2 := if joined = left then s1 else s1.recomputeZones st left joined
  if (s1.channels.get c).qualifies && (!before.qualifies || joined != left) then s2.raiseDemand st c else s2

/-- A channel IN service is taken OUT (R25). -/
def State.takeOut (s : State) (st : Starter) (c : ChanNo) : State :=
  let x := s.channels.get c
  let s1 := s.modChannel c fun y => { y.toFault .outOfService with service := .outOfService }
  if x.level = .fault then s1.reportChannel c .fault else s1.handOn st c x

/-- The cause of a channel returned to service (R26). -/
def State.causeOnReturn (s : State) (c : ChanNo) : FaultCause :=
  match (s.channels.get c).source with
  | some (.head r _) =>
    match (s.deviceAt r).map fun e => (s.devices.get e).state with
    | some .offline => .deviceOffline
    | some .standby => .standby
    | _ => .noSample
  | _ => .noSample

/-- A channel that is OUT is returned to service (R26). -/
def State.takeIn (s : State) (c : ChanNo) : State :=
  (s.modChannel c fun y => { y with service := .inService, cause := some (s.causeOnReturn c) }).reportChannel c .fault

/-! ## Reset grading (R20, R6) -/

/-- A reset hands each CONFIGURED channel to the Zone Table as a channel in FAULT and raises its demand (R20). -/
def State.gradeReset (s : State) (st : Starter) : State :=
  s.forEach (thoseOf 32 fun c => (s.channels.get c).configured) fun t c =>
    let t1 := (t.channelZone c).elim t fun z => t.recompute st z
    if (t1.channels.get c).qualifies then t1.raiseDemand st c else t1

end Sys2Proof.Machine
end

