-- ==== Sys2Proof/Machine/Trunk.lean ====
section
/-! DEFINITION. Holders and slots: the CALL report (R100), what a holder does with a grant (R91, R96, R142, R161), the release
and withdrawal of the Trunk Controller and Slot Arbiter with the grant from the queue (06_trunk_and_slot_arbiter.md, R108,
R109), and the end of a call (R84). -/

namespace Sys2Proof.Machine

/-! ## The CALL report (R100) -/

/-- The causes of a CALL report, numbered through the end causes and then the others (log entry 8). -/
def callCauses : List CallCause :=
  [.unreachable, .busy, .noResource, .noTrunk, .noAnswer, .hangup, .hostEnd, .partyLost, .partyLeft, .preempted,
    .superseded, .trunkLost, .created, .connected, .answered, .slotPreempted, .slotGranted, .handover]

/-- The state that a CALL report shows: a call's, ENDED or REFUSED. -/
inductive CallShown
  | live (x : CallState)
  | ended
  | refused
  deriving DecidableEq, Repr

/-- The states of the CALL report, which READ_CALL's and PLACE_CALL's bytes follow: ENDED is 4 (R100; log entry 8). -/
def callShownStates : List CallShown := callStates.map .live ++ [.ended, .refused]

/-- A party: a selector, then the roster number or the dial code as received (R178, section 5.2). -/
def partyField : Party → Bytes
  | .tag r => byteField 0 ++ num r
  | .dialled code => byteField 0 ++ byteField code
  | .surface => byteField 1

/-- A voice channel: the call point and the channel (section 5.2). -/
def State.voiceField (s : State) (v : VoiceRef) : Bytes := refField (s.devices.get v.entry).ref ++ num v.chan

/-- An optional voice channel: spur, address and channel each start at 1, so each is 0 for none (R178; log entry 52). -/
def State.optVoice (s : State) (v : Option VoiceRef) : Bytes := v.elim (byteField 0 ++ byteField 0 ++ byteField 0) s.voiceField

/-- The class of a CALL report (R100). -/
def callReportClass (k : CallKind) : ReportClass := if k = .emergency then .safety else .routine

/-- CALL (R100); id 0 is none. -/
def State.reportCall (s : State) (id : Nat) (c : Call) (prev : Option CallState) (shown : CallShown)
    (cause : CallCause) : State :=
  s.report ⟨callReportClass c.kind, 0x8E, byteField id ++ named callKinds c.kind ++ partyField c.a ++ partyField c.b
    ++ optNamed callStates prev ++ named callShownStates shown ++ named callCauses cause
    ++ s.optVoice c.chanA ++ s.optVoice c.chanB ++ optSlot c.slot⟩

/-- The report of a call's own change, from its record as it stands. -/
def State.reportCallNow (s : State) (id : Nat) (prev : Option CallState) (cause : CallCause) : State :=
  (s.callOf id).elim s fun c => s.reportCall id c prev (.live c.state) cause

/-! ## What a holder does with a grant -/

/-- A call whose resources are in place leaves SETUP (R91). -/
def Call.proceed (c : Call) (now : Time) : Call :=
  if c.b = .surface then { c with state := .active, deadline := none }
  else { c with state := .ringing, deadline := some (now + Config.ringLimit) }

/-- A GRANTED notice at a call (R90, R96). -/
def State.csGranted (s : State) (id : Nat) (k : SlotNo) : State :=
  match (s.callOf id).map Call.state with
  | some .setup =>
    (s.modCall id fun c => { c.proceed s.now with slot := some k, waiting := false }).reportCallNow id (some .setup)
      .connected
  | some .held =>
    (s.modCall id fun c => { c with state := .active, slot := some k, waiting := false, deadline := none }).reportCallNow
      id (some .held) .slotGranted
  | _ => s

/-- A GRANTED answer or notice at a burst (R142). -/
def Burst.granted (b : Burst) (k : SlotNo) : Burst :=
  { b with forwarding := .holding, slot := some k, state := .gathering, carried := false }

def State.tgGranted (s : State) (v : VehNo) (k : SlotNo) : State := s.setBurst v ((s.bursts.get v).map fun b => b.granted k)

/-- The count of a runner's ANNOUNCE step starts, whether or not a slot is held (R161). -/
def State.playStart (s : State) (r : RunnerNo) : State :=
  s.modRunner r fun x => { x with
    state := .stepping, slotWaitAt := none
    countEnd := some (s.now + 10 * ((x.current.bind s.stepAt).elim 0 fun st => st.count)) }

/-- A GRANTED notice reaches the block that owns the holder (R110). -/
def State.granted (s : State) (h : Holder) (k : SlotNo) : State :=
  match h with
  | .call id => s.csGranted id k
  | .burst v => s.tgGranted v k
  | .runner r => s.playStart r

/-- The holder still wants a slot; the owner of one that does not releases it at once (R110). -/
def State.wantsSlot (s : State) (h : Holder) : Bool :=
  match h with
  | .call id => (s.callOf id).any fun c => c.state == .setup || c.state == .held
  | .burst v => (s.bursts.get v).any fun b => b.inProgress && b.forwarding == .pending
  | .runner r => (s.runners.get r).state == .slotWait

/-! ## Grant from the queue, release and withdrawal (R108, R109) -/

/-- A slot becomes a holder's, at the end of the grant order. -/
def Trunk.give (t : Trunk) (k : SlotNo) (h : Holder) (c : TrunkClass) : Trunk :=
  { t with held := t.held ++ [⟨k, h, c⟩] }

/-- A free slot is granted to the queue's head (R108). A head whose owner gives the slot up at once is passed over. -/
def State.grantHead (s : State) (k : SlotNo) : List Waiting → State
  | [] => s.modTrunk fun t => { t with queue := [] }
  | w :: q =>
    if s.wantsSlot w.holder then
      (s.modTrunk fun t => { t with queue := q }.give k w.holder w.cls).granted w.holder k
    else s.grantHead k q

/-- A slot becomes free: granted to the head when the trunk is UP and the slot is in the allotment (R103, R108). -/
def State.slotFreed (s : State) (k : SlotNo) : State :=
  if s.trunk.state = .up ∧ k ∈ s.trunk.allotment then s.grantHead k s.trunk.queue else s

/-- A holder releases its slot; a release from a holder that holds none is discarded (R108). -/
def State.releaseSlot (s : State) (h : Holder) : State :=
  match s.trunk.held.find? fun x => x.holder == h with
  | none => s
  | some x => (s.modTrunk fun t => { t with held := t.held.filter fun y => y.holder != h }).slotFreed x.slot

/-- A holder withdraws its waiting request (R109). -/
def State.withdraw (s : State) (h : Holder) : State :=
  s.modTrunk fun t => { t with queue := t.queue.filter fun w => w.holder != h }

/-- A holder that ends gives up its slot or its request. -/
def State.giveUp (s : State) (h : Holder) : State := (s.releaseSlot h).withdraw h

/-! ## The end of a call (R84) -/

/-- A tag's record loses the call. -/
def State.clearCall (s : State) (id : Nat) : Party → State
  | .tag r => s.modTag r fun t => if t.call = some id then { t with call := none } else t
  | _ => s

/-- A voice channel becomes FREE. -/
def State.freeVoice (s : State) (v : Option VoiceRef) : State := v.elim s fun v => s.setVoice v none

/-- The end of a call noted for the PLACE_CALL that is being answered with it (R99; log entry 63). -/
def noteEnd (id : Nat) (cause : CallCause) (p : Nat × Option CallCause) : Nat × Option CallCause :=
  if p.1 = id then (id, p.2.or (some cause)) else p

/-- A call leaves the table, its end noted. -/
def State.dropCall (s : State) (id : Nat) (cause : CallCause) : State :=
  { s with calls := s.calls.filter (fun d => d.id != id), answering := s.answering.map (noteEnd id cause) }

/-- A call ends, in the order of R84; the report shows no channel and no slot (log entry 11). -/
def State.csEndFrom (s : State) (id : Nat) (prev : Option CallState) (cause : CallCause) : State :=
  match s.callOf id with
  | none => s
  | some c =>
    let s1 := (s.freeVoice c.chanA).freeVoice c.chanB
    let s2 := s1.giveUp (.call id)
    let s3 := (s2.clearCall id c.a).clearCall id c.b
    (s3.dropCall id cause).reportCall id { c with chanA := none, chanB := none, slot := none } prev .ended cause

/-- The end of a call that stands in the table. -/
def State.csEnd (s : State) (id : Nat) (cause : CallCause) : State :=
  s.csEndFrom id ((s.callOf id).map Call.state) cause

end Sys2Proof.Machine
end

