-- ==== Sys2Proof/Machine/Burst.lean ====
section
/-! DEFINITION. The Telemetry Gatherer (08_telemetry_bursts.md) but for its requests: fetches and their answers, the notices of
the trunk, forwarding, completion and the BURST report (R144). -/

namespace Sys2Proof.Machine

/-! ## The BURST report (R144) -/

/-- A quarter's number and fields (R136). -/
def quarterField (q : Quarter) : Bytes :=
  byteField (quarterNo q).1 ++
    match q with
    | .q0 spur address speed dir => byteField spur ++ byteField address ++ byteField speed ++ named directions dir
    | .q1 raw status => wordField raw ++ named headStatuses status
    | .q2 drive brake level => named driveStates drive ++ named brakes brake ++ byteField level
    | .q3 codes operator => listField byteField codes ++ presenceField tagIdField operator

/-- The forwarding result: FORWARDED, or STOPPED with its cause (R144). -/
def forwardingResult : Forwarding → Bytes
  | .stopped cause => byteField 1 ++ named stopCauses cause
  | _ => byteField 0

/-- BURST (R144). -/
def State.reportBurst (s : State) (v : VehNo) (b : Burst) : State :=
  s.report ⟨.routine, 0x98, num v ++ named burstOrigins b.origin ++ byteField b.first.1
    ++ named [true, false] (decide (b.received.length = 4)) ++ named gatherEnds (b.gatherEnd.getD .complete)
    ++ forwardingResult b.forwarding ++ byteField b.forwarded ++ optNum b.zoneAtQ1 ++ optNum (s.vehicles.get v).zone
    ++ named q1Outcomes (b.outcome.getD .noQ1) ++ listField quarterField b.received⟩

/-! ## Completion (R143, R144) -/

/-- A change of a vehicle's burst record. -/
def State.modBurst (s : State) (v : VehNo) (f : Burst → Burst) : State := s.setBurst v ((s.bursts.get v).map f)

/-- The Q1 outcome at completion (R143). -/
def State.q1Outcome (s : State) (v : VehNo) (b : Burst) : Q1Outcome :=
  if b.q1.isNone then .noQ1
  else if b.zoneChanged then .zoneChanged
  else if (s.onboardChannel v).isNone then .noChannel
  else .entered

/-- A burst completes (R144). The record of an unconfigured vehicle is removed after its report. -/
def State.tgComplete (s : State) (st : Starter) (v : VehNo) (b : Burst) : State :=
  let s1 := s.giveUp (.burst v)
  let done := { b with slot := none, state := .done, outstanding := none, outcome := some (s1.q1Outcome v b) }
  let s2 := (s1.setBurst v (some done)).reportBurst v done
  let s3 := if (s2.vehicles.get v).configured then s2 else s2.setBurst v none
  match done.outcome, done.q1 with
  | some .entered, some (raw, status) => s3.onboardSample st v raw status
  | _, _ => s3

/-- Forwarding has nothing left to do: gathering has ended and every received quarter has been forwarded (R142). -/
def Burst.allForwarded (b : Burst) : Bool :=
  b.gatherEnd.isSome && b.received.length ≤ b.forwarded && (b.forwarding == .pending || b.forwarding == .holding)

/-- Both strands have ended (R144). -/
def Burst.ended (b : Burst) : Bool :=
  b.gatherEnd.isSome && b.forwarding != .pending && b.forwarding != .holding

/-- The completion test of a burst in progress (R142, R144). -/
def State.tgSettle (s : State) (st : Starter) (v : VehNo) : State :=
  match s.bursts.get v with
  | none => s
  | some b =>
    if b.inProgress then
      let b' := if b.allForwarded then { b with forwarding := .forwarded } else b
      if b'.ended then (s.setBurst v (some b')).tgComplete st v b' else s
    else s

/-! ## Gathering (R141) -/

/-- The beacon of the junction of a vehicle's most recent read, when a fetch can be issued through it (R141). -/
def State.fetchBeacon (s : State) (v : VehNo) : Option DevRef := do
  let j ← (s.vehicles.get v).lastJunction
  let x := s.junctions.get j
  if x.configured && x.state == .inService then x.beacon else none

/-- A fetch joins the end of its spur's list, which holds no vehicle twice (R169). -/
def State.queueFetch (s : State) (f : Fetch) : State :=
  s.modSpur f.beacon.spur fun p => { p with fetches := (p.fetches.filter fun g => g.vehicle != f.vehicle) ++ [f] }

/-- Gathering ends; no fetch is outstanding. -/
def State.endGather (s : State) (v : VehNo) (cause : GatherEnd) : State :=
  s.modBurst v fun b => { b with gatherEnd := some cause, outstanding := none }

/-- The next quarter of the order is fetched (R141). -/
def State.fetchNext (s : State) (v : VehNo) : State :=
  match s.bursts.get v, s.fetchBeacon v with
  | some b, some r =>
    let q := b.nextQuarter
    (s.modBurst v fun b => { b with outstanding := some (q, r) }).queueFetch ⟨v, (s.vehicles.get v).tagId, q, r⟩
  | _, _ => s.endGather v .beaconFailed

/-- What a Spur Controller answers to a fetch (R136). -/
inductive FetchAnswer
  | quarter (q : Quarter)
  | notHeard
  | miss
  deriving DecidableEq, Repr

/-- A received quarter (R141, R143). -/
def Burst.receive (b : Burst) (q : Quarter) (zone : Option ZoneNo) : Burst :=
  { b with
    misses := 0, received := b.received ++ [q], outstanding := none
    zoneAtQ1 := if quarterNo q = 1 then zone else b.zoneAtQ1 }

/-- A QUARTER answer. -/
def State.takeQuarter (s : State) (v : VehNo) (q : Quarter) : State :=
  let zone := (s.vehicles.get v).zone
  let s1 := s.modBurst v fun b => b.receive q zone
  if (s1.bursts.get v).any fun b => b.received.length == 4 then s1.endGather v .complete else s1.fetchNext v

/-- A MISS answer. -/
def State.takeMiss (s : State) (v : VehNo) : State :=
  let s1 := s.modBurst v fun b => { b with misses := b.misses + 1, outstanding := none }
  if (s1.bursts.get v).any fun b => 3 ≤ b.misses then s1.endGather v .beaconFailed else s1.fetchNext v

/-- The answer of a fetch; one that no burst awaits is discarded (R141). -/
def State.tgAnswer (s : State) (st : Starter) (f : Fetch) (a : FetchAnswer) : State :=
  if (s.bursts.get f.vehicle).any fun b => b.inProgress && b.outstanding == some (f.quarter, f.beacon) then
    let s1 := match a with
      | .quarter q => s.takeQuarter f.vehicle q
      | .notHeard => s.endGather f.vehicle .notHeard
      | .miss => s.takeMiss f.vehicle
    s1.tgSettle st f.vehicle
  else s

/-- The beacon of a fetch outstanding is lost (R141). -/
def State.tgBeacon (s : State) (st : Starter) (r : DevRef) (new : DeviceState) : State :=
  if new = .offline ∨ new = .standby then
    s.forEach (allOf 12) fun t v =>
      if (t.bursts.get v).any fun b => b.inProgress && (b.outstanding.map fun o => o.2) == some r then
        (t.endGather v .beaconFailed).tgSettle st v
      else t
  else s

/-! ## Notices of the trunk (R142) -/

/-- Forwarding stops; a burst that was INTERRUPTED is GATHERING. -/
def Burst.stop (b : Burst) (cause : StopCause) : Burst :=
  { b with forwarding := .stopped cause, slot := none, state := .gathering, carried := false }

/-- Forwarding of a burst in progress stops, and the completion test follows. -/
def State.tgStop (s : State) (st : Starter) (v : VehNo) (cause : StopCause) : State :=
  if (s.bursts.get v).any Burst.inProgress then (s.modBurst v fun b => b.stop cause).tgSettle st v else s

/-- A PREEMPTED notice: INTERRUPTED, and forwarding PENDING for the request made again. -/
def State.tgPreempted (s : State) (v : VehNo) : State :=
  s.modBurst v fun b => { b with state := .interrupted, slot := none, forwarding := .pending, carried := false }

/-! ## Forwarding on the trunk (R142) -/

/-- A burst holds its slot and has a quarter to send. -/
def Burst.sends (b : Burst) : Bool := b.inProgress && b.forwarding == .holding && b.forwarded < b.received.length

/-- A quarter of the burst goes out in the cycle under way. -/
def Burst.sending (b : Burst) : Bool := b.sends && b.carried

/-- The quarter in the cycle that has gone counts as forwarded (R142). -/
def Burst.counted (b : Burst) : Burst := { b with forwarded := b.forwarded + 1, carried := false }

/-- A cycle that opened with its mark has gone: each burst with a quarter in it has forwarded that quarter (R142; log entry
12). -/
def State.forwardCycle (s : State) (st : Starter) : State :=
  s.forEach (thoseOf 12 fun v => (s.bursts.get v).any Burst.sending) fun t v =>
    if (t.bursts.get v).any Burst.sending then (t.modBurst v Burst.counted).tgSettle st v else t

/-- A cycle opens: the next quarter of each HOLDING burst that has one goes out in it (R142). -/
def State.openCycle (s : State) : State :=
  { s with bursts := s.bursts.map (Option.map fun b => { b with carried := b.sends }) }

/-- A cycle boundary in UP at the bursts: the cycle that has gone counts when its mark was received, and the next one opens
(R142, section 6.1; log entry 12). -/
def State.turnCycle (s : State) (st : Starter) : State :=
  (if s.trunk.misses = 0 then s.forwardCycle st else s).openCycle

/-! ## Changes of the vehicle (R137, R141 to R143) -/

/-- The vehicle's zone changed after Q1 was received (R143). -/
def State.tgZoneChange (s : State) (v : VehNo) : State :=
  s.modBurst v fun b => if b.inProgress && b.q1.isSome then { b with zoneChanged := true } else b

/-- A SET_VEHICLE that changes the tag id ends gathering (R141). -/
def State.tgTagChanged (s : State) (st : Starter) (v : VehNo) : State :=
  if (s.bursts.get v).any fun b => b.inProgress && b.gatherEnd.isNone then
    (s.endGather v .vehicleChanged).tgSettle st v
  else s

/-- A SET_VEHICLE that unconfigures the vehicle ends gathering and forwarding, and removes the record (R137, R141, R142). The
stop with VEHICLE_CHANGED goes before the completion test, so forwarding ends STOPPED even when every received quarter has been
forwarded or none was received (DESIGN CHOICE, log entry 64). -/
def State.tgUnconfigured (s : State) (st : Starter) (v : VehNo) : State :=
  match s.bursts.get v with
  | none => s
  | some b =>
    if b.inProgress then
      let s1 := if b.gatherEnd.isNone then s.endGather v .vehicleChanged else s
      if b.forwarding = .pending ∨ b.forwarding = .holding then
        (s1.giveUp (.burst v)).tgStop st v .vehicleChanged
      else s1.tgSettle st v
    else s.setBurst v none

/-- The expiry of a period finds a burst that only waits for a slot (R138): its gathering has ended and forwarding is
PENDING. -/
def Burst.onlyWaits (b : Burst) : Bool := b.inProgress && b.gatherEnd.isSome && b.forwarding == .pending

end Sys2Proof.Machine
end

