-- ==== Sys2Proof/Machine/Arbiter.lean ====
section
/-! DEFINITION. The Trunk Controller and Slot Arbiter (06_trunk_and_slot_arbiter.md): requests, preemption and the request
queue, trunk states and the TRUNK report, with what calls and bursts do with its answers and notices, and the start of a burst
(R138, R140). -/

namespace Sys2Proof.Machine

/-- The arbiter's answer to a request (section 6.4). -/
inductive SlotAnswer
  | granted (k : SlotNo)
  | queued
  | noSlot
  | noTrunk
  | busy
  deriving DecidableEq, Repr

/-! ## Notices (R96, R97, R107, R110, R142) -/

/-- A PREEMPTED notice: a call in ACTIVE goes HELD, in RINGING it ends; a burst is INTERRUPTED. A runner is not preempted
(R96, R106, R142). -/
def State.preemptedNotice (s : State) (h : Holder) : State :=
  match h with
  | .call id =>
    match (s.callOf id).map Call.state with
    | some .active =>
      (s.modCall id fun c => { c with
        state := .held, slot := none, deadline := some (s.now + Config.heldLimit) }).reportCallNow id (some .active)
        .slotPreempted
    | some .ringing => s.csEnd id .preempted
    | _ => s
  | .burst v => s.tgPreempted v
  | .runner _ => s

/-- A NO_SLOT notice to a displaced holder (R107). -/
def State.noSlotNotice (s : State) (st : Starter) (h : Holder) : State :=
  match h with
  | .call id => s.csEnd id .noResource
  | .burst v => s.tgStop st v .noSlot
  | .runner r => s.playStart r

/-- A TRUNK_LOST notice (R97, R142, R161). -/
def State.trunkLostNotice (s : State) (st : Starter) (h : Holder) : State :=
  match h with
  | .call id => s.csEnd id .trunkLost
  | .burst v => s.tgStop st v .trunkLost
  | .runner _ => s

/-- A NO_TRUNK notice to a waiting holder (R97, R142, R161). -/
def State.noTrunkNotice (s : State) (st : Starter) (h : Holder) : State :=
  match h with
  | .call id => s.csEnd id .trunkLost
  | .burst v => s.tgStop st v .noTrunk
  | .runner r => if (s.runners.get r).state = .slotWait then s.playStart r else s

/-! ## The request queue (R107) -/

/-- A request takes its place after the last entry of its own class or of a higher one. -/
def placeWaiting (q : List Waiting) (w : Waiting) : List Waiting :=
  q.takeWhile (fun x => classRank x.cls ≤ classRank w.cls) ++ w :: q.dropWhile fun x => classRank x.cls ≤ classRank w.cls

/-- A request that reaches the queue (R107). The last entry of the queue is the newest of the lowest class present. At a full
queue it is removed and its holder told, and only then is the request placed; the starts that the holder's end brings wait for
the requester's answer (log entry 38). -/
def State.toQueue (s : State) (w : Waiting) : State × SlotAnswer :=
  let q := s.trunk.queue
  if q.length < Config.requestQueueBound then (s.modTrunk fun t => { t with queue := placeWaiting q w }, .queued)
  else match q.getLast? with
    | none => (s, .noSlot)
    | some x =>
      if classRank w.cls < classRank x.cls then
        (((s.modTrunk fun t => { t with queue := q.dropLast }).noSlotNotice deferStart x.holder).modTrunk fun t => { t with
          queue := placeWaiting t.queue w }, .queued)
      else (s, .noSlot)

/-! ## Requests (R105, R106) -/

/-- Cases 1, 2, 3 and 5 of R105: a request that finds no holder it may preempt. -/
def State.requestPlain (s : State) (h : Holder) (c : TrunkClass) : State × SlotAnswer :=
  if s.trunk.state ≠ .up then (s, .noTrunk)
  else if s.trunk.holds h || s.trunk.waitsFor h then (s, .busy)
  else match s.trunk.freeSlot with
    | some k => (s.modTrunk fun t => t.give k h c, .granted k)
    | none => s.toQueue ⟨h, c⟩

/-- The victim's slot passes to the requester (R106 steps 1 and 2). -/
def State.passSlot (s : State) (x : HeldSlot) (h : Holder) (c : TrunkClass) : State :=
  ((s.modTrunk fun t => { t with held := t.held.filter fun y => y.slot != x.slot }).preemptedNotice x.holder).modTrunk
    fun t => t.give x.slot h c

/-- A request, at the first case of R105 that applies, with the victim whose block requests again once the requester has
taken its answer (R106). -/
def State.requestSlot (s : State) (h : Holder) (c : TrunkClass) : State × SlotAnswer × Option Holder :=
  if s.trunk.state = .up ∧ s.trunk.holds h = false ∧ s.trunk.waitsFor h = false ∧ s.trunk.freeSlot = none then
    match s.trunk.victim c with
    | some x => (s.passSlot x h c, .granted x.slot, some x.holder)
    | none => let (t, a) := s.requestPlain h c; (t, a, none)
  else let (t, a) := s.requestPlain h c; (t, a, none)

/-- The answer to a burst's request (R142). -/
def State.tgTake (s : State) (st : Starter) (v : VehNo) : SlotAnswer → State
  | .granted k => s.tgGranted v k
  | .noSlot => s.tgStop st v .noSlot
  | .noTrunk => s.tgStop st v .noTrunk
  | .queued => s
  | .busy => s

/-- Request waiting follows the queue. -/
def State.markWaiting (s : State) (id : Nat) : State :=
  s.modCall id fun c => { c with waiting := s.trunk.waitsFor (.call id) }

/-- The answer to the request that a HELD call makes again (R96). -/
def State.csTakeHeld (s : State) (id : Nat) : SlotAnswer → State
  | .granted k => s.csGranted id k
  | .queued => s.markWaiting id
  | .noSlot => s.csEnd id .noResource
  | .noTrunk => s.csEnd id .trunkLost
  | .busy => s

/-- A victim of a preemption requests again (R96, R106, R142). -/
def State.requestAgain (s : State) (st : Starter) : Option Holder → State
  | some (.call id) =>
    match s.callOf id with
    | some c =>
      if c.state = .held then
        let (t, a) := s.requestPlain (.call id) (c.cls.getD .routine)
        t.csTakeHeld id a
      else s
    | none => s
  | some (.burst v) =>
    if s.wantsSlot (.burst v) then
      let (t, a) := s.requestPlain (.burst v) .telemetry
      t.tgTake st v a
    else s
  | _ => s

/-! ## Trunk states (R102, R103, R114) -/

/-- TRUNK (R114). -/
def State.reportTrunk (s : State) (prev new : TrunkState) (revoked removed : Nat) : State :=
  s.report ⟨.safety, 0x8F, named trunkStates prev ++ named trunkStates new ++ byteField revoked ++ byteField removed⟩

/-- The held slots in ascending slot number. -/
def Trunk.inOrder (t : Trunk) : List HeldSlot := (allOf 24).filterMap fun k => t.held.find? fun x => x.slot == k

/-- One held slot is revoked, with its notice (R103 step 1). -/
def State.revoke (s : State) (st : Starter) (x : HeldSlot) : State :=
  if x ∈ s.trunk.held then
    (s.modTrunk fun t => { t with held := t.held.filter fun y => y.slot != x.slot }).trunkLostNotice st x.holder
  else s

/-- One waiting request is removed, with its notice (R103 step 2). -/
def State.removeRequest (s : State) (st : Starter) (w : Waiting) : State :=
  if w ∈ s.trunk.queue then (s.withdraw w.holder).noTrunkNotice st w.holder else s

/-- The trunk goes DOWN from UP (R103). -/
def State.trunkDown (s : State) (st : Starter) : State :=
  let slots := s.trunk.inOrder
  let waiting := s.trunk.queue
  let s1 := s.modTrunk fun t => { t with state := .down }
  let s2 := (s1.forEach slots fun t x => t.revoke st x).forEach waiting fun t w => t.removeRequest st w
  (s2.reportTrunk .up .down slots.length waiting.length).modTrunk fun t => { t with
    state := .sync, marks := 0, misses := 0, held := [], queue := [] }

/-- A good mark (R102), and the cycle boundary at the bursts (R142). -/
def State.goodMark (s : State) (st : Starter) : State :=
  match s.trunk.state with
  | .up => (s.turnCycle st).modTrunk fun t => { t with misses := 0 }
  | _ =>
    if s.trunk.marks + 1 < 2 then s.modTrunk fun t => { t with marks := t.marks + 1, misses := 0 }
    else (s.modTrunk fun t => { t with state := .up, marks := 0, misses := 0 }).reportTrunk .sync .up 0 0

/-- A missed mark (R102), and below the fourth in UP the cycle boundary at the bursts (R142). A pass through DOWN from SYNC restarts the counts alone (R103). -/
def State.missedMark (s : State) (st : Starter) : State :=
  match s.trunk.state with
  | .up =>
    if s.trunk.misses + 1 < 4 then (s.turnCycle st).modTrunk fun t => { t with misses := t.misses + 1 } else s.trunkDown st
  | _ =>
    if s.trunk.misses + 1 < 4 then s.modTrunk fun t => { t with marks := 0, misses := t.misses + 1 }
    else s.modTrunk fun t => { t with state := .sync, marks := 0, misses := 0 }

/-! ## Allotment (R104) -/

/-- An accepted SET_TRUNK: the joining slots are granted to the queue's heads in ascending slot number. -/
def State.setAllotment (s : State) (slots : List SlotNo) : State :=
  let new := (allOf 24).filter fun k => k ∈ slots
  let joining := new.filter fun k => k ∉ s.trunk.allotment
  (s.modTrunk fun t => { t with allotment := new }).forEach joining State.slotFreed

/-! ## The start of a burst (R138, R140) -/

/-- A burst starts (R140). -/
def State.tgStart (s : State) (st : Starter) (v : VehNo) (origin : BurstOrigin) (first : QuarterNo) : State :=
  let s1 := s.setBurst v (some { origin := origin, first := first })
  let s2 :=
    if s.trunk.state = .up then
      let (t, a, _) := s1.requestSlot (.burst v) .telemetry
      t.tgTake st v a
    else s1.modBurst v fun b => { b with forwarding := .stopped .noTrunk }
  (s2.fetchNext v).tgSettle st v

/-- A vehicle's state in which a period expiry starts a burst (R138). -/
def startsBurst : VehicleState → Bool
  | .unseen => false
  | .lost => false
  | _ => true

/-- The expiry of a vehicle's period timer (R138). -/
def State.tgPeriod (s : State) (st : Starter) (v : VehNo) : State :=
  let s1 := s.modVehicle v fun x => { x with periodAt := some (s.now + 10 * x.period) }
  let x := s1.vehicles.get v
  if (s1.bursts.get v).any Burst.onlyWaits then (s1.withdraw (.burst v)).tgStop st v .period
  else if (s1.bursts.get v).any Burst.inProgress then s1
  else if startsBurst x.state then s1.tgStart st v .periodic x.firstQuarter
  else s1

end Sys2Proof.Machine
end

