-- ==== Sys2Proof/Machine/Programs.lean ====
section
/-! DEFINITION. The Alarm Program Unit (10_alarm_programs.md): starts, the start queue, stepping with its checks, the end of a
run, and its reports (R167). -/

namespace Sys2Proof.Machine

/-! ## Reports (R165, R167) -/

/-- The reason of a START_DROPPED report. -/
inductive DropReason | loading | undefined | displaced | queueFull | cancelled
  deriving DecidableEq, Repr

def dropReasons : List DropReason := [.loading, .undefined, .displaced, .queueFull, .cancelled]

/-- Check flags: a count and the flags that are set, in the order of section 10.2 (DESIGN CHOICE on R167, log entry 70). -/
def checksField (c : CheckFlags) : Bytes :=
  let flags := [(c.program, 0), (c.protection, 1), (c.data, 2), (c.slot, 3)].filterMap fun (p, n) =>
    if p then some n else none
  listField byteField flags

/-- A run-status record in the order of R165. -/
def runStatusField (x : RunStatus) : Bytes :=
  num x.program ++ num x.zone ++ named startCauses x.cause ++ named endReasons x.reason
    ++ presenceField byteField x.lastStep ++ presenceField byteField x.nextStep ++ byteField x.residual
    ++ checksField x.checks

/-- The program, zone and cause of a start request. -/
def startReqField (q : StartReq) : Bytes := num q.program ++ num q.zone ++ named startCauses q.cause

/-- PROGRAM_START. -/
def State.reportProgramStart (s : State) (r : RunnerNo) (q : StartReq) (urgency : Nat) : State :=
  s.report ⟨.routine, 0x9A, num r ++ startReqField q ++ byteField urgency⟩

/-- PROGRAM_END. -/
def State.reportProgramEnd (s : State) (r : RunnerNo) (x : RunStatus) : State :=
  s.report ⟨.safety, 0x9B, num r ++ runStatusField x⟩

/-- PROGRAM_MARK. -/
def State.reportProgramMark (s : State) (r : RunnerNo) (program : ProgNo) (zone : ZoneNo) (code : Nat) : State :=
  s.report ⟨.routine, 0x9C, num r ++ num program ++ num zone ++ byteField code⟩

/-- A runner or QUEUED: a selector and the runner. -/
def runnerOrQueued : Option RunnerNo → Bytes
  | some r => byteField 0 ++ num r
  | none => byteField 1

/-- MERGED; none for QUEUED. -/
def State.reportMerged (s : State) (q : StartReq) (r : Option RunnerNo) : State :=
  s.report ⟨.routine, 0x9D, startReqField q ++ runnerOrQueued r⟩

/-- START_DROPPED. -/
def State.reportDropped (s : State) (q : StartReq) (reason : DropReason) : State :=
  s.report ⟨.safety, 0x9E, startReqField q ++ named dropReasons reason⟩

/-! ## Counts (section 10.1, R165) -/

/-- The unit of a step's count in tenths of a second. -/
def countUnit : Action → Nat
  | .sound => 5
  | .strobe => 5
  | .announce => 10
  | _ => 1

/-- The residual count of a runner whose timed step is cut short: the units still to run, a begun unit counting whole, and
the whole count in SLOT_WAIT (R165; log entry 13). -/
def State.residual (s : State) (x : Runner) : Nat :=
  match x.current.bind s.stepAt with
  | none => 0
  | some st =>
    match x.countEnd with
    | some t => (s.left t + countUnit st.action - 1) / countUnit st.action
    | none => if x.state = .slotWait then st.count else 0

/-! ## Next step (R160) -/

/-- The step that follows a step taken; none when the program would end. A TEST goes by its condition. -/
def nextStep (i : Nat) (st : Step) (cond : Bool) : Option Nat :=
  if st.action = .transfer then some st.item
  else if st.chain then some (if st.action = .test ∧ cond = false then i + 2 else i + 1)
  else none

/-! ## The end of a run (R165) -/

/-- A runner at the end of a run: IDLE, with the record. The untimed-run count, last-was-TRANSFER and check flags stand until
the next start (section 10.8). -/
def Runner.idled (x : Runner) (status : RunStatus) : Runner :=
  { x with
    state := .idle, program := none, zone := none, cause := none, urgency := none, key := none, startNo := none
    current := none, countEnd := none, slotWaitAt := none, lastTaken := none, record := some status }

/-- Steps 1 to 4 of the end of a run, and the runner IDLE. -/
def State.endRun (s : State) (r : RunnerNo) (reason : EndReason) (next : Option Nat) (residual : Nat) : State :=
  let x := s.runners.get r
  match x.program, x.zone, x.cause with
  | some p, some z, some c =>
    let s1 := (s.leaveDrivers r).forEach (allOf 4) fun t n => t.leaveStrobe n r
    let s2 := s1.giveUp (.runner r)
    let status : RunStatus :=
      { program := p, zone := z, cause := c, reason := reason, lastStep := x.lastTaken, nextStep := next,
        residual := residual, checks := x.checks }
    (s2.modRunner r fun y => y.idled status).reportProgramEnd r status
  | _, _, _ => s

/-- The end of a run whose timed step is cut short (R165). -/
def State.cutShort (s : State) (r : RunnerNo) (reason : EndReason) : State :=
  let x := s.runners.get r
  let next := x.current.bind fun i => (s.stepAt i).bind fun st => nextStep i st true
  s.endRun r reason next (s.residual x)

/-! ## Stepping (R158, R160 to R164) -/

/-- What a runner does next within an event. -/
inductive Work
  | step (i : Nat) (first : Bool)
  | head
  | rest
  deriving DecidableEq, Repr

/-- A program starts on a runner (R158). -/
def State.beginRun (s : State) (r : RunnerNo) (q : StartReq) : State × Work :=
  let p := s.programs.get q.program
  let s1 := s.modRunner r fun x => { x with
    state := .stepping, program := some q.program, zone := some q.zone, cause := some q.cause
    urgency := some p.urgency, key := some p.key, startNo := some s.nextStart, current := none, countEnd := none
    untimed := 0, lastTransfer := false, checks := {}, slotWaitAt := none, lastTaken := none }
  (({ s1 with nextStart := s.nextStart + 1 }).reportProgramStart r q p.urgency, .step p.first true)

/-- The head of the start queue starts on a runner; an UNDEFINED program is dropped and the next head is taken (R158). -/
def State.takeHead (s : State) (r : RunnerNo) : State × Work :=
  match s.startQueue with
  | [] => (s, .rest)
  | q :: rest =>
    let s1 := { s with startQueue := rest }
    if (s.programs.get q.req.program).defined then s1.beginRun r q.req
    else (s1.reportDropped q.req .undefined, .head)

/-- The program check on a step (R162). -/
def programCheck (x : Runner) (first : Bool) (st : Step) : Bool :=
  (st.action == .transfer && (first || x.lastTransfer)) || (isTimed st.action && st.count == 0)
    || (!isTimed st.action && Config.untimedBound ≤ x.untimed)

/-- An action on a zone (section 10.1). -/
def actsOnZone : Action → Bool
  | .announce => true
  | .page => true
  | .evacuate => true
  | .test => true
  | _ => false

/-- The protection check on a step (R163). -/
def State.protectionCheck (s : State) (x : Runner) (own : ZoneNo) (st : Step) : Bool :=
  let zk := (s.zones.get (resolveZone own st.zone)).key
  let pk := x.key.getD 0
  actsOnZone st.action && zk != 0 && pk != 0 && zk != pk

/-- The data check: the target of a step fails (R164). -/
def State.dataFails (s : State) (own : ZoneNo) (st : Step) : Bool :=
  match st.action with
  | .sound => (index? 8 st.item).all fun g => (s.signals.get g).fault
  | .strobe => (index? 4 st.item).all fun n => !(s.stations.get n).configured || !(s.stations.get n).online
  | a => actsOnZone a && !(s.zones.get (resolveZone own st.zone)).configured

/-- A runner's count starts for a step (R161). -/
def State.startCount (s : State) (r : RunnerNo) (st : Step) : State :=
  s.modRunner r fun x => { x with countEnd := some (s.now + countUnit st.action * st.count) }

/-- The answer to a runner's request (R161). -/
def State.apuTakeSlot (s : State) (r : RunnerNo) : SlotAnswer → State
  | .queued => s.modRunner r fun x => { x with
      state := .slotWait, slotWaitAt := some (s.now + Config.slotWaitLimit) }
  | _ => s.playStart r

/-- An ANNOUNCE step acts (R161). -/
def State.announce (s : State) (r : RunnerNo) : State :=
  if s.trunk.state = .up then
    let (t, a, again) := s.requestSlot (.runner r) .alarm
    (t.apuTakeSlot r a).requestAgain deferStart again
  else s.playStart r

/-- The tags of a zone's list are paged (R80, R161). -/
def State.pageZone (s : State) (z : ZoneNo) : State :=
  s.forEach (s.pageListOf z) fun t r => t.modTag r fun x => { x with page := true }

/-- An action when it is taken, with the answer of a TEST (R161). -/
def State.act (s : State) (r : RunnerNo) (program : ProgNo) (own : ZoneNo) (urgency : Nat) (st : Step) : State × Bool :=
  let z := resolveZone own st.zone
  match st.action with
  | .sound =>
    let s1 := (index? 8 st.item).elim s fun g => s.changeDrivers g (joinRunner r (st.pattern.getD .steady) urgency)
    (s1.startCount r st, true)
  | .strobe => (((index? 4 st.item).elim s fun n => s.joinStrobe n r).startCount r st, true)
  | .announce => (s.announce r, true)
  | .wait => (s.startCount r st, true)
  | .page => (s.pageZone z, true)
  | .evacuate => (if (s.zones.get z).configured then s.orderEvac z (.stepOrder r) else s, true)
  | .test => (s, conditions[st.item]?.any (s.condition z))
  | .transfer => (s, true)
  | .report => (s.reportProgramMark r program own st.item, true)

/-- The runner's bookkeeping when a step is taken (R160, R164). -/
def Runner.took (x : Runner) (i : Nat) (st : Step) (fails : Bool) : Runner :=
  { x with
    current := some i, lastTaken := some i
    untimed := if isTimed st.action then 0 else x.untimed + 1
    lastTransfer := st.action == .transfer
    checks := { x.checks with data := x.checks.data || fails } }

/-- A runner goes on after a step whose effect is complete (R160, R164). -/
def State.goOn (s : State) (r : RunnerNo) (i : Nat) (st : Step) (cond : Bool) : State × Work :=
  let next := nextStep i st cond
  if (s.runners.get r).checks.data then (s.endRun r .dataCheck next 0, .head)
  else match next with
    | some j => (s, .step j false)
    | none => (s.endRun r .normal none 0, .head)

/-- A check suppresses a step and ends the program (R162, R163). -/
def State.suppress (s : State) (r : RunnerNo) (i : Nat) (reason : EndReason) (f : CheckFlags → CheckFlags) :
    State × Work :=
  ((s.modRunner r fun x => { x with checks := f x.checks }).endRun r reason (some i) 0, .head)

/-- A step is taken (R160, R161). -/
def State.takeStep (s : State) (r : RunnerNo) (i : Nat) (st : Step) (program : ProgNo) (own : ZoneNo) : State × Work :=
  let s1 := s.modRunner r fun x => x.took i st (s.dataFails own st)
  let (s2, cond) := s1.act r program own ((s.runners.get r).urgency.getD 0) st
  if isTimed st.action then (s2, .rest) else s2.goOn r i st cond

/-- A runner at a step: the program check, the protection check, then the step (R160). -/
def State.atStep (s : State) (r : RunnerNo) (i : Nat) (first : Bool) : State × Work :=
  let x := s.runners.get r
  match s.stepAt i, x.program, x.zone with
  | some st, some program, some own =>
    if programCheck x first st then s.suppress r i .programCheck fun c => { c with program := true }
    else if s.protectionCheck x own st then s.suppress r i .protectionCheck fun c => { c with protection := true }
    else s.takeStep r i st program own
  | _, _, _ => s.suppress r i .programCheck fun c => { c with program := true }

/-- One piece of a runner's work. -/
def State.workOnce (s : State) (r : RunnerNo) : Work → State × Work
  | .step i first => s.atStep r i first
  | .head => s.takeHead r
  | .rest => (s, .rest)

/-- A runner works until a count runs, a slot is awaited, or it is IDLE with an empty queue (R160). The first operand bounds
the pieces; the bound is never met (log entry 5). -/
def State.work (s : State) (r : RunnerNo) : Nat → Work → State
  | 0, _ => s
  | _ + 1, .rest => s
  | n + 1, w => let (t, w') := s.workOnce r w; t.work r n w'

/-- A runner works within an event. -/
def State.run (s : State) (r : RunnerNo) (w : Work) : State := s.work r Config.runFuel w

/-! ## Starts (R156, R157, R159) -/

/-- What becomes of a start request. -/
inductive StartOutcome
  | started (r : RunnerNo)
  | queued
  | merged
  | full
  | dropped
  deriving DecidableEq, Repr

/-- The place of an entry: after the last entry of its urgency (R159). -/
def placeStart (q : List QueuedStart) (e : QueuedStart) : List QueuedStart :=
  q.takeWhile (fun x => e.urgency ≤ x.urgency) ++ e :: q.dropWhile fun x => e.urgency ≤ x.urgency

/-- A request goes to the start queue (R159). The last entry is the newest of the lowest urgency. -/
def State.queueStart (s : State) (q : StartReq) : State × StartOutcome :=
  let e : QueuedStart := ⟨q, (s.programs.get q.program).urgency, s.now⟩
  if s.startQueue.length < Config.startQueueBound then
    ({ s with startQueue := placeStart s.startQueue e }, .queued)
  else match s.startQueue.getLast? with
    | none => (s.reportDropped q .queueFull, .full)
    | some x =>
      if x.urgency < e.urgency then
        let s1 := s.reportDropped x.req .displaced
        ({ s1 with startQueue := placeStart s1.startQueue.dropLast e }, .queued)
      else (s.reportDropped q .queueFull, .full)

/-- Of two runners, the one that an urgency-7 request takes: the lower urgency, and among equals the later start (R157). -/
def State.sooner (s : State) (a b : RunnerNo) : RunnerNo :=
  let u (r : RunnerNo) := (s.runners.get r).urgency.getD 0
  let n (r : RunnerNo) := (s.runners.get r).startNo.getD 0
  if u b < u a ∨ (u b = u a ∧ n a < n b) then b else a

/-- The runner that an urgency-7 request takes: none when every runner runs an urgency-7 program (R157). -/
def State.runnerToTake (s : State) : Option RunnerNo :=
  (thoseOf 4 fun r => (s.runners.get r).running && (s.runners.get r).urgency.getD 7 < 7).foldl
    (fun best r => some (best.elim r fun b => s.sooner b r)) none

/-- A program starts on a runner within an event. -/
def State.startOn (s : State) (r : RunnerNo) (q : StartReq) : State :=
  let (t, w) := s.beginRun r q
  t.run r w

/-- Cases 4 to 6 of R156. -/
def State.placeRequest (s : State) (q : StartReq) : State × StartOutcome :=
  match firstOf 4 fun r => !(s.runners.get r).running with
  | some r => (s.startOn r q, .started r)
  | none =>
    match if (s.programs.get q.program).urgency = 7 then s.runnerToTake else none with
    | some r => ((s.cutShort r .preempted).startOn r q, .started r)
    | none => s.queueStart q

/-- A start request reaches the unit (R156). -/
def State.apuTake (s : State) (q : StartReq) : State × StartOutcome :=
  if s.slp.mode = .loading then (s.reportDropped q .loading, .dropped)
  else if (s.programs.get q.program).defined = false then (s.reportDropped q .undefined, .dropped)
  else match s.runnerOf q.program q.zone with
    | some r => (s.reportMerged q (some r), .merged)
    | none => if s.queuedPair q.program q.zone then (s.reportMerged q none, .merged) else s.placeRequest q

/-- The start requests held back while an input was being taken, in their order (log entry 5). -/
def State.drain : Nat → State → State
  | 0, s => s
  | n + 1, s =>
    match s.handOffs with
    | [] => s
    | q :: rest => State.drain n (({ s with handOffs := rest }).apuTake q).1

/-- An input has been taken: the requests held back meanwhile are taken. -/
def State.settle (s : State) : State := s.drain Config.startFuel

/-- Starts of programs by bindings, as the blocks outside the unit send them: taken at once, in their order. -/
def sendStart : Starter := fun qs s => ({ s with handOffs := s.handOffs ++ qs } : State).settle

/-! ## Ends of counts and waits, cancellation, ENTER_LOADING (R161, R164, R166) -/

/-- The end action of a timed step (R161). -/
def State.endAction (s : State) (r : RunnerNo) (st : Step) : State :=
  match st.action with
  | .sound => (index? 8 st.item).elim s fun g => s.changeDrivers g (leaveRunner r)
  | .strobe => (index? 4 st.item).elim s fun n => s.leaveStrobe n r
  | .announce => s.releaseSlot (.runner r)
  | _ => s

/-- A timed step's count runs out (R160, R161). -/
def State.countEnds (s : State) (r : RunnerNo) : State :=
  match (s.runners.get r).current with
  | none => s
  | some i =>
    match s.stepAt i with
    | none => s
    | some st =>
      let s1 := (s.modRunner r fun x => { x with countEnd := none }).endAction r st
      let (s2, w) := s1.goOn r i st true
      (s2.run r w).settle

/-- The slot wait timer expires in SLOT_WAIT: the slot check (R164). -/
def State.slotCheck (s : State) (r : RunnerNo) : State :=
  let s1 := s.modRunner r fun x => { x with checks := { x.checks with slot := true } }
  ((s1.cutShort r .slotCheck).run r .head).settle

/-- A running program is cancelled (R166). -/
def State.cancelRun (s : State) (r : RunnerNo) : State := ((s.cutShort r .cancelled).run r .head).settle

/-- A start queue entry is removed by a cancel (R166). -/
def State.cancelQueued (s : State) (p : ProgNo) (z : ZoneNo) : State :=
  match s.startQueue.find? fun q => q.req.program == p && q.req.zone == z with
  | none => s
  | some e =>
    ({ s with startQueue := s.startQueue.filter fun q => q.req.program != p || q.req.zone != z }).reportDropped e.req
      .cancelled

/-- ENTER_LOADING: the queue is cleared, then every program ends, A to D (R166). -/
def State.apuLoading (s : State) : State :=
  let s1 := { (s.forEach s.startQueue fun t q => t.reportDropped q.req .loading) with startQueue := [] }
  s1.forEach (allOf 4) fun t r => if (t.runners.get r).running then t.cutShort r .loading else t

end Sys2Proof.Machine
end

