-- ==== Sys2Proof/Machine/Calls.lean ====
section
/-! DEFINITION. The Call Switch (05_calls.md): admission and setup, key events, party-lost timing, handover and the removal of
call points. -/

namespace Sys2Proof.Machine

/-! ## Call ids and channels (R82, R83) -/

/-- The id of a new call: the next-id value, or the first free id after it, from 255 back to 1 (R83). -/
def State.newCallId (s : State) : Nat :=
  (((List.range 255).map fun i => (s.nextCallId - 1 + i) % 255 + 1).find? fun i => s.calls.all fun c => c.id != i).getD
    s.nextCallId

/-- The lowest-numbered FREE channel of a call point (R82). -/
def State.freeChannel (s : State) (e : EntryNo) : Option (Fin 4) := firstOf 4 fun k => ((s.voice.get e).get k).isNone

/-- The device entry of a tag's current call point. -/
def State.curEntry (s : State) (r : Roster) : Option EntryNo :=
  ((s.tags.get r).bind fun t => t.cur).bind (s.deviceOfKind .callPoint)

/-- A party takes a channel on its call point: none when it finds none; a SURFACE party takes none (R89). -/
def State.takeFor (s : State) (id : Nat) : Party → Option (State × Option VoiceRef)
  | .tag r => do
    let e ← s.curEntry r
    let k ← s.freeChannel e
    return (s.setVoice ⟨e, k⟩ (some id), some ⟨e, k⟩)
  | _ => some (s, none)

/-- Both parties take their channels, party A first, all or nothing (R89). -/
def State.takeBoth (s : State) (id : Nat) (a b : Party) : Option State := do
  let (s1, va) ← s.takeFor id a
  let (s2, vb) ← s1.takeFor id b
  return s2.modCall id fun c => { c with chanA := va, chanB := vb }

/-- A call holds a channel of a call point. -/
def Call.onPoint (c : Call) (e : EntryNo) : Bool :=
  (c.chanA.any fun v => v.entry == e) || c.chanB.any fun v => v.entry == e

/-- The call of a kind with the highest creation number among those that satisfy a test (R87, R89). -/
def State.latestOf (s : State) (k : CallKind) (p : Call → Bool) : Option Call :=
  (s.calls.filter fun c => c.kind == k && p c).foldl
    (fun best c => some (best.elim c fun b => if b.creation < c.creation then c else b)) none

/-! ## Setting up a call (R87 to R91) -/

/-- The callee checks (R88): the end cause of the first that fails. -/
def State.calleeFault (s : State) (a b : Party) : Option CallCause :=
  match b with
  | .surface => none
  | .dialled _ => some .unreachable
  | .tag r =>
    if a = .tag r then some .unreachable
    else match s.tags.get r with
      | none => some .unreachable
      | some t =>
        if t.state ≠ .placed then some .unreachable
        else if t.cur.isNone || t.lastHeard.all fun h => h + Config.partyLostLimit ≤ s.now then some .unreachable
        else if t.call.isSome then some .busy
        else none

/-- The party-lost deadline that a party's last heard gives (R88). -/
def State.lostDeadline (s : State) : Party → Option Time
  | .tag r => ((s.tags.get r).bind fun t => t.lastHeard).map fun h => h + Config.partyLostLimit
  | _ => none

/-- The call id is written into a tag party's record (R83, R87). -/
def State.writeCall (s : State) (id : Nat) : Party → State
  | .tag r => s.modTag r fun t => { t with call := some id }
  | _ => s

/-- The record of a new call (R87), with the call id in the caller's tag record. -/
def State.newCall (s : State) (kind : CallKind) (a b : Party) (cls : Option TrunkClass) : State × Nat :=
  let id := s.newCallId
  let c : Call :=
    { id := id, creation := s.nextCreation, kind := kind, a := a, b := b, state := .setup, cls := cls
      deadline := some (s.now + Config.setupLimit) }
  let s1 := { s with
    calls := s.calls ++ [c], nextCallId := if id = 255 then 1 else id + 1, nextCreation := s.nextCreation + 1 }
  (s1.writeCall id a, id)

/-- A call whose resources are in place in its creating event (R91). -/
def State.connectNew (s : State) (id : Nat) (slot : Option SlotNo) : State :=
  (s.modCall id fun c => { c.proceed s.now with slot := slot }).reportCallNow id none .connected

/-- The answer to a new call's request (R90). A call that is QUEUED is reported here, so one that is granted or displaced later in
the same event has a second CALL report (DESIGN CHOICE between R91 and R100, log entry 74). -/
def State.csTakeNew (s : State) (id : Nat) : SlotAnswer → State
  | .granted k => s.connectNew id (some k)
  | .queued => (s.markWaiting id).reportCallNow id none .created
  | .noSlot => s.csEndFrom id none .noResource
  | .noTrunk => s.csEndFrom id none .noTrunk
  | .busy => s

/-- A call with its channels asks for its slot, or proceeds at once without a SURFACE party (R90, R91). -/
def State.askSlot (s : State) (id : Nat) (cls : Option TrunkClass) : State :=
  match cls with
  | none => s.connectNew id none
  | some c =>
    let (s1, a, again) := s.requestSlot (.call id) c
    ((s1.csTakeNew id a).requestAgain sendStart again).settle

/-- An EMERGENCY call evicts one ROUTINE call from its call point (R89). -/
def State.evictChannel (s : State) (a : Party) : Option State :=
  match a with
  | .tag r => do
    let e ← s.curEntry r
    let c ← s.latestOf .routine fun c => c.onPoint e
    return s.csEnd c.id .preempted
  | _ => none

/-- The channels of a new call (R89); none when the call must end NO_RESOURCE. -/
def State.takeChannels (s : State) (id : Nat) (kind : CallKind) (a b : Party) : Option State :=
  match s.takeBoth id a b with
  | some t => some t
  | none => if kind = .emergency then (s.evictChannel a).bind fun t => t.takeBoth id a b else none

/-- A call is made (R87 to R91), with the id `newCallId` gives. -/
def State.makeCall (s : State) (kind : CallKind) (a b : Party) (cls : Option TrunkClass) : State :=
  let (s1, id) := s.newCall kind a b cls
  match s1.calleeFault a b with
  | some cause => s1.csEndFrom id none cause
  | none =>
    let s2 := s1.writeCall id b
    let s3 := s2.modCall id fun c => { c with lostA := s2.lostDeadline a, lostB := s2.lostDeadline b }
    match s3.takeChannels id kind a b with
    | none => s3.csEndFrom id none .noResource
    | some s4 => s4.askSlot id cls

/-- The call table is full (R87). -/
def State.callsFull (s : State) : Bool := Config.callTableBound ≤ s.calls.length

/-- A refused call: the CALL report with call id none (R85, R87). -/
def State.refuseCall (s : State) (kind : CallKind) (a b : Party) (cls : Option TrunkClass) (cause : CallCause) : State :=
  s.reportCall 0 { id := 0, creation := 0, kind := kind, a := a, b := b, state := .setup, cls := cls } none .refused cause

/-! ## Key events (R85, R86, R92, R93) -/

/-- The party that a dial code above 0 names (section 5.2). -/
def dialledParty (dial : Nat) : Party := (index? 64 dial).elim (.dialled dial) .tag

/-- A CALL key event from a tag that is IN (R85, R87). -/
def State.csCallKey (s : State) (r : Roster) (dial : Nat) : State :=
  let b := if dial = 0 then .surface else dialledParty dial
  let cls := if dial = 0 then some .routine else none
  if (s.tags.get r).any fun t => t.call.isSome then s.refuseCall .routine (.tag r) b cls .busy
  else if s.callsFull then s.refuseCall .routine (.tag r) b cls .noResource
  else s.makeCall .routine (.tag r) b cls

/-- An EMERGENCY request goes to admission (R87). -/
def State.admitEmergency (s : State) (r : Roster) : State :=
  let make (t : State) : State := t.makeCall .emergency (.tag r) .surface (some .emergency)
  if s.callsFull then
    match (s.latestOf .routine fun _ => true).or (s.latestOf .priority fun _ => true) with
    | some c => make (s.csEnd c.id .preempted)
    | none => s.refuseCall .emergency (.tag r) .surface (some .emergency) .noResource
  else make s

/-- An EMERGENCY key event from a tag that is IN (R86). -/
def State.csEmergencyKey (s : State) (r : Roster) : State :=
  match ((s.tags.get r).bind fun t => t.call).bind s.callOf with
  | none => s.admitEmergency r
  | some c => if c.kind = .emergency then s else (s.csEnd c.id .superseded).admitEmergency r

/-- An ANSWER from a tag with a call, and whether it was taken as the answer of a RINGING call (R92). -/
def State.csAnswerKey (s : State) (r : Roster) (id : Nat) : State × Bool :=
  match s.callOf id with
  | some c =>
    if c.state = .ringing ∧ c.b = .tag r then
      ((s.modCall id fun c => { c with state := .active, deadline := none }).reportCallNow id (some .ringing) .answered,
        true)
    else (s, false)
  | none => (s, false)

/-! ## Party-lost timing and handover (R94, R95) -/

/-- A party's deadline moves to 15 s after the entry (R94). -/
def State.moveDeadline (s : State) (id : Nat) (r : Roster) : State :=
  let t := some (s.now + Config.partyLostLimit)
  s.modCall id fun c => { c with
    lostA := if c.a = .tag r then t else c.lostA, lostB := if c.b = .tag r then t else c.lostB }

/-- A party's channel is handed over to its new current call point, when it has a FREE channel (R95). -/
def State.handOver (s : State) (id : Nat) (r : Roster) : State :=
  match s.callOf id, (s.curEntry r).bind fun e => (s.freeChannel e).map fun k => (⟨e, k⟩ : VoiceRef) with
  | some c, some v =>
    let s1 := (s.setVoice v (some id)).freeVoice (if c.a = .tag r then c.chanA else c.chanB)
    (s1.modCall id fun c => if c.a = .tag r then { c with chanA := some v } else { c with chanB := some v }).reportCallNow
      id (some c.state) .handover
  | _, _ => s

/-- The hand-off of a heard entry for a tag with a call (R94, R95). -/
def State.csHeard (s : State) (r : Roster) (id : Nat) (changed becameOut : Bool) : State :=
  let s1 := s.moveDeadline id r
  if becameOut then s1.csEnd id .partyLeft
  else if changed then s1.handOver id r
  else s1

/-! ## Call points removed (R98) -/

/-- Ids in ascending order. -/
def State.callIdsOn (s : State) (e : EntryNo) : List Nat :=
  (List.range 256).filter fun i => s.calls.any fun c => c.id == i && c.onPoint e

/-- A CALL_POINT entry is removed or changed: its calls end in ascending id, and its channels are FREE (R82, R98). -/
def State.csPointRemoved (s : State) (e : EntryNo) : State :=
  let s1 := s.forEach (s.callIdsOn e) fun t i => t.csEnd i .partyLost
  { s1 with voice := s1.voice.set e (Vector.replicate 4 none) }

end Sys2Proof.Machine
end

