-- ==== Sys2Proof/Machine/Tags.lean ====
section
/-! DEFINITION. The Tag Tracker (04_miner_tags_and_occupancy.md): heard entries, placement, absence, buttons, pages, and its
reports (R81). -/

namespace Sys2Proof.Machine

/-! ## Reports (R81) -/

/-- The cause of a TAG_MOVE report. -/
inductive MoveCause | firstHeard | zoneChange | exitGate | removed
  deriving DecidableEq, Repr

def moveCauses : List MoveCause := [.firstHeard, .zoneChange, .exitGate, .removed]

/-- The id of an enrolled tag. -/
def State.tagIdOf (s : State) (r : Roster) : Nat := (s.tags.get r).elim 0 fun t => t.id

/-- The zone of an enrolled tag. -/
def State.zoneOfTag (s : State) (r : Roster) : Option ZoneNo := (s.tags.get r).bind fun t => t.zone

/-- TAG_MOVE. -/
def State.reportTagMove (s : State) (r : Roster) (before : Tag) (state : TagState) (zone : Option ZoneNo)
    (point : Option DevRef) (cause : MoveCause) : State :=
  s.report ⟨.routine, 0x89, num r ++ tagIdField before.id ++ named tagStates before.state ++ named tagStates state
    ++ optNum before.zone ++ optNum zone ++ optRef point ++ named moveCauses cause⟩

/-- TAG_MISSING: MISSING or FOUND. -/
def State.reportTagMissing (s : State) (r : Roster) (before : Tag) (found : Bool) (zone : Option ZoneNo)
    (point : Option DevRef) : State :=
  s.report ⟨.safety, 0x8A, num r ++ tagIdField before.id ++ named [false, true] found ++ optNum before.zone ++ optNum zone
    ++ optRef point⟩

/-- TAG_EMERGENCY: FIRST or REPEAT. -/
def State.reportTagEmergency (s : State) (r : Roster) (point : DevRef) (again : Bool) : State :=
  s.report ⟨.safety, 0x8B, num r ++ tagIdField (s.tagIdOf r) ++ optNum (s.zoneOfTag r) ++ refField point
    ++ named [false, true] again⟩

/-- PAGE_ACK. -/
def State.reportPageAck (s : State) (r : Roster) (point : DevRef) : State :=
  s.report ⟨.routine, 0x8C, num r ++ tagIdField (s.tagIdOf r) ++ refField point⟩

/-- UNKNOWN_TAG. -/
def State.reportUnknownTag (s : State) (point : DevRef) (ids : List Nat) : State :=
  s.report ⟨.routine, 0x8D, refField point ++ listField tagIdField ids⟩

/-! ## Placement (R70 to R74) -/

/-- A call point as the Spur Controller names it: reference, zone and exit-gate flag (R70). -/
structure Point where
  ref : DevRef
  zone : ZoneNo
  exitGate : Bool
  deriving DecidableEq, Repr

/-- What a placement tells the Call Switch (R77). -/
structure Placement where
  changed : Bool
  becameOut : Bool
  deriving DecidableEq, Repr

/-- A tag IN at a call point's zone with that call point as its current one (R71 to R73). -/
def Tag.at (t : Tag) (now : Time) (p : Point) (strength : Nat) : Tag :=
  { t with
    state := .placed, zone := some p.zone, cur := some p.ref, strength := strength
    lastHeard := some now, curHeard := some now, absentAt := some (now + 10 * t.absence) }

/-- A tag that stays IN where it is: last heard and the absence timer alone (R70). -/
def Tag.keptAt (t : Tag) (now : Time) : Tag := { t with lastHeard := some now, absentAt := some (now + 10 * t.absence) }

/-- A tag that becomes OUT (R74 step 1). -/
def Tag.outAt (t : Tag) (now : Time) : Tag :=
  { t with
    state := .out, zone := none, cur := none, strength := 0, lastHeard := some now, curHeard := none, absentAt := none
    page := false }

/-- Heard at an exit gate (R74). TAG_MOVE carries the gate as its call point (log entry 56). -/
def State.heardAtGate (s : State) (r : Roster) (t : Tag) (p : Point) : State × Placement :=
  if t.state = .out then (s.modTag r fun t => { t with lastHeard := some s.now }, ⟨false, false⟩)
  else
    let s1 := (s.modTag r fun t => t.outAt s.now).reportTagMove r t .out none (some p.ref) .exitGate
    (if t.state = .placed ∨ t.state = .missing then s1.unplace r else s1, ⟨true, true⟩)

/-- A tag that is not IN is heard (R71). -/
def State.heardAnew (s : State) (r : Roster) (t : Tag) (p : Point) (strength : Nat) : State × Placement :=
  let s1 := s.modTag r fun t => t.at s.now p strength
  let s2 :=
    if t.state = .missing then s1.reportTagMissing r t true (some p.zone) (some p.ref)
    else s1.reportTagMove r t .placed (some p.zone) (some p.ref) .firstHeard
  (s2.place r p.zone, ⟨t.cur != some p.ref, false⟩)

/-- A tag IN may move to another zone (R73). -/
def Tag.moves (t : Tag) (now : Time) (strength : Nat) : Bool :=
  t.cur.isNone || (t.curHeard.all fun h => h + Config.curHeardLimit ≤ now) || t.strength + 2 ≤ strength

/-- A tag IN is heard (R72, R73). -/
def State.heardIn (s : State) (r : Roster) (t : Tag) (p : Point) (strength : Nat) : State × Placement :=
  if t.zone = some p.zone then
    (s.modTag r fun t => t.at s.now p strength, ⟨t.cur != some p.ref, false⟩)
  else if t.moves s.now strength then
    let s1 := (s.modTag r fun t => t.at s.now p strength).reportTagMove r t .placed (some p.zone) (some p.ref) .zoneChange
    (s1.place r p.zone, ⟨t.cur != some p.ref, false⟩)
  else (s.modTag r fun t => t.keptAt s.now, ⟨false, false⟩)

/-- The placement step of an entry (R70). -/
def State.placeHeard (s : State) (r : Roster) (t : Tag) (p : Point) (strength : Nat) : State × Placement :=
  if p.exitGate then s.heardAtGate r t p
  else if t.state = .placed then s.heardIn r t p strength
  else s.heardAnew r t p strength

/-! ## Buttons (R78, R79) -/

/-- A page acknowledged by an ANSWER (R78). PAGE_ACK carries the call point that heard it (log entry 56). -/
def State.acknowledge (s : State) (r : Roster) (point : DevRef) : State :=
  if (s.tags.get r).any fun t => t.page then (s.modTag r fun t => { t with page := false }).reportPageAck r point else s

/-- An EMERGENCY button event (R79). -/
def State.emergencyButton (s : State) (r : Roster) (point : DevRef) : State :=
  let again := (s.tags.get r).any fun t => t.emergency
  let s1 := (s.modTag r fun t => { t with emergency := true }).reportTagEmergency r point again
  let s2 := if (s1.tags.get r).any fun t => t.state == .placed then s1.csEmergencyKey r else s1
  s2.emergencyIn sendStart (s2.zoneOfTag r)

/-- The button event of an entry, after its placement and hand-off (R78, R79). -/
def State.takeButton (s : State) (r : Roster) (point : DevRef) (b : Button) : State :=
  let call := (s.tags.get r).bind fun t => t.call
  match b with
  | .none => s
  | .call dial => if (s.tags.get r).any fun t => t.state == .placed then s.csCallKey r dial else s
  | .emergency => s.emergencyButton r point
  | .answer =>
    match call with
    | none => s.acknowledge r point
    | some id => let (t, taken) := s.csAnswerKey r id; if taken then t else t.acknowledge r point
  | .hangup => call.elim s fun id => s.csEnd id .hangup

/-! ## Heard lists (R70, R77) -/

/-- The roster number at which a tag id is enrolled. -/
def State.rosterOf (s : State) (tagId : Nat) : Option Roster := firstOf 64 fun r => (s.tags.get r).any fun t => t.id == tagId

/-- An entry of an enrolled tag: placement, hand-off to the Call Switch, button event (R70). -/
def State.heardEntry (s : State) (r : Roster) (p : Point) (h : HeardEntry) : State :=
  match s.tags.get r with
  | none => s
  | some t =>
    let (s1, moved) := s.placeHeard r t p h.strength
    let s2 := ((s1.tags.get r).bind fun t => t.call).elim s1 fun id => s1.csHeard r id moved.changed moved.becameOut
    s2.takeButton r p.ref h.button

/-- One entry of a heard list, with the unenrolled ids so far. -/
def State.heardOne (p : Point) (acc : State × List Nat) (h : HeardEntry) : State × List Nat :=
  match acc.1.rosterOf h.tagId with
  | some r => (acc.1.heardEntry r p h, acc.2)
  | none => (acc.1, appendNew acc.2 h.tagId)

/-- The heard list of one reply (R70). -/
def State.heardList (s : State) (p : Point) (l : List HeardEntry) : State :=
  let (s1, unknown) := l.foldl (State.heardOne p) (s, [])
  if unknown.isEmpty then s1 else s1.reportUnknownTag p.ref unknown

/-! ## Absence, call points changed, removal (R69, R75, R76) -/

/-- The absence expiry of a tag (R75). TAG_MISSING carries the current call point, and none when R76 has cleared it (log
entry 56). -/
def State.absent (s : State) (r : Roster) : State :=
  match s.tags.get r with
  | none => s
  | some t =>
    (s.modTag r fun t => { t with state := .missing, absentAt := none }).reportTagMissing r t false t.zone t.cur

/-- A call point is cleared as the current call point of its tags (R76). -/
def State.ttPointCleared (s : State) (p : DevRef) : State :=
  { s with tags := s.tags.map fun x => x.map fun t =>
      if t.cur = some p then { t with cur := none, strength := 0, curHeard := none } else t }

/-- A roster number is freed (R69). TAG_MOVE carries call point none (log entry 56). -/
def State.removeTag (s : State) (r : Roster) (t : Tag) : State :=
  let s1 :=
    if t.state = .placed ∨ t.state = .missing then (s.reportTagMove r t .unplaced none none .removed).unplace r else s
  s1.setTag r none

/-! ## Pages (R80) -/

/-- The tags whose pages a call point's poll carries, by id, at most 16. -/
def State.pagesFor (s : State) (p : DevRef) : List Nat :=
  ((allOf 64).filterMap fun r => (s.tags.get r).bind fun t =>
    if t.page ∧ t.cur = some p then some t.id else none).take 16

end Sys2Proof.Machine
end

