-- ==== Sys2Proof/Machine/Reads.lean ====
section
/-! DEFINITION. The reads of a beacon at the Haulage Controller (07_haulage_vehicles_and_junctions.md, R121), and what a
SET_VEHICLE does to a vehicle (R119), both of which reach the Zone Table, the Air Reading Unit and the Telemetry Gatherer. -/

namespace Sys2Proof.Machine

/-- The CONFIGURED vehicle that carries a tag id. -/
def State.vehicleOf (s : State) (tagId : Nat) : Option VehNo :=
  firstOf 12 fun v => (s.vehicles.get v).configured && (s.vehicles.get v).tagId == tagId

/-- The state that a read gives an UNSEEN or LOST vehicle from what it holds (R116). -/
def State.stateFromHoldings (s : State) (v : VehNo) : VehicleState :=
  let x := s.vehicles.get v
  if !x.stop.isEmpty then .stopped
  else if x.claim.isSome then .claimed
  else if (s.waitOf v).isSome then .claimWait
  else .idle

/-- Step 1 of a position update: an UNSEEN or LOST vehicle takes a state, and a LOST one is FOUND (R121). -/
def State.wake (s : State) (v : VehNo) : State :=
  match (s.vehicles.get v).state with
  | .unseen => s.modVehicle v fun x => { x with state := s.stateFromHoldings v }
  | .lost => (s.modVehicle v fun x => { x with state := s.stateFromHoldings v }).reportVehicle v .lost .found none
  | _ => s

/-- Step 2: the time, the junction and the lost timer of a read (R121, R122). -/
def State.stampRead (s : State) (v : VehNo) (j : JuncNo) : State :=
  s.modVehicle v fun x => { x with
    lastRead := some s.now, lastJunction := some j, lostAt := some (s.now + Config.lostLimit) }

/-- Steps 3 and 4: a change of zone reaches the Zone Table, the Air Reading Unit and the Telemetry Gatherer, and the reasons
are brought into line, TRIP before EVACUATION (R121, R128, R143; log entry 59). The vehicle's zone and the burst's flag stand
before the summaries, starts and demands that follow, so that these find the vehicle in its new zone (log entry 51). -/
def State.moveVehicle (s : State) (v : VehNo) (z : ZoneNo) : State :=
  if (s.vehicles.get v).zone = some z then s
  else
    let s1 := (s.modVehicle v fun x => { x with zone := some z }).tgZoneChange v
    ((s1.vehicleEnters sendStart v z).matchTrip v).matchEvacuation v

/-- The position update of a read at a junction (R121). -/
def State.updatePosition (s : State) (v : VehNo) (j : JuncNo) : State :=
  let s1 := (s.wake v).stampRead v j
  (s1.junctions.get j).zone.elim s1 fun z => s1.moveVehicle v z

/-- A read with a tag id: the position of a known vehicle, then the read itself (R121). -/
def State.knownRead (s : State) (beacon : DevRef) (j : JuncNo) (tagId : Nat) (f : State → VehNo → State) : State :=
  match s.vehicleOf tagId with
  | none => s.reportRouteInvalid beacon tagId none .unknownVehicle
  | some v => f (s.updatePosition v j) v

/-- One read at the reading junction (R121). -/
def State.takeRead (s : State) (beacon : DevRef) (j : JuncNo) : Read → State
  | .approach tagId legs => s.knownRead beacon j tagId fun t v => t.approach v beacon legs
  | .clear tagId => s.knownRead beacon j tagId fun t v => t.clear v j
  | .walk => s.walkRead j

/-- The reads of one beacon reply, in the order listed; those of a beacon that no CONFIGURED junction names are discarded
(R121). -/
def State.beaconReads (s : State) (beacon : DevRef) (reads : List Read) : State :=
  (s.beaconJunction beacon).elim s fun j => s.forEach reads fun t r => t.takeRead beacon j r

/-! ## SET_VEHICLE (R119) -/

/-- The vehicle leaves its list, and its zone and last junction become none (R119); a burst is told before the summaries
follow (R143). The summary of the zone left follows here, before the reasons are removed (DESIGN CHOICE, log entry 67). -/
def State.leaveZone (s : State) (v : VehNo) : State :=
  let left := s.listZone v
  let s1 := (s.leaveList v).modVehicle v fun x => { x with zone := none, lastJunction := none }
  (if left.isSome then s1.tgZoneChange v else s1).followOnboard sendStart v left none

/-- Configuration, unconfiguration or a change of tag id (R119): the vehicle is UNSEEN, and its stop set keeps HOST alone, or
nothing on unconfiguration. A ZONE report of the zone left stands before the VEHICLE reports of the reasons removed (DESIGN
CHOICE, log entry 67). -/
def State.renewVehicle (s : State) (v : VehNo) (configured : Bool) : State :=
  let s1 := s.leaveZone v
  let s2 := (s1.removeReason v .trip).removeReason v .evacuation
  let s3 := if configured then s2 else s2.removeReason v .host
  s3.modVehicle v fun x => { x with state := .unseen, lostAt := none }

/-- The period timer after an accepted SET_VEHICLE (R138). -/
def periodAfter (now : Time) (old new : Vehicle) : Option Time :=
  if !new.configured then none
  else if !old.configured || old.period != new.period then some (now + 10 * new.period)
  else old.periodAt

/-- An accepted SET_VEHICLE; `new` holds the configuration written (R119, R138, R141). -/
def State.writeVehicle (s : State) (v : VehNo) (new : Vehicle) : State :=
  let old := s.vehicles.get v
  let renewed := old.configured != new.configured || old.tagId != new.tagId
  let s1 := s.modVehicle v fun x => { x with
    configured := new.configured, tagId := new.tagId, kind := new.kind, overstay := new.overstay, period := new.period
    firstQuarter := new.firstQuarter, periodAt := periodAfter s.now old new }
  let s2 := if renewed then s1.renewVehicle v new.configured else s1
  let s3 := if old.kind != new.kind then s2.matchTrip v else s2
  if !new.configured then s3.tgUnconfigured sendStart v
  else if renewed then s3.tgTagChanged sendStart v
  else s3

end Sys2Proof.Machine
end

