-- ==== Sys2Proof/Machine/Spur.lean ====
section
/-! DEFINITION. The Spur Controllers (11_spur_lines_and_field_devices.md): poll rounds and fetches, what a poll carries, the
interface checks, device states and their owners, standby, SET_DEVICE, the broadcast reset, and the DEVICE report (R172). -/

namespace Sys2Proof.Machine

/-- DEVICE (R172). -/
def State.reportDevice (s : State) (e : EntryNo) (prev : DeviceState) (cause : Option MissCause) : State :=
  let d := s.devices.get e
  s.report ⟨.safety, 0x9F, refField d.ref ++ named deviceKinds d.kind ++ named deviceStates prev
    ++ named deviceStates d.state ++ optNamed missCauses cause⟩

/-! ## What a poll carries (R170) -/

/-- The tag id of a party. -/
def State.partyTag (s : State) : Party → Option Nat
  | .tag r => (s.tags.get r).map fun t => t.id
  | _ => none

/-- The tag id of the call party that a voice channel carries, none when FREE (R82, R170). -/
def State.voiceTag (s : State) (e : EntryNo) (k : Fin 4) : Option Nat :=
  (((s.voice.get e).get k).bind s.callOf).bind fun c => s.partyTag (if c.chanA = some ⟨e, k⟩ then c.a else c.b)

/-- The callees that a call point rings (R91, R170), in the order of the call table. -/
def State.ringList (s : State) (e : EntryNo) : List Nat :=
  (s.calls.filter fun c => c.state == .ringing && c.chanB.any fun v => v.entry == e).filterMap fun c => s.partyTag c.b

/-- The commands of a poll, from the owners' state as the poll is built (R170). -/
def State.buildPoll (s : State) (e : EntryNo) : PollCommands :=
  let d := s.devices.get e
  match d.kind with
  | .gasHead => .gasHead
  | .callPoint =>
    .callPoint ((allOf 4).map (s.voiceTag e)) (s.ringList e) (s.pagesFor d.ref) (d.zone.bind s.messageFor)
  | .beacon => .beacon ((s.beaconJunction d.ref).elim (List.replicate 4 false) fun j => (s.junctions.get j).lamps)
  | .refugePanel => .panel ((s.panelStation d.ref).any s.strobeOn)

/-- What a device commands itself by at this moment: its latest poll, fallen back once 2.0 s have passed since it (R170). -/
def State.deviceShows (s : State) (e : EntryNo) : Option PollCommands :=
  (s.devices.get e).held.map fun (c, t) => if s.now < t + Config.fallbackLimit then c else c.fallenBack

/-! ## Rounds and fetches (R169) -/

/-- A device is polled in a round (R169). -/
def polledIn (counter : Nat) : DeviceState → Bool
  | .suspect => true
  | .online => true
  | .offline => counter == 0
  | .standby => false

/-- The next device of the round: the lowest address not yet passed whose device is polled. -/
def State.nextPoll (s : State) (p : SpurNo) : Option EntryNo :=
  (s.pollList p).find? fun e =>
    (s.spurs.get p).passed < number (s.devices.get e).ref.addr
      && polledIn (s.spurs.get p).counter (s.devices.get e).state

/-- A poll begins. -/
def State.beginPoll (s : State) (p : SpurNo) (e : EntryNo) : State :=
  s.modSpur p fun x => { x with
    passed := number (s.devices.get e).ref.addr, underWay := some (.poll e (s.buildPoll e)) }

/-- A round begins at the lowest address; one in which no device is to be polled is empty (R169). -/
def State.beginRound (s : State) (p : SpurNo) : State :=
  let s1 := s.modSpur p fun x => { x with passed := 0 }
  match s1.nextPoll p with
  | some e => s1.beginPoll p e
  | none => s1.modSpur p fun x => { x with passed := 31, underWay := none }

/-- The round counter after the end of a round. -/
def State.endRound (s : State) (p : SpurNo) : State := s.modSpur p fun x => { x with counter := (x.counter + 1) % 8 }

/-- The spur goes on with its round, or with the next one. -/
def State.pollOn (s : State) (p : SpurNo) : State :=
  match s.nextPoll p with
  | some e => s.beginPoll p e
  | none => if (s.spurs.get p).passed = 0 then s.beginRound p else (s.endRound p).beginRound p

/-- The fetches that leave the list without a transaction, and the first that has one (R169). A fetch whose beacon entry has
been removed is answered MISS; one whose beacon is OFFLINE or STANDBY receives no answer. -/
def State.takeFetch (s : State) (p : SpurNo) : Nat → State × Bool
  | 0 => (s, false)
  | n + 1 =>
    match (s.spurs.get p).fetches with
    | [] => (s, false)
    | f :: rest =>
      let s1 := s.modSpur p fun x => { x with fetches := rest }
      match s.deviceOfKind .beacon f.beacon with
      | none => (s1.tgAnswer sendStart f .miss).takeFetch p n
      | some e =>
        if (s.devices.get e).state = .offline ∨ (s.devices.get e).state = .standby then s1.takeFetch p n
        else (s1.modSpur p fun x => { x with underWay := some (.fetch e f) }, true)

/-- The next transaction of a spur whose line is free: the oldest fetch when it may go first, otherwise the round. -/
def State.spurNext (s : State) (p : SpurNo) (mayFetch : Bool) : State :=
  if (s.spurs.get p).standby then s
  else
    let (s1, taken) := if mayFetch then s.takeFetch p 64 else (s, false)
    if taken then s1 else s1.pollOn p

/-! ## The interface checks (R171) -/

def fitsEntry (h : HeardEntry) : Bool :=
  h.tagId < 16777216 && h.strength ≤ 15 && match h.button with | .call dial => dial ≤ 255 | _ => true

def fitsLeg (l : RawLeg) : Bool := l.junction ≤ 255 && l.entry ≤ 15 && l.exit ≤ 15

def fitsRead : Read → Bool
  | .approach tagId legs => tagId < 16777216 && 1 ≤ legs.length && legs.length ≤ 3 && legs.all fitsLeg
  | .clear tagId => tagId < 16777216
  | .walk => true

def fitsQuarter : Quarter → Bool
  | .q0 spur address speed _ => 1 ≤ spur && spur ≤ 8 && 1 ≤ address && address ≤ 31 && speed ≤ 250
  | .q1 raw _ => raw ≤ 4095
  | .q2 _ _ level => level ≤ 100
  | .q3 codes operator => codes.length ≤ 4 && codes.all (fun c => 1 ≤ c && c ≤ 255) && operator.all (· < 16777216)

/-- Contents fit the kind, for a poll (section 11.4). -/
def fitsPoll : DeviceKind → Contents → Bool
  | .gasHead, .gasHead _ a b c d => a ≤ 4095 && b ≤ 4095 && c ≤ 4095 && d ≤ 4095
  | .callPoint, .callPoint heard => heard.length ≤ 16 && heard.all fitsEntry
  | .beacon, .beacon reads => reads.length ≤ 4 && reads.all fitsRead
  | .refugePanel, .panel _ headcount _ => headcount ≤ 60
  | _, _ => false

/-- Contents fit a fetch of a quarter (section 11.4). -/
def fitsFetch (q : QuarterNo) : Contents → Bool
  | .quarter c => quarterNo c == q && fitsQuarter c
  | .notHeard => true
  | _ => false

/-- The device of a transaction. -/
def Transaction.entry : Transaction → EntryNo
  | .poll e _ => e
  | .fetch e _ => e

/-- Contents fit a transaction. -/
def State.fitsTransaction (s : State) (t : Transaction) (c : Contents) : Bool :=
  match t with
  | .poll e _ => fitsPoll (s.devices.get e).kind c
  | .fetch _ f => fitsFetch f.quarter c

/-- The first failure of a reply, in the order of R171. -/
def State.replyFault (s : State) (t : Transaction) (lineBusy : Bool) (r : DeviceReply) : Option MissCause :=
  let d := s.devices.get t.entry
  if lineBusy then some .lineBusy
  else if !r.checkGood then some .badCheck
  else if r.address ≠ number d.ref.addr then some .wrongAddress
  else if r.kind ≠ d.kind ∨ s.fitsTransaction t r.contents = false then some .wrongKind
  else none

/-! ## Device states and their owners (R172, R173) -/

/-- A change of state handed to the block that owns the kind (R173). -/
def State.handDevice (s : State) (e : EntryNo) : State :=
  let d := s.devices.get e
  match d.kind with
  | .gasHead => s.aruDevice sendStart d.ref d.state
  | .callPoint => s
  | .beacon => (s.hlcBeacon d.ref d.state).tgBeacon sendStart d.ref d.state
  | .refugePanel => s.rfmDevice d.ref d.state

/-- A device takes a state and miss count; entries into ONLINE and OFFLINE are reported, and a change is handed on. -/
def State.deviceTo (s : State) (e : EntryNo) (new : DeviceState) (misses : Nat) (cause : Option MissCause) : State :=
  let prev := (s.devices.get e).state
  let s1 := s.modDevice e fun d => { d with state := new, misses := misses }
  if prev = new then s1
  else
    let s2 := if new = .online ∨ new = .offline then s1.reportDevice e prev cause else s1
    s2.handDevice e

/-- A good reply at a device (R172). -/
def State.deviceGood (s : State) (e : EntryNo) : State := s.deviceTo e .online 0 none

/-- A miss charged to a device (R172). -/
def State.deviceMiss (s : State) (e : EntryNo) (cause : MissCause) : State :=
  let s1 := s.modDevice e fun d => { d with lastMiss := some cause }
  let d := s.devices.get e
  match d.state with
  | .suspect => if d.misses + 1 < 3 then s1.deviceTo e .suspect (d.misses + 1) none
                else s1.deviceTo e .offline 3 (some cause)
  | .online => s1.deviceTo e .suspect 1 none
  | .offline => s1.deviceTo e .offline 3 none
  | .standby => s1

/-! ## The end of a transaction -/

/-- The contents of a good reply go to their owner (R173). `before` is the station record before the event. -/
def State.handContents (s : State) (t : Transaction) (before : Option (StationNo × Station)) (c : Contents) : State :=
  match t, c with
  | .poll e _, .gasHead status a b c d => s.headReply sendStart (s.devices.get e).ref status [a, b, c, d]
  | .poll e _, .callPoint heard =>
    let d := s.devices.get e
    d.zone.elim s fun z => s.heardList ⟨d.ref, z, d.exitGate⟩ heard
  | .poll e _, .beacon reads => s.beaconReads (s.devices.get e).ref reads
  | .poll _ _, .panel doorOpen headcount pressed =>
    before.elim s fun (n, x) => s.panelReply sendStart n x doorOpen headcount pressed
  | .fetch _ f, .quarter q => s.tgAnswer sendStart f (.quarter q)
  | .fetch _ f, .notHeard => s.tgAnswer sendStart f .notHeard
  | _, _ => s

/-- A poll that was sent leaves its commands with the device (R170). -/
def State.pollSent (s : State) : Transaction → State
  | .poll e c => s.modDevice e fun d => { d with held := some (c, s.now) }
  | .fetch _ _ => s

/-- A transaction is a poll, after which a fetch may go first (R169). -/
def Transaction.isPoll : Transaction → Bool
  | .poll _ _ => true
  | .fetch _ _ => false

/-- A transaction ends in a miss (R171, R172). Where the miss takes a fetch's beacon OFFLINE, the change is taken before the
answer MISS, which then finds no fetch outstanding (R141 lets either be taken first; log entry 61). -/
def State.endMiss (s : State) (p : SpurNo) (t : Transaction) (cause : MissCause) : State :=
  let s1 := s.modSpur p fun x => { x with underWay := none }
  let s2 := if cause = .lineBusy then s1 else s1.pollSent t
  let s3 := s2.deviceMiss t.entry cause
  let s4 := match t with
    | .fetch _ f => s3.tgAnswer sendStart f .miss
    | .poll _ _ => s3
  s4.spurNext p t.isPoll

/-- A transaction ends in a good reply (R171 to R173). -/
def State.endGood (s : State) (p : SpurNo) (t : Transaction) (c : Contents) : State :=
  let before := (s.panelStation (s.devices.get t.entry).ref).map fun n => (n, s.stations.get n)
  let s1 := (s.modSpur p fun x => { x with underWay := none }).pollSent t
  ((s1.deviceGood t.entry).handContents t before c).spurNext p t.isPoll

/-- A transaction under way ends with no miss; a fetch is answered MISS (R169, R175, R176). -/
def State.dropTransaction (s : State) (p : SpurNo) : State :=
  match (s.spurs.get p).underWay with
  | none => s
  | some t =>
    let s1 := s.modSpur p fun x => { x with underWay := none }
    match t with
    | .fetch _ f => s1.tgAnswer sendStart f .miss
    | .poll _ _ => s1

/-- A reply reaches a spur (R171); one that arrives after its transaction has ended is discarded, whether the spur has begun
another since or not. -/
def State.spurReply (s : State) (p : SpurNo) (lineBusy : Bool) (r : DeviceReply) : State :=
  match (s.spurs.get p).underWay, r.late with
  | some t, false =>
    match s.replyFault t lineBusy r with
    | some cause => s.endMiss p t cause
    | none => s.endGood p t r.contents
  | _, _ => s

/-- The reply limit of a transaction runs out (R171). -/
def State.spurNoReply (s : State) (p : SpurNo) (lineBusy : Bool) : State :=
  match (s.spurs.get p).underWay with
  | none => s
  | some t => s.endMiss p t (if lineBusy then .lineBusy else .noReply)

/-- A round in which no device is to be polled has lasted 15 ms (R169). -/
def State.emptyRoundEnds (s : State) (p : SpurNo) : State :=
  let x := s.spurs.get p
  if x.standby = false ∧ x.underWay = none then
    ((s.endRound p).modSpur p fun x => { x with passed := 0 }).spurNext p true
  else s

/-! ## Standby (R174) -/

/-- Every CONFIGURED device of a spur takes a state with miss count 0, in ascending address order, each change handed on. -/
def State.devicesTo (s : State) (p : SpurNo) (new : DeviceState) : State :=
  s.forEach (s.pollList p) fun t e => t.deviceTo e new 0 none

/-- A spur enters standby. The transaction under way ends with no answer, and the fetch list is emptied (R174). -/
def State.enterStandby (s : State) (p : SpurNo) : State :=
  (s.modSpur p fun x => { x with standby := true, underWay := none, fetches := [] }).devicesTo p .standby

/-- A spur leaves standby (R174). -/
def State.leaveStandby (s : State) (p : SpurNo) : State :=
  let s1 := (s.modSpur p fun x => { x with standby := false }).devicesTo p .suspect
  (s1.modSpur p fun x => { x with counter := 0 }).beginRound p

/-! ## The broadcast reset (R176) -/

/-- The devices of a spur take the broadcast reset as a fallback moment (R170). -/
def State.fallBack (s : State) (p : SpurNo) : State :=
  s.forEach (s.pollList p) fun t e => t.modDevice e fun d => { d with held := d.fallenBack }

/-- The broadcast reset of a spur at ENTER_LOADING. A poll under way is not noted as its device's latest poll, so a call point keeps
the voice channels of the poll before it (DESIGN CHOICE on R170, log entry 23). -/
def State.broadcast (s : State) (p : SpurNo) : State :=
  if (s.spurs.get p).standby then s
  else
    let t := (s.spurs.get p).underWay
    let s1 := s.dropTransaction p
    let s2 := s1.modSpur p fun x => { x with counter := 0, broadcasts := x.broadcasts + 1 }
    let s3 := (s2.fallBack p).devicesTo p .suspect
    t.elim s3 fun t => s3.spurNext p t.isPoll

/-- ENTER_LOADING at the spurs. -/
def State.spursLoading (s : State) : State := s.forEach (allOf 8) State.broadcast

/-! ## SET_DEVICE (R175) -/

/-- Two entries name the same kind, spur and address. -/
def samePlace (a b : Device) : Bool := a.kind == b.kind && a.ref == b.ref

/-- A call point that stood in an entry is removed, or changes its place, zone or exit-gate flag (R76, R98, R175). -/
def State.pointChanged (s : State) (e : EntryNo) (old new : Device) : State :=
  if old.configured && old.kind == .callPoint then
    if !new.configured || !samePlace old new then (s.csPointRemoved e).ttPointCleared old.ref
    else if old.zone != new.zone || old.exitGate != new.exitGate then s.ttPointCleared old.ref
    else s
  else s

/-- The record that an accepted SET_DEVICE leaves in an entry. What a device holds is followed from the first poll of its entry
(log entry 73). -/
def State.deviceWritten (s : State) (old new : Device) : Device :=
  if !new.configured then {}
  else if old.configured && samePlace old new then { old with zone := new.zone, exitGate := new.exitGate }
  else { new with
    state := if (s.spurs.get new.ref.spur).standby then .standby else .suspect, misses := 0, lastMiss := none, held := none }

/-- A transaction of a spur is with an entry. -/
def State.busyWith (s : State) (p : SpurNo) (e : EntryNo) : Bool :=
  (s.spurs.get p).underWay.any fun t => t.entry == e

/-- An accepted SET_DEVICE; `new` holds the configuration written (R175). A transaction under way with an entry that changes its
kind, spur or address ends as that with a removed entry does: no miss, and a fetch answered MISS (DESIGN CHOICE, log entry
72). -/
def State.writeDevice (s : State) (e : EntryNo) (new : Device) : State :=
  let old := s.devices.get e
  let p := old.ref.spur
  let moved := old.configured && (!new.configured || !samePlace old new)
  let s1 := s.pointChanged e old new
  let s2 := s1.modDevice e fun _ => s1.deviceWritten old new
  let s3 := if new.configured && !(old.configured && samePlace old new) then
      { s2 with voice := s2.voice.set e (Vector.replicate 4 none) } else s2
  if moved && s3.busyWith p e then
    let t := (s3.spurs.get p).underWay
    (s3.dropTransaction p).spurNext p (t.any Transaction.isPoll)
  else s3

end Sys2Proof.Machine
end

