-- ==== Sys2Proof/Machine/Answers.lean ====
section
/-! DEFINITION. The requests of the Zone Table, the Air Reading Unit, the Trip Control Unit, the Tag Tracker, the Call Switch
and the Trunk Controller: their checks in the order of their rules, their effects, and the fields of their replies. -/

namespace Sys2Proof.Machine

/-- The status codes (R182). -/
inductive Status
  | ok | badFrame | unknownRequest | badValue | badKey | notFound | busy | full | wrongMode | condition | noTrunk
  deriving DecidableEq, Repr

/-- The byte of a status: its code in R182. -/
def statusByte : Status → Byte
  | .ok => 0x00
  | .badFrame => 0x01
  | .unknownRequest => 0x02
  | .badValue => 0x03
  | .badKey => 0x04
  | .notFound => 0x05
  | .busy => 0x06
  | .full => 0x07
  | .wrongMode => 0x08
  | .condition => 0x09
  | .noTrunk => 0x0A

/-- What the owner of a request answers: the state after it, the status, and the reply's fields. -/
structure Answer where
  state : State
  status : Status
  fields : Bytes := []

/-- A request refused: nothing changes. -/
def State.refuse (s : State) (r : Status) : Answer := ⟨s, r, []⟩

/-- A request accepted without fields. -/
def State.accept (s : State) : Answer := ⟨s, .ok, []⟩

/-- A read: nothing changes. -/
def State.reply (s : State) (fields : Bytes) : Answer := ⟨s, .ok, fields⟩

/-- Every value of an optional program binding is DEFINED or none (R3, R147). -/
def State.bindingsDefined (s : State) (l : List (Option ProgNo)) : Bool :=
  l.all fun p => p.all fun p => (s.programs.get p).defined

/-! ## Zones (R3 to R5, R11, R13, R17) -/

/-- The record that a SET_ZONE writes, when its values are in range (R3 check 1). -/
def zoneWritten? (f : ZoneFields) : Option (ZoneNo × Zone) := do
  let z ← index? 16 f.zone
  let configured ← configuredStates[f.state]?
  let key ← key? f.key
  let trip ← optIndex? 6 f.trip
  let onAlarm ← optIndex? 32 f.onAlarm
  let onFault ← optIndex? 32 f.onFault
  let onTrip ← optIndex? 32 f.onTrip
  let onEmergency ← optIndex? 32 f.onEmergency
  return (z, { configured := configured, key := key, trip := trip, onAlarm := onAlarm, onFault := onFault
               onTrip := onTrip, onEmergency := onEmergency })

/-- An output, or none, in OPEN or HELD; none counts as meeting it (R4). -/
def State.openOrHeld (s : State) (o : Option OutNo) : Bool :=
  o.all fun o => (s.trips.get o).state == .opened || (s.trips.get o).state == .held

/-- R5 bars a zone from being unconfigured. -/
def State.zoneBusy (s : State) (z : ZoneNo) : Bool :=
  s.inUse z || s.evacuating z
    || (allOf 4).any (fun r => (s.runners.get r).running && (s.runners.get r).zone == some z)
    || s.startQueue.any (fun q => q.req.zone == z) || !s.openOrHeld (s.zones.get z).trip

/-- The output that a zone counts as bound to before a SET_ZONE: none for one that is being configured (R4). -/
def boundBefore (old new : Zone) : Option OutNo := if !old.configured && new.configured then none else old.trip

/-- An accepted SET_ZONE (R3 to R5, R8). -/
def State.writeZone (s : State) (z : ZoneNo) (new : Zone) : State :=
  let old := s.zones.get z
  if old.configured && new.configured then
    (s.modZone z fun x => { x with
      key := new.key, trip := new.trip, onAlarm := new.onAlarm, onFault := new.onFault, onTrip := new.onTrip
      onEmergency := new.onEmergency }).updateView z
  else if new.configured then (s.modZone z fun _ => new).updateView z
  else s.modZone z fun _ => new

def State.doSetZone (s : State) (f : ZoneFields) : Answer :=
  match zoneWritten? f with
  | none => s.refuse .badValue
  | some (z, new) =>
    let old := s.zones.get z
    if s.slp.mode = .run ∧ s.bindingsDefined [new.onAlarm, new.onFault, new.onTrip, new.onEmergency] = false then
      s.refuse .badValue
    else if old.configured = true ∧ new.configured = false ∧ s.zoneBusy z = true then s.refuse .busy
    else if boundBefore old new ≠ new.trip ∧ (s.openOrHeld (boundBefore old new) && s.openOrHeld new.trip) = false then
      s.refuse .wrongMode
    else (s.writeZone z new).accept

def State.doOrderEvacuation (s : State) (zone : Nat) : Answer :=
  match index? 16 zone with
  | none => s.refuse .badValue
  | some z => if (s.zones.get z).configured then (s.orderEvac z .hostOrder).accept else s.refuse .notFound

/-- A key that does not open a zone: the zone's key is not 0 and differs (R13, R57, R150). -/
def State.keyFails (s : State) (k : Key) (z : ZoneNo) : Bool := (s.zones.get z).key != 0 && (s.zones.get z).key != k

def State.doLiftEvacuation (s : State) (zone key : Nat) : Answer :=
  match index? 16 zone, key? key with
  | some z, some k =>
    if (s.zones.get z).configured = false then s.refuse .notFound
    else if (s.zones.get z).evac = .none then s.refuse .wrongMode
    else if s.keyFails k z then s.refuse .badKey
    else (s.setEvac z .none .hostLift).accept
  | _, _ => s.refuse .badValue

/-- The fields of READ_ZONE (R17). -/
def State.zoneFields (s : State) (z : ZoneNo) : Bytes :=
  let x := s.zones.get z
  named configuredStates x.configured ++ byteField x.key.1 ++ optNum x.trip ++ optNum x.onAlarm ++ optNum x.onFault
    ++ optNum x.onTrip ++ optNum x.onEmergency ++ named summaries x.summary ++ named powerViews x.view
    ++ named evacStates x.evac ++ byteField (s.missingCount z) ++ listField num x.occupancy ++ listField num x.vehicles

def State.doReadZone (s : State) (zone : Nat) : Answer :=
  match index? 16 zone with
  | none => s.refuse .badValue
  | some z => s.reply (s.zoneFields z)

/-! ## Channels (R23 to R26, R44) -/

/-- A channel source in range (R23 check 1). -/
def source? : RawSource → Option Source
  | .head spur address input => do
    let r ← devRef? spur address
    let i ← index? 4 input
    return .head r i
  | .vehicle v => (index? 12 v).map .vehicle
  | .other _ => none

/-- The channel that a SET_CHANNEL names and the record it writes, when check 1 of R23 passes. A vehicle source leaves the
zone to its vehicle. -/
def channelWritten? (f : ChannelFields) : Option (ChanNo × Channel) := do
  let c ← index? 32 f.channel
  let configured ← configuredStates[f.state]?
  let gas ← gasTypes[f.gas]?
  let qual ← qualifications[f.qualification]?
  let source ← source? f.source
  let zone ← match source with
    | .head .. => (index? 16 f.zone).map some
    | .vehicle _ => some none
  return (c, { configured := configured, gas := gas, source := some source, zone := zone, zero := f.zero, span := f.span
               alert := f.alert, alarm := f.alarm, hysteresis := f.hysteresis, filter := f.filter
               rateInterval := f.rateInterval, rise := f.rise, stale := f.stale, qualification := qual })

/-- A channel measures from a vehicle. -/
def Channel.onVehicle (c : Channel) : Bool := match c.source with | some (.vehicle _) => true | _ => false

/-- Check 4 of R23 passes. -/
def Channel.inRange (c : Channel) : Bool :=
  c.zero ≤ 1023 && 1 ≤ c.span && c.span ≤ 2000 && c.alert ≤ rangeMax c.gas && c.alarm ≤ rangeMax c.gas
    && c.hysteresis ≤ rangeMax c.gas && c.filter ∈ [1, 2, 4, 8] && 2 ≤ c.rateInterval && c.rateInterval ≤ 60
    && c.rise ≤ rangeMax c.gas && 1 ≤ c.stale && c.stale ≤ if c.onVehicle then 120 else 60

/-- Checks 5 and 6 of R23 pass. -/
def Channel.levelsFit (c : Channel) : Bool :=
  if isRising c.gas then 1 ≤ c.alert && c.alert ≤ c.alarm && c.hysteresis < c.alert
  else c.alarm ≤ c.alert && c.alert + c.hysteresis ≤ rangeMax c.gas

/-- Check 7 of R23 passes. -/
def Channel.typeFits (c : Channel) : Bool := (isRising c.gas || c.rise == 0) && (!c.onVehicle || c.gas == .ch4)

/-- Check 8 of R23: the source exists. -/
def State.sourceExists (s : State) (c : Channel) : Bool :=
  match c.source with
  | some (.head r _) => (s.deviceOfKind .gasHead r).isSome
  | some (.vehicle v) => (s.vehicles.get v).configured
  | none => false

/-- Check 9 of R23: another CONFIGURED channel names the source. -/
def State.sourceTaken (s : State) (c : ChanNo) (x : Channel) : Bool :=
  (allOf 32).any fun d => d != c && (s.channels.get d).configured && (s.channels.get d).source == x.source

def State.doSetChannel (s : State) (f : ChannelFields) : Answer :=
  match channelWritten? f with
  | none => s.refuse .badValue
  | some (c, x) =>
    if (s.channels.get c).service = .inService then s.refuse .wrongMode
    else if x.configured = false then (s.writeChannel sendStart c {}).accept
    else if (x.inRange && x.levelsFit && x.typeFits) = false then s.refuse .badValue
    else if s.sourceExists x = false then s.refuse .notFound
    else if s.sourceTaken c x then s.refuse .badValue
    else if x.zone.any fun z => !(s.zones.get z).configured then s.refuse .notFound
    else (s.writeChannel sendStart c x).accept

/-- SET_SERVICE with a service value (R25, R26). -/
def State.doSetService (s : State) (channel service : Nat) : Answer :=
  match index? 32 channel, services[service]? with
  | some c, some v =>
    let x := s.channels.get c
    if x.configured = false then s.refuse .notFound
    else if x.service = v then s.accept
    else match v with
      | .outOfService => (s.takeOut sendStart c).accept
      | .inService => (s.takeIn c).accept
  | _, _ => s.refuse .badValue

/-- A channel source of a reply. -/
def replySource : Option Source → Bytes
  | none => Config.absentSource
  | some (.head r i) => byteField 0 ++ refField r ++ num i
  | some (.vehicle v) => byteField 1 ++ num v

/-- The age of a moment in whole seconds, or none (R44, R81, R134). -/
def State.ageField (s : State) (t : Option Time) : Bytes := presenceField wordField (t.map s.ageSeconds)

/-- The fields of READ_CHANNEL (R44). -/
def State.channelFields (s : State) (c : ChanNo) : Bytes :=
  let x := s.channels.get c
  named configuredStates x.configured ++ named gasTypes x.gas ++ replySource x.source ++ optNum x.zone
    ++ wordField x.zero ++ wordField x.span ++ wordField x.alert ++ wordField x.alarm ++ wordField x.hysteresis
    ++ byteField x.filter ++ byteField x.rateInterval ++ wordField x.rise ++ byteField x.stale
    ++ named qualifications x.qualification ++ named services x.service ++ optNum (s.channelZone c)
    ++ named levels x.level ++ optNamed faultCauses x.cause ++ wordField x.f ++ wordField x.mark ++ byteField x.count
    ++ named setClear x.riseSet ++ named setClear x.saturated ++ listField wordField x.window ++ s.ageField x.lastValid

def State.doReadChannel (s : State) (channel : Nat) : Answer :=
  match index? 32 channel with
  | none => s.refuse .badValue
  | some c => s.reply (s.channelFields c)

/-! ## Trip and signal outputs (R53, R57, R60 to R62, R66) -/

/-- The output that a SET_TRIP names and the configuration it writes, when its values are in range (R60 check 1). -/
def tripWritten? (f : TripFields) : Option (OutNo × Trip) := do
  let o ← index? 6 f.output
  let mode ← tripModes[f.mode]?
  let backup ← optIndex? 6 f.backup
  let warning ← optIndex? 8 f.warning
  let edge ← manualEdges[f.edge]?
  let sense ← senses[f.sense]?
  if f.wait ≤ 300 ∧ 5 ≤ f.confirm ∧ f.confirm ≤ 100 then
    some (o, { mode := mode, wait := f.wait, confirm := f.confirm, backup := backup, warning := warning, edge := edge
               sense := sense })
  else none

/-- The configuration fields as an accepted SET_TRIP leaves them; in WAITING the W goes to the pending value alone (R61). -/
def Trip.written (t new : Trip) : Trip :=
  { t with
    mode := new.mode, waitPending := new.wait, wait := if t.state = .waiting then t.wait else new.wait
    confirm := new.confirm, backup := new.backup, warning := new.warning, edge := new.edge, sense := new.sense }

/-- Another trip output names a warning output (R60 check 3). -/
def State.warningTaken (s : State) (o : OutNo) (w : Option SigNo) : Bool :=
  w.isSome && (allOf 6).any fun p => p != o && (s.trips.get p).warning == w

def State.doSetTrip (s : State) (f : TripFields) : Answer :=
  match tripWritten? f with
  | none => s.refuse .badValue
  | some (o, new) =>
    let t := s.trips.get o
    if new.backup = some o then s.refuse .badValue
    else if s.warningTaken o new.warning then s.refuse .badValue
    else if t.state = .waiting ∧ (t.mode ≠ new.mode ∨ t.warning ≠ new.warning) then s.refuse .wrongMode
    else if t.state ≠ .held ∧ t.state ≠ .opened ∧ (t.edge ≠ new.edge ∨ t.sense ≠ new.sense) then s.refuse .wrongMode
    else (s.rereadFeedback o fun x => x.written new).settle.accept

def State.doTrip (s : State) (output : Nat) : Answer :=
  match index? 6 output with
  | none => s.refuse .badValue
  | some o => if (s.trips.get o).state = .held then s.refuse .wrongMode else (s.tripNow o .host).settle.accept

def State.doRestore (s : State) (output key : Nat) : Answer :=
  match index? 6 output, key? key with
  | some o, some k =>
    if (s.trips.get o).state ≠ .opened ∧ (s.trips.get o).state ≠ .unconfirmed then s.refuse .wrongMode
    else if (s.boundZones o).any (s.keyFails k) then s.refuse .badKey
    else if s.restoreBarred o then s.refuse .condition
    else (s.restoreTrip o).accept
  | _, _ => s.refuse .badValue

/-- The time left to a timer in tenths of a second, 0 while it is stopped (R47, R62). -/
def State.leftOr0 (s : State) (t : Option Time) : Nat := t.elim 0 s.left

/-- The fields of READ_TRIP (R62). The reply names no output: the configuration fields begin after SET_TRIP's output number
(log entry 54). -/
def State.tripFields (s : State) (o : OutNo) : Bytes :=
  let t := s.trips.get o
  named tripModes t.mode ++ wordField t.wait ++ byteField t.confirm ++ optNum t.backup ++ optNum t.warning
    ++ named manualEdges t.edge ++ named senses t.sense ++ wordField t.waitPending
    ++ named tripStates t.state ++ optNamed tripCauses t.lastCause ++ wordField (s.leftOr0 t.waitAt)
    ++ byteField (s.leftOr0 t.confirmAt) ++ [Config.whether (t.state == .closed && t.confirmAt.isSome)]
    ++ originField t.origin ++ feedbackField t ++ named [true, false] t.manualActive
    ++ listField num (s.boundZones o)

def State.doReadTrip (s : State) (output : Nat) : Answer :=
  match index? 6 output with
  | none => s.refuse .badValue
  | some o => s.reply (s.tripFields o)

/-- An entry of a driver set: a runner with its pattern and urgency, or the trip warning with its output (R66). -/
def driverField : Driver → Bytes
  | .runner r p u => byteField 0 ++ num r ++ named patterns p ++ byteField u
  | .warning o => byteField 1 ++ num o

/-- The fields of READ_SIGNAL (R66). -/
def State.signalFields (s : State) (g : SigNo) : Bytes :=
  let x := s.signals.get g
  named [true, false] (!x.drivers.isEmpty) ++ optNamed patterns x.shown ++ faultField x.fault ++ optNum (s.warningOf g)
    ++ listField driverField x.drivers

def State.doReadSignal (s : State) (output : Nat) : Answer :=
  match index? 8 output with
  | none => s.refuse .badValue
  | some g => s.reply (s.signalFields g)

/-! ## Tags (R68, R69, R79 to R81) -/

/-- The tag id is enrolled at another roster number than the one given (R68 check 2). -/
def State.idTaken (s : State) (roster : Option Roster) (tagId : Nat) : Bool :=
  (allOf 64).any fun r => some r != roster && (s.tags.get r).any fun t => t.id == tagId

/-- A roster number takes a tag id and an absence limit (R68). -/
def State.enroll (s : State) (r : Roster) (tagId absence : Nat) : Answer :=
  match s.tags.get r with
  | none => (s.setTag r (some { id := tagId, absence := absence })).reply (num r)
  | some t =>
    if t.id = tagId then (s.setTag r (some { t with absence := absence })).reply (num r) else s.refuse .busy

def State.doEnrollTag (s : State) (roster tagId absence : Nat) : Answer :=
  match optIndex? 64 roster with
  | none => s.refuse .badValue
  | some given =>
    if 16777216 ≤ tagId ∨ absence < 30 ∨ 600 < absence then s.refuse .badValue
    else if s.idTaken given tagId then s.refuse .badValue
    else match given.or (firstOf 64 fun r => (s.tags.get r).isNone) with
      | none => s.refuse .full
      | some r => s.enroll r tagId absence

/-- A request about an enrolled tag: BAD_VALUE outside 1 to 64, NOT_FOUND for a free roster number. -/
def State.withTag (s : State) (roster : Nat) (f : Roster → Tag → Answer) : Answer :=
  match index? 64 roster with
  | none => s.refuse .badValue
  | some r => (s.tags.get r).elim (s.refuse .notFound) (f r)

def State.doRemoveTag (s : State) (roster : Nat) : Answer :=
  s.withTag roster fun r t => if t.call.isSome then s.refuse .busy else (s.removeTag r t).accept

/-- PAGE_TAG with SEND (0) or CANCEL (1) (R80). -/
def State.doPageTag (s : State) (roster action : Nat) : Answer :=
  match index? 64 roster, [true, false][action]? with
  | some r, some send =>
    match s.tags.get r with
    | none => s.refuse .notFound
    | some t =>
      if send = true ∧ (t.state = .unplaced ∨ t.state = .out) then s.refuse .condition
      else (s.modTag r fun t => { t with page := send }).accept
  | _, _ => s.refuse .badValue

def State.doAckTag (s : State) (roster : Nat) : Answer :=
  s.withTag roster fun r _ => (s.modTag r fun t => { t with emergency := false }).accept

/-- The fields of READ_TAG for an enrolled tag (R81). -/
def State.tagFields (s : State) (t : Tag) : Bytes :=
  tagIdField t.id ++ wordField t.absence ++ named tagStates t.state ++ optNum t.zone ++ optRef t.cur
    ++ byteField t.strength ++ s.ageField t.lastHeard ++ s.ageField t.curHeard
    ++ presenceField wordField (t.absentAt.map fun a => s.left a / 10) ++ byteField (t.call.getD 0)
    ++ named setClear t.page ++ named setClear t.emergency

/-- READ_TAG: a free roster number is answered with the state FREE alone (R81), the value after the four of section 4.1. -/
def State.doReadTag (s : State) (roster : Nat) : Answer :=
  match index? 64 roster with
  | none => s.refuse .badValue
  | some r => s.reply ((s.tags.get r).elim (byteField 4) s.tagFields)

/-! ## Calls (R93, R99, R100) -/

/-- The state that PLACE_CALL answers for its call (R99). -/
def State.placedState (s : State) (id : Nat) : CallShown := (s.callOf id).elim .ended fun c => .live c.state

/-- PLACE_CALL (R99). The reply tells how the call stands when the event is over; the cause of a call that has ended by then is
the one its end noted (log entry 63). -/
def State.doPlaceCall (s : State) (roster : Nat) : Answer :=
  s.withTag roster fun r _ =>
    if s.trunk.state ≠ .up then s.refuse .noTrunk
    else if s.callsFull then s.refuse .full
    else
      let id := s.newCallId
      let t := ({ s with answering := some (id, none) } : State).makeCall .priority .surface (.tag r) (some .priority)
      ({ t with answering := none } : State).reply (byteField id ++ named callShownStates (t.placedState id)
        ++ optNamed callCauses (t.answering.bind Prod.snd))

def State.doEndCall (s : State) (id : Nat) : Answer :=
  if id = 0 ∨ 255 < id then s.refuse .badValue
  else if (s.callOf id).isSome then (s.csEnd id .hostEnd).accept
  else s.refuse .notFound

/-- The time left to a moment in tenths of a second, or none. -/
def State.leftField (s : State) (t : Option Time) : Bytes := presenceField wordField (t.map s.left)

/-- The time left to a party-lost deadline in tenths of a second, at most 150 (R94), or none. -/
def State.lostField (s : State) (t : Option Time) : Bytes := presenceField byteField (t.map s.left)

/-- The fields of a call record in the order of section 5.2 (R100): a party-lost deadline for each party, none for SURFACE (log
entry 57). -/
def State.callFields (s : State) (c : Call) : Bytes :=
  byteField c.id ++ Config.ordinalField c.creation ++ named callKinds c.kind ++ partyField c.a ++ partyField c.b
    ++ named callStates c.state ++ s.optVoice c.chanA ++ s.optVoice c.chanB
    ++ optNamed callClasses c.cls ++ optSlot c.slot ++ named setClear c.waiting ++ s.leftField c.deadline
    ++ s.lostField c.lostA ++ s.lostField c.lostB

def State.doReadCall (s : State) (id : Nat) : Answer :=
  if 255 < id then s.refuse .badValue
  else if id = 0 then
    s.reply (listField (fun c => byteField c.id ++ named callKinds c.kind ++ named callStates c.state) s.calls)
  else match s.callOf id with
    | none => s.refuse .notFound
    | some c => s.reply (s.callFields c)

/-! ## Trunk (R104, R112) -/

/-- The slots of a SET_TRUNK, when they pass check 1 of R104. -/
def trunkSlots? (l : List Nat) : Option (List SlotNo) := do
  let slots ← l.mapM slot?
  if slots.Nodup ∧ 1 ≤ slots.length ∧ slots.length ≤ 24 then some slots else none

def State.doSetTrunk (s : State) (l : List Nat) : Answer :=
  match trunkSlots? l with
  | none => s.refuse .badValue
  | some slots =>
    if s.trunk.held.any fun x => x.slot ∈ s.trunk.allotment ∧ x.slot ∉ slots then s.refuse .busy
    else (s.setAllotment slots).accept

/-- A holder: CALL, BURST or RUNNER, and the holder (R112). -/
def slotHolderField : Holder → Bytes
  | .call id => byteField 0 ++ byteField id
  | .burst v => byteField 1 ++ num v
  | .runner r => byteField 2 ++ num r

/-- The fields of READ_TRUNK (R112). -/
def State.trunkFields (s : State) : Bytes :=
  let t := s.trunk
  named trunkStates t.state ++ byteField t.marks ++ byteField t.misses
    ++ listField (fun k => byteField (slotNumber k)) t.allotment
    ++ listField (fun x => byteField (slotNumber x.slot) ++ slotHolderField x.holder ++ named trunkClasses x.cls) t.held
    ++ listField (fun w => slotHolderField w.holder ++ named trunkClasses w.cls) t.queue

def State.doReadTrunk (s : State) : Answer := s.reply s.trunkFields

end Sys2Proof.Machine
end

