-- ==== Sys2Proof/Machine/AnswersField.lean ====
section
/-! DEFINITION. The requests of the Haulage Controller, the Telemetry Gatherer, the Refuge Monitor and the Spur Controllers:
their checks in the order of their rules, their effects, and the fields of their replies. -/

namespace Sys2Proof.Machine

/-! ## Vehicles (R119, R128, R134) -/

/-- The vehicle that a SET_VEHICLE names and the configuration it writes, when its values are in range (R119 check 1). -/
def vehicleWritten? (f : VehicleFields) : Option (VehNo × Vehicle) := do
  let v ← index? 12 f.vehicle
  let configured ← configuredStates[f.state]?
  let kind ← vehicleKinds[f.kind]?
  let first ← if h : f.firstQuarter < 4 then some (⟨f.firstQuarter, h⟩ : QuarterNo) else none
  if f.tagId < 16777216 ∧ 30 ≤ f.overstay ∧ f.overstay ≤ 600 ∧ 2 ≤ f.period ∧ f.period ≤ 30 then
    some (v, { configured := configured, tagId := f.tagId, kind := kind, overstay := f.overstay, period := f.period
               firstQuarter := first })
  else none

/-- The tag id belongs to another CONFIGURED vehicle (R119 check 2). -/
def State.vehicleIdTaken (s : State) (v : VehNo) (tagId : Nat) : Bool :=
  (allOf 12).any fun w => w != v && (s.vehicles.get w).configured && (s.vehicles.get w).tagId == tagId

def State.doSetVehicle (s : State) (f : VehicleFields) : Answer :=
  match vehicleWritten? f with
  | none => s.refuse .badValue
  | some (v, new) =>
    let old := s.vehicles.get v
    if new.configured = true ∧ s.vehicleIdTaken v new.tagId = true then s.refuse .badValue
    else if new.configured = false ∧ (s.onboardChannel v).isSome = true then s.refuse .busy
    else if (!new.configured || old.tagId != new.tagId) && (old.claim.isSome || (s.waitOf v).isSome) then s.refuse .busy
    else (s.writeVehicle v new).accept

/-- A request about a CONFIGURED vehicle: BAD_VALUE outside 1 to 12, NOT_FOUND for an UNCONFIGURED one (R128). -/
def State.withVehicle (s : State) (vehicle : Nat) (f : VehNo → Answer) : Answer :=
  match index? 12 vehicle with
  | none => s.refuse .badValue
  | some v => if (s.vehicles.get v).configured then f v else s.refuse .notFound

def State.doStopVehicle (s : State) (vehicle : Nat) : Answer := s.withVehicle vehicle fun v => (s.addReason v .host).accept

def State.doReleaseVehicle (s : State) (vehicle : Nat) : Answer :=
  s.withVehicle vehicle fun v => (s.removeReason v .host).accept

/-- A leg of a claim with CLEARED or HELD (R134). -/
def claimLegField (l : Leg) : Bytes := legField l ++ named [true, false] l.cleared

/-- A claim: its legs, and while there is one its age and whether its overstay was reported (R134; log entry 14). -/
def State.claimField (s : State) : Option Claim → Bytes
  | none => byteField 0
  | some c => listField claimLegField c.legs ++ wordField (s.ageSeconds c.granted) ++ [Config.whether c.reported]

/-- The age of a wait entry: one byte, since R124 ends an entry at 60 s (R134 and R178 state no range; log entry 65). -/
def State.waitAge (s : State) (w : WaitEntry) : Bytes := byteField (min 255 (s.ageSeconds w.joined))

/-- The fields of READ_VEHICLE (R134; the age of a wait entry by log entry 65). -/
def State.vehicleFields (s : State) (v : VehNo) : Bytes :=
  let x := s.vehicles.get v
  named configuredStates x.configured ++ tagIdField x.tagId ++ named vehicleKinds x.kind ++ wordField x.overstay
    ++ byteField x.period ++ byteField x.firstQuarter.1 ++ optNum (s.onboardChannel v) ++ named vehicleStates x.state
    ++ optNum x.zone ++ optNum x.lastJunction ++ stopSetField x.stop ++ s.claimField x.claim
    ++ (s.waitOf v).elim (byteField 0) (fun w => listField legField w.legs ++ s.waitAge w)
    ++ s.ageField x.lastRead

def State.doReadVehicle (s : State) (vehicle : Nat) : Answer :=
  match index? 12 vehicle with
  | none => s.refuse .badValue
  | some v => s.reply (s.vehicleFields v)

/-! ## Junctions (R120, R134) -/

/-- The junction that a SET_JUNCTION names and the record it writes, when its values are in range (R120 check 1). -/
def junctionWritten? (f : JunctionFields) : Option (JuncNo × Junction) := do
  let j ← index? 24 f.junction
  let configured ← configuredStates[f.state]?
  let zone ← index? 16 f.zone
  let beacon ← devRef? f.spur f.address
  if 2 ≤ f.branches ∧ f.branches ≤ 4 ∧ 5 ≤ f.walk ∧ f.walk ≤ 60 then
    some (j, { configured := configured, zone := some zone, beacon := some beacon, branches := f.branches, walk := f.walk })
  else none

/-- Check 2 of R120: the junction has a holder or walk pending, or a leg of a claim or of a wait entry names it. -/
def State.junctionInUse (s : State) (j : JuncNo) : Bool :=
  (s.junctions.get j).holder != .none || (s.junctions.get j).walkPending
    || (allOf 12).any (fun v => (s.vehicles.get v).claim.any fun c => c.legs.any fun l => l.junction == j)
    || s.waits.any fun w => w.legs.any fun l => l.junction == j

/-- The state of the BEACON device at a reference is ONLINE. -/
def State.deviceOnline (s : State) (k : DeviceKind) (r : Option DevRef) : Bool :=
  (r.bind (s.deviceOfKind k)).any fun e => (s.devices.get e).state == .online

/-- Another CONFIGURED junction names the beacon (R120 check 5). -/
def State.beaconTaken (s : State) (j : JuncNo) (r : Option DevRef) : Bool :=
  (allOf 24).any fun i => i != j && (s.junctions.get i).configured && (s.junctions.get i).beacon == r

/-- The record that an accepted SET_JUNCTION leaves (R120). One that is IN_SERVICE at once has had its first entry, so that its
next entry into IN_SERVICE is reported (DESIGN CHOICE on R118, log entry 66). -/
def State.junctionAfter (s : State) (new : Junction) : Junction :=
  if !new.configured then new
  else
    let online := s.deviceOnline .beacon new.beacon
    let x := { new with state := if online then .inService else .failed, fresh := !online }
    if new.zone.any s.evacuating then evacHolder x else x

def State.doSetJunction (s : State) (f : JunctionFields) : Answer :=
  match junctionWritten? f with
  | none => s.refuse .badValue
  | some (j, new) =>
    if s.junctionInUse j then s.refuse .busy
    else if new.configured = false then (s.modJunction j fun _ => s.junctionAfter new).accept
    else if (new.zone.any fun z => !(s.zones.get z).configured) || (new.beacon.bind (s.deviceOfKind .beacon)).isNone then
      s.refuse .notFound
    else if s.beaconTaken j new.beacon then s.refuse .badValue
    else (s.modJunction j fun _ => s.junctionAfter new).accept

/-- The fields of READ_JUNCTION (R134): a lamp is GO (0) or STOP (1). -/
def State.junctionFields (s : State) (j : JuncNo) : Bytes :=
  let x := s.junctions.get j
  named configuredStates x.configured ++ optNum x.zone ++ optRef x.beacon ++ byteField x.branches
    ++ byteField x.walk ++ named junctionStates x.state ++ holderField x.holder ++ x.lamps.flatMap (named [true, false])
    ++ named setClear x.walkPending ++ s.leftField x.walkAt

/-- The fields of READ_JUNCTION with junction 0: the route wait list (R134; the ages by log entry 65). -/
def State.waitListFields (s : State) : Bytes :=
  listField (fun w => num w.vehicle ++ s.waitAge w ++ listField legField w.legs) s.waits

def State.doReadJunction (s : State) (junction : Nat) : Answer :=
  match optIndex? 24 junction with
  | none => s.refuse .badValue
  | some none => s.reply s.waitListFields
  | some (some j) => s.reply (s.junctionFields j)

/-! ## Bursts (R139, R145) -/

def State.doBurstNow (s : State) (vehicle firstQuarter : Nat) : Answer :=
  match index? 12 vehicle, if h : firstQuarter < 4 then some (⟨firstQuarter, h⟩ : QuarterNo) else none with
  | some v, some q =>
    if (s.vehicles.get v).configured = false then s.refuse .notFound
    else if (s.bursts.get v).any Burst.inProgress then s.refuse .busy
    else if (s.vehicles.get v).state = .unseen then s.refuse .condition
    else (s.tgStart sendStart v .host q).settle.accept
  | _, _ => s.refuse .badValue

/-- Gathering: RUNNING, or ended with its cause (R137). -/
def gatheringField : Option GatherEnd → Bytes
  | none => byteField 0
  | some c => byteField 1 ++ named gatherEnds c

/-- Forwarding (R137). -/
def forwardingField : Forwarding → Bytes
  | .pending => byteField 0
  | .holding => byteField 1
  | .forwarded => byteField 2
  | .stopped c => byteField 3 ++ named stopCauses c

/-- The order of a burst (R137). -/
def orderField (first : QuarterNo) : Bytes := [0, 1, 2, 3].flatMap fun i => byteField ((first.1 + i) % 4)

/-- The fields of a burst record in the order of R137's table, then the period timer (R145). -/
def State.burstFields (s : State) (v : VehNo) (b : Burst) : Bytes :=
  named burstOrigins b.origin ++ byteField b.first.1 ++ orderField b.first ++ named burstStates b.state
    ++ listField quarterField b.received ++ gatheringField b.gatherEnd
    ++ presenceField (fun o => byteField o.1.1 ++ refField o.2) b.outstanding ++ byteField b.misses
    ++ byteField b.forwarded ++ forwardingField b.forwarding ++ optSlot b.slot ++ optNum b.zoneAtQ1
    ++ named setClear b.zoneChanged ++ optNamed q1Outcomes b.outcome ++ s.leftField (s.vehicles.get v).periodAt

/-- READ_BURST; a vehicle with no record is answered with state none, ABSENT (R145; log entry 14). -/
def State.doReadBurst (s : State) (vehicle : Nat) : Answer :=
  match index? 12 vehicle with
  | none => s.refuse .badValue
  | some v => s.reply ((s.bursts.get v).elim (byteField 1) (s.burstFields v))

/-! ## Refuge stations (R147, R150, R152) -/

/-- The served zones of a SET_STATION, when they pass check 1 of R147. -/
def servedZones? (l : List Nat) : Option (List ZoneNo) := do
  let zs ← l.mapM (index? 16)
  if zs.Nodup ∧ 1 ≤ zs.length ∧ zs.length ≤ 4 then some zs else none

/-- The station that a SET_STATION names and the record it writes, when its values are in range (R147 check 1). -/
def stationWritten? (f : StationFields) : Option (StationNo × Station) := do
  let n ← index? 4 f.station
  let configured ← configuredStates[f.state]?
  let zone ← index? 16 f.zone
  let served ← servedZones? f.served
  let panel ← devRef? f.spur f.address
  let o2 ← optIndex? 32 f.insideO2
  let co ← optIndex? 32 f.insideCo
  let act ← optIndex? 32 f.onActivated
  let dis ← optIndex? 32 f.onDistress
  return (n, { configured := configured, zone := some zone, served := served, panel := some panel, insideO2 := o2
               insideCo := co, onActivated := act, onDistress := dis })

/-- Check 5 of R147 passes: everything a station names exists. -/
def State.stationItemsExist (s : State) (x : Station) : Bool :=
  (x.zone.all fun z => (s.zones.get z).configured) && (x.served.all fun z => (s.zones.get z).configured)
    && (x.panel.bind (s.deviceOfKind .refugePanel)).isSome
    && (x.insideO2.all fun c => (s.channels.get c).configured) && (x.insideCo.all fun c => (s.channels.get c).configured)

/-- Check 6 of R147 passes. -/
def State.stationFits (s : State) (n : StationNo) (x : Station) : Bool :=
  ((allOf 4).all fun m => m == n || !(s.stations.get m).configured || (s.stations.get m).panel != x.panel)
    && (x.insideO2.all fun c => (s.channels.get c).gas == .o2) && (x.insideCo.all fun c => (s.channels.get c).gas == .co)

/-- The record of a station written CONFIGURED (R147): a configuration or a change of panel renews the panel's fields. -/
def State.stationAfter (s : State) (old new : Station) : Station :=
  let kept := { new with
    door := old.door, headcount := old.headcount, latched := old.latched, online := old.online, strobe := old.strobe }
  if old.configured && old.panel == new.panel then kept
  else { kept with door := .unknown, headcount := 0, online := s.deviceOnline .refugePanel new.panel }

/-- A newly named inside channel in ALARM takes the station into DISTRESS. A station that stands in DISTRESS already does not
enter it, and no REFUGE report is produced (R147; log entry 53). -/
def State.newInside (s : State) (n : StationNo) (was now : Option ChanNo) : State :=
  if was != now && (now.any fun c => (s.channels.get c).level == .alarm) && (s.stations.get n).latched != .distress then
    s.distress sendStart n .insideAlarm
  else s

/-- An accepted SET_STATION (R147). A station that becomes CONFIGURED names its inside channels newly, also one that its
UNCONFIGURED record held already (DESIGN CHOICE, log entry 69). -/
def State.writeStation (s : State) (n : StationNo) (new : Station) : State :=
  let old := s.stations.get n
  if !new.configured then s.modStation n fun _ => new
  else
    let was (c : Option ChanNo) : Option ChanNo := if old.configured then c else none
    let s1 := s.modStation n fun _ => s.stationAfter old new
    (s1.newInside n (was old.insideO2) new.insideO2).newInside n (was old.insideCo) new.insideCo

def State.doSetStation (s : State) (f : StationFields) : Answer :=
  match stationWritten? f with
  | none => s.refuse .badValue
  | some (n, new) =>
    if s.slp.mode = .run ∧ s.bindingsDefined [new.onActivated, new.onDistress] = false then s.refuse .badValue
    else if new.configured = false then
      if (s.stations.get n).latched = .standby then (s.writeStation n new).accept else s.refuse .busy
    else if s.stationItemsExist new = false then s.refuse .notFound
    else if s.stationFits n new = false then s.refuse .badValue
    else (s.writeStation n new).accept

def State.doRefugeReset (s : State) (station key : Nat) : Answer :=
  match index? 4 station, key? key with
  | some n, some k =>
    let x := s.stations.get n
    if x.configured = false then s.refuse .notFound
    else if x.latched = .standby then s.refuse .wrongMode
    else if x.zone.any (s.keyFails k) then s.refuse .badKey
    else if x.door ≠ .closed ∨ 0 < x.headcount ∨ s.insideAlarm n = true then s.refuse .condition
    else (s.resetStation n).accept
  | _, _ => s.refuse .badValue

/-- The fields of READ_STATION (R152). -/
def State.stationFields (s : State) (n : StationNo) : Bytes :=
  let x := s.stations.get n
  named configuredStates x.configured ++ optNum x.zone ++ listField num x.served ++ optRef x.panel
    ++ optNum x.insideO2 ++ optNum x.insideCo ++ optNum x.onActivated ++ optNum x.onDistress ++ named doors x.door
    ++ byteField x.headcount ++ named latchedStates x.latched ++ linkField x.online
    ++ named [true, false] (s.strobeOn n) ++ listField num x.strobe

def State.doReadStation (s : State) (station : Nat) : Answer :=
  match index? 4 station with
  | none => s.refuse .badValue
  | some n => s.reply (s.stationFields n)

/-! ## Spurs and devices (R174, R175, R177) -/

/-- SET_SPUR with STANDBY (0) or ACTIVE (1) (R174). -/
def State.doSetSpur (s : State) (spur value : Nat) : Answer :=
  match index? 8 spur, [true, false][value]? with
  | some p, some standby =>
    if (s.spurs.get p).standby = standby then s.accept
    else if standby then (s.enterStandby p).accept
    else (s.leaveStandby p).accept
  | _, _ => s.refuse .badValue

/-- The entry that a SET_DEVICE names and the record it writes, when its values are in range (R175 check 1). The zone and
exit-gate flag of another kind than CALL_POINT are not used. -/
def deviceWritten? (f : DeviceFields) : Option (EntryNo × Device) := do
  let e ← index? 96 f.entry
  let configured ← configuredStates[f.state]?
  let kind ← deviceKinds[f.kind]?
  let r ← devRef? f.spur f.address
  if kind = .callPoint then do
    let z ← index? 16 f.zone
    let gate ← setClear[f.exitGate]?
    return (e, { configured := configured, ref := r, kind := kind, zone := some z, exitGate := gate })
  else return (e, { configured := configured, ref := r, kind := kind })

/-- Another CONFIGURED entry names the spur and address (R175 check 4). -/
def State.placeTaken (s : State) (e : EntryNo) (r : DevRef) : Bool :=
  (allOf 96).any fun i => i != e && (s.devices.get i).configured && (s.devices.get i).ref == r

/-- A CONFIGURED record of its owner names a device (R27, R118, R147). -/
def State.deviceNamed (s : State) (d : Device) : Bool :=
  match d.kind with
  | .gasHead => !(s.headChannels d.ref).isEmpty
  | .callPoint => false
  | .beacon => (s.beaconJunction d.ref).isSome
  | .refugePanel => (s.panelStation d.ref).isSome

/-- A spur is ACTIVE. -/
def State.spurActive (s : State) (p : SpurNo) : Bool := !(s.spurs.get p).standby

/-- SET_DEVICE at the first check of R175 that fails, or accepted. Check 6 is made on a request that leaves the entry CONFIGURED
alone (DESIGN CHOICE, log entry 71). -/
def State.doSetDevice (s : State) (f : DeviceFields) : Answer :=
  match deviceWritten? f with
  | none => s.refuse .badValue
  | some (e, new) =>
    let old := s.devices.get e
    if s.slp.mode = .run ∧ ((old.configured && s.spurActive old.ref.spur) || s.spurActive new.ref.spur) = true then
      s.refuse .wrongMode
    else if old.configured = false ∧ new.configured = false then s.refuse .notFound
    else if new.configured = true ∧ s.placeTaken e new.ref = true then s.refuse .badValue
    else if (old.configured && s.deviceNamed old && (!new.configured || !samePlace old new)) = true then s.refuse .busy
    else if new.configured = true ∧ (new.zone.any fun z => !(s.zones.get z).configured) = true then s.refuse .notFound
    else (s.writeDevice e new).accept

/-- The bound items of an entry (section 11.1, R177). -/
def State.boundItems (s : State) (d : Device) : Bytes :=
  match d.kind with
  | .gasHead => (allOf 4).flatMap fun i => optNum (s.headChannel d.ref i)
  | .callPoint => []
  | .beacon => optNum (s.beaconJunction d.ref)
  | .refugePanel => optNum (s.panelStation d.ref)

/-- The fields of READ_DEVICE (R177). -/
def State.deviceFields (s : State) (d : Device) : Bytes :=
  refField d.ref ++ named deviceKinds d.kind ++ d.zone.elim (byteField 0) (fun z => num z ++ named setClear d.exitGate)
    ++ s.boundItems d ++ named deviceStates d.state ++ byteField d.misses ++ optNamed missCauses d.lastMiss

/-- READ_DEVICE; a free entry is answered with the state UNCONFIGURED alone (R177), the value after the four of
section 11.1. -/
def State.doReadDevice (s : State) (entry : Nat) : Answer :=
  match index? 96 entry with
  | none => s.refuse .badValue
  | some e =>
    let d := s.devices.get e
    s.reply (if d.configured then s.deviceFields d else byteField 4)

/-- The fields of READ_SPUR (R177). -/
def State.spurFields (s : State) (p : SpurNo) : Bytes :=
  let x := s.spurs.get p
  named [true, false] x.standby ++ byteField x.counter ++ listField (fun f => num f.vehicle) x.fetches
    ++ listField (fun e =>
        let d := s.devices.get e
        num d.ref.addr ++ named deviceKinds d.kind ++ named deviceStates d.state) (s.pollList p)

def State.doReadSpur (s : State) (spur : Nat) : Answer :=
  match index? 8 spur with
  | none => s.refuse .badValue
  | some p => s.reply (s.spurFields p)

end Sys2Proof.Machine
end

