-- ==== Sys2Proof/Machine/AnswersPart.lean ====
section
/-! DEFINITION. The requests of the Alarm Program Unit and of the Supervisory Link Port itself (10_alarm_programs.md,
12_supervisory_link_modes_and_resets.md): programs and runners, START_RUN, ENTER_LOADING, RESET, READ_STATUS; and the one
function from a request to its owner's answer. -/

namespace Sys2Proof.Machine

/-! ## Steps and programs (R154, R155, R167) -/

/-- An item operand lies in the range of its action; 0 stands for none (section 10.1; log entry 8). -/
def itemFits (a : Action) (item : Nat) : Bool :=
  match a with
  | .sound => 1 ≤ item && item ≤ 8
  | .strobe => 1 ≤ item && item ≤ 4
  | .announce => 1 ≤ item && item ≤ 63
  | .test => item < conditions.length
  | .transfer => true
  | .report => true
  | _ => item == 0

/-- A pattern as written: none, or one of its named values. -/
def pattern? : RawOptional → Option (Option Pattern)
  | .absent => some none
  | .present n => (patterns[n]?).map some
  | .other _ => none

/-- A step of LOAD_STEPS, when its values are in range (R154 check 1). -/
def stepWritten? (f : StepFields) : Option Step := do
  let action ← actions[f.action]?
  let pattern ← pattern? f.pattern
  let chain ← setClear[f.chain]?
  if f.zone ≤ 16 ∧ itemFits action f.item = true ∧ (action = .sound → pattern.isSome = true) then
    some { action := action, zone := f.zone, item := f.item, pattern := pattern, count := f.count, chain := chain }
  else none

/-- Steps written one after another from an index (R154). -/
def writeSteps (v : Vector Step 128) : Nat → List Step → Vector Step 128
  | _, [] => v
  | i, st :: l => writeSteps (if h : i < 128 then v.set i st h else v) (i + 1) l

/-- A runner is STEPPING or SLOT_WAIT (R154 check 2). -/
def State.anyRunning (s : State) : Bool := (allOf 4).any fun r => (s.runners.get r).running

def State.doLoadSteps (s : State) (first : Nat) (l : List StepFields) : Answer :=
  if 127 < first ∨ l.length = 0 ∨ 32 < l.length ∨ 128 < first + l.length then s.refuse .badValue
  else match l.mapM stepWritten? with
    | none => s.refuse .badValue
    | some steps => if s.anyRunning then s.refuse .busy else ({ s with steps := writeSteps s.steps first steps } : State).accept

/-- The program that a SET_PROGRAM names and the entry it writes, when its values are in range (R155). -/
def programWritten? (program defined first urgency key : Nat) : Option (ProgNo × Program) := do
  let p ← index? 32 program
  let d ← definedStates[defined]?
  let k ← key? key
  if first ≤ 127 ∧ 1 ≤ urgency ∧ urgency ≤ 7 then some (p, { defined := d, first := first, urgency := urgency, key := k })
  else none

def State.doSetProgram (s : State) (program defined first urgency key : Nat) : Answer :=
  match programWritten? program defined first urgency key with
  | none => s.refuse .badValue
  | some (p, new) =>
    if s.programRuns p then s.refuse .busy else ({ s with programs := s.programs.set p new } : State).accept

/-- The reply of a START_PROGRAM: STARTED and the runner, QUEUED or MERGED; FULL when the queue drops it (R166). A request
dropped otherwise has been refused before. -/
def startAnswer (s : State) : StartOutcome → Answer
  | .started r => s.reply (byteField 0 ++ num r)
  | .queued => s.reply (byteField 1)
  | .merged => s.reply (byteField 2)
  | .full => s.refuse .full
  | .dropped => s.refuse .notFound

def State.doStartProgram (s : State) (program zone : Nat) : Answer :=
  match index? 32 program, index? 16 zone with
  | some p, some z =>
    if s.slp.mode = .loading then s.refuse .wrongMode
    else if (s.programs.get p).defined = false ∨ (s.zones.get z).configured = false then s.refuse .notFound
    else
      let (t, out) := s.apuTake ⟨p, z, .host⟩
      startAnswer t.settle out
  | _, _ => s.refuse .badValue

def State.doCancelRunner (s : State) (runner : Nat) : Answer :=
  match index? 4 runner with
  | none => s.refuse .badValue
  | some r => if (s.runners.get r).running then (s.cancelRun r).accept else s.refuse .notFound

def State.doCancelPair (s : State) (program zone : Nat) : Answer :=
  match index? 32 program, index? 16 zone with
  | some p, some z =>
    match s.runnerOf p z with
    | some r => (s.cancelRun r).accept
    | none => if s.queuedPair p z then (s.cancelQueued p z).accept else s.refuse .notFound
  | _, _ => s.refuse .badValue

/-- The fields of READ_PROGRAM: the directory entry in the order of section 10.1, and whether it runs or waits (R167). -/
def State.programFields (s : State) (p : ProgNo) : Bytes :=
  let x := s.programs.get p
  num p ++ named definedStates x.defined ++ byteField x.first ++ byteField x.urgency ++ byteField x.key.1
    ++ [Config.whether (s.programRuns p || s.startQueue.any fun q => q.req.program == p)]

def State.doReadProgram (s : State) (program : Nat) : Answer :=
  match index? 32 program with
  | none => s.refuse .badValue
  | some p => s.reply (s.programFields p)

/-- A step of READ_STEPS, in the order of LOAD_STEPS. -/
def replyStep (x : Step) : Bytes :=
  named actions x.action ++ byteField x.zone ++ byteField x.item ++ optNamed patterns x.pattern ++ byteField x.count
    ++ named setClear x.chain

/-- READ_STEPS (R167). A range that runs past index 127 is refused, not cut short (DESIGN CHOICE, log entry 75). -/
def State.doReadSteps (s : State) (first count : Nat) : Answer :=
  if 127 < first ∨ count = 0 ∨ 32 < count ∨ 128 < first + count then s.refuse .badValue
  else s.reply (listField replyStep ((List.range count).filterMap fun i => s.stepAt (first + i)))

/-- The fields of READ_RUNNER (R167): the record in the order of its table but for the remaining count and the run-status record,
which stand where R167 names them (log entry 13). -/
def State.runnerFields (s : State) (x : Runner) : Bytes :=
  named runnerStates x.state ++ optNum x.program ++ optNum x.zone ++ optNamed startCauses x.cause
    ++ byteField (x.urgency.getD 0) ++ presenceField (fun k : Key => byteField k.1) x.key
    ++ Config.ordinalField (x.startNo.getD 0) ++ presenceField byteField x.current ++ byteField x.untimed
    ++ named setClear x.lastTransfer ++ checksField x.checks ++ byteField (s.residual x)
    ++ presenceField byteField (x.slotWaitAt.map fun t => Config.slotWaitLimit - s.left t)
    ++ x.record.elim Config.absentRecord runStatusField

/-- The fields of READ_RUNNER with runner none: the start queue (R167). -/
def State.startQueueFields (s : State) : Bytes :=
  listField (fun q => startReqField q.req ++ byteField q.urgency ++ Config.timeField q.arrived) s.startQueue

def State.doReadRunner (s : State) (runner : Nat) : Answer :=
  match optIndex? 4 runner with
  | none => s.refuse .badValue
  | some none => s.reply s.startQueueFields
  | some (some r) => s.reply (s.runnerFields (s.runners.get r))

/-! ## Modes (R182, R185 to R187) -/

/-- The item that START_RUN names in a refusal: its kind, its number and the field, by its place in the SET request that
writes it (R185; log entry 6). -/
structure BadBinding where
  kind : Nat
  number : Nat
  field : Nat
  deriving DecidableEq, Repr

/-- The first of some tests that fails, as the field it names. -/
def firstField (l : List (Nat × Bool)) : Option Nat := (l.find? fun x => x.2).map fun x => x.1

/-- A binding that names a program that is not DEFINED. -/
def State.undefinedBinding (s : State) (p : Option ProgNo) : Bool := p.any fun p => !(s.programs.get p).defined

/-- A zone that is named and UNCONFIGURED. -/
def State.deadZone (s : State) (z : Option ZoneNo) : Bool := z.all fun z => !(s.zones.get z).configured

/-- The failing field of a zone (R185 order 1). -/
def State.zoneFailure (s : State) (z : ZoneNo) : Option Nat :=
  let x := s.zones.get z
  if x.configured then
    firstField [(5, s.undefinedBinding x.onAlarm), (6, s.undefinedBinding x.onFault), (7, s.undefinedBinding x.onTrip),
      (8, s.undefinedBinding x.onEmergency)]
  else none

/-- The failing field of a station (R185 order 2). -/
def State.stationFailure (s : State) (n : StationNo) : Option Nat :=
  let x := s.stations.get n
  if x.configured then
    firstField [(9, s.undefinedBinding x.onActivated), (10, s.undefinedBinding x.onDistress), (3, s.deadZone x.zone),
      (4, x.served.any fun z => s.deadZone (some z)), (5, (x.panel.bind (s.deviceOfKind .refugePanel)).isNone),
      (7, x.insideO2.any fun c => !(s.channels.get c).configured),
      (8, x.insideCo.any fun c => !(s.channels.get c).configured)]
  else none

/-- The failing field of a channel (R185 order 3). -/
def State.channelFailure (s : State) (c : ChanNo) : Option Nat :=
  let x := s.channels.get c
  if x.configured then
    firstField [(4, !s.sourceExists x), (5, !x.onVehicle && s.deadZone x.zone)]
  else none

/-- The failing field of a junction (R185 order 4). -/
def State.junctionFailure (s : State) (j : JuncNo) : Option Nat :=
  let x := s.junctions.get j
  if x.configured then firstField [(3, s.deadZone x.zone), (4, (x.beacon.bind (s.deviceOfKind .beacon)).isNone)] else none

/-- The failing field of a device entry of kind CALL_POINT (R185 order 5). -/
def State.pointFailure (s : State) (e : EntryNo) : Option Nat :=
  let d := s.devices.get e
  if d.configured && d.kind == .callPoint then firstField [(6, s.deadZone d.zone)] else none

/-- The first failing item of a table. -/
def failureIn (kind : Nat) {n : Nat} (f : Fin n → Option Nat) : Option BadBinding :=
  (allOf n).findSome? fun i => (f i).map fun k => ⟨kind, number i, k⟩

/-- The first binding that START_RUN finds wanting (R185). -/
def State.badBinding (s : State) : Option BadBinding :=
  (failureIn 0 s.zoneFailure).or <| (failureIn 1 s.stationFailure).or <| (failureIn 2 s.channelFailure).or <|
    (failureIn 3 s.junctionFailure).or (failureIn 4 s.pointFailure)

def State.setMode (s : State) (m : Mode) : State := s.modSlp fun l => { l with mode := m }

/-- The effects of an accepted START_RUN: mode RUN, then the trip outputs with the starts they send (R59, R185). -/
def State.startRun (s : State) : State := (s.setMode .run).tcuStart.settle

def State.doStartRun (s : State) : Answer :=
  if s.slp.mode = .run then s.refuse .wrongMode
  else match s.badBinding with
    | some b => ⟨s, .badValue, byteField b.kind ++ byteField b.number ++ [Config.bindingField b.field]⟩
    | none => s.startRun.accept

/-- The effects of an accepted ENTER_LOADING, in their order (R186). -/
def State.enterLoading (s : State) : State :=
  (s.setMode .loading).tcuLoading.apuLoading.hlcLoading.spursLoading

def State.doEnterLoading (s : State) : Answer :=
  if s.slp.mode = .loading then s.refuse .wrongMode else s.enterLoading.accept

/-- RESET: the reset starts once the reply has been sent in full (R187). -/
def State.doReset (s : State) : Answer := (s.modSlp fun l => { l with resetDue := true }).accept

/-- A cause set as a count and its causes (R182, R187). -/
def causesField (c : Causes) : Bytes :=
  let causes := [(c.power, 0), (c.dip, 1), (c.line, 2), (c.link, 3)].filterMap fun (p, n) => if p then some n else none
  listField byteField causes

/-- The fields of READ_STATUS (R182): RETAINED (0) or LOST (1). -/
def State.statusFields (s : State) : Bytes :=
  let l := s.slp
  named modes l.mode ++ causesField l.causes ++ named [true, false] l.retained ++ byteField l.buffer.length
    ++ byteField l.queue.length

def State.doReadStatus (s : State) : Answer := s.reply s.statusFields

/-! ## Requests and their owners (R182 step 4) -/

/-- The answer of the block that owns a request. -/
def State.handle (s : State) : Request → Answer
  | .setZone f => s.doSetZone f
  | .orderEvacuation z => s.doOrderEvacuation z
  | .liftEvacuation z k => s.doLiftEvacuation z k
  | .readZone z => s.doReadZone z
  | .setChannel f => s.doSetChannel f
  | .setService c v => s.doSetService c v
  | .readChannel c => s.doReadChannel c
  | .setTrip f => s.doSetTrip f
  | .trip o => s.doTrip o
  | .restore o k => s.doRestore o k
  | .readTrip o => s.doReadTrip o
  | .readSignal g => s.doReadSignal g
  | .enrollTag r t a => s.doEnrollTag r t a
  | .removeTag r => s.doRemoveTag r
  | .pageTag r a => s.doPageTag r a
  | .ackTag r => s.doAckTag r
  | .readTag r => s.doReadTag r
  | .placeCall r => s.doPlaceCall r
  | .endCall i => s.doEndCall i
  | .readCall i => s.doReadCall i
  | .setTrunk l => s.doSetTrunk l
  | .readTrunk => s.doReadTrunk
  | .setVehicle f => s.doSetVehicle f
  | .setJunction f => s.doSetJunction f
  | .stopVehicle v => s.doStopVehicle v
  | .releaseVehicle v => s.doReleaseVehicle v
  | .readVehicle v => s.doReadVehicle v
  | .readJunction j => s.doReadJunction j
  | .burstNow v q => s.doBurstNow v q
  | .readBurst v => s.doReadBurst v
  | .setStation f => s.doSetStation f
  | .refugeReset n k => s.doRefugeReset n k
  | .readStation n => s.doReadStation n
  | .loadSteps i l => s.doLoadSteps i l
  | .setProgram p d i u k => s.doSetProgram p d i u k
  | .startProgram p z => s.doStartProgram p z
  | .cancelRunner r => s.doCancelRunner r
  | .cancelPair p z => s.doCancelPair p z
  | .cancelOther _ => s.refuse .badValue
  | .readProgram p => s.doReadProgram p
  | .readSteps i n => s.doReadSteps i n
  | .readRunner r => s.doReadRunner r
  | .setSpur p v => s.doSetSpur p v
  | .setDevice f => s.doSetDevice f
  | .readDevice e => s.doReadDevice e
  | .readSpur p => s.doReadSpur p
  | .startRun => s.doStartRun
  | .enterLoading => s.doEnterLoading
  | .reset => s.doReset
  | .readStatus => s.doReadStatus

end Sys2Proof.Machine
end

