-- ==== Sys2Proof/Machine/Link.lean ====
section
/-! DEFINITION. The Supervisory Link Port's traffic (12_supervisory_link_modes_and_resets.md): the receiver, the receive
buffer, the taking of requests, the reply slot and the transmitter, and the shape of every event at the part. -/

namespace Sys2Proof.Machine

/-! ## Taking a request (R182) -/

/-- The body of a reply: code, status, fields (R178). -/
def replyBody (code : Byte) (a : Answer) : Bytes := code :: statusByte a.status :: a.fields

/-- The state and the reply body that a taken frame leaves (R182 steps 1 to 4). -/
def State.answerContent (s : State) : Content → State × Bytes
  | .request r => let a := s.handle r; (a.state, replyBody (requestCode r) a)
  | .unknownCode c => (s, [c, statusByte .unknownRequest])
  | .badFrame c => (s, [c, statusByte .badFrame])

/-- A reply of an earlier request is waiting or being sent (R182). -/
def Slp.replyPending (l : Slp) : Bool := l.replySlot.isSome || l.sending.any fun x => x.isReply

/-- The oldest frame is taken when no reply is waiting or being sent; its reply goes to the slot (R182, R183). -/
def State.takeRequest (s : State) : State :=
  if s.slp.replyPending then s
  else match s.slp.buffer with
    | [] => s
    | f :: rest =>
      let (t, body) := (s.modSlp fun l => { l with buffer := rest }).answerContent f.content
      t.modSlp fun l => { l with replySlot := some ⟨f.tag, body⟩ }

/-! ## Receiving (R180, R181) -/

/-- LINK_OVERRUN: the discarded frame's tag and request code (R181). -/
def State.reportOverrun (s : State) (f : Received) : State :=
  s.report ⟨.routine, 0x81, [f.tag, contentCode f.content]⟩

/-- A complete request frame: it joins the buffer, or is discarded with a report (R181); the oldest frame is then taken when
it can be (R182). -/
def State.submit (s : State) (f : Received) : State :=
  (if s.slp.buffer.length < Config.receiveBufferBound then s.modSlp fun l => { l with buffer := l.buffer ++ [f] }
   else s.reportOverrun f).takeRequest

/-- What a receiver in FRAME makes of the bytes collected after the sync byte. -/
inductive Collected
  | more
  | discard
  | complete (f : Received)
  deriving DecidableEq, Repr

/-- The kind, tag and length are there and the frame's bytes are all collected: the check, then the kind (R178, R180). -/
def checkFrame (l : Bytes) : Collected :=
  let covered := l.dropLast.dropLast
  if l.drop covered.length = checkBytes covered then
    match covered with
    | _kind :: tag :: _length :: body => .complete ⟨tag, parseBody body⟩
    | _ => .discard
  else .discard

/-- The receiver in FRAME after a byte (R180): a kind other than REQUEST, a length above 248 or a failed check discards the
frame. -/
def judgeFrame (l : Bytes) : Collected :=
  match l with
  | kind :: _tag :: length :: _ =>
    if kind ≠ kindRequest then .discard
    else if Config.bodyBound < length.toNat then .discard
    else if l.length < length.toNat + 5 then .more
    else checkFrame l
  | kind :: _ => if kind = kindRequest then .more else .discard
  | [] => .more

def State.setReceiver (s : State) (r : Receiver) : State := s.modSlp fun l => { l with receiver := r }

/-- One byte arrives (R180). -/
def State.receiveByte (s : State) (b : Byte) : State :=
  match s.slp.receiver with
  | .hunt => if b = syncByte then s.setReceiver (.frame []) else s
  | .frame collected =>
    match judgeFrame (collected ++ [b]) with
    | .more => s.setReceiver (.frame (collected ++ [b]))
    | .discard => s.setReceiver .hunt
    | .complete f => (s.setReceiver .hunt).submit f

/-- Bytes arrive one after another. -/
def State.receiveBytes (s : State) (bs : Bytes) : State := bs.foldl State.receiveByte s

/-! ## Sending (R183, R184) -/

/-- The frame of a reply (R178). -/
def replyFrame (r : Reply) : Bytes := buildFrame kindReply r.tag r.body

/-- A free transmitter begins the reply in the slot, or else the oldest report with the loss marker, which returns to NONE
(R183, R184). -/
def Slp.beginSending (l : Slp) : Slp :=
  if l.sending.isSome then l
  else match l.replySlot with
    | some r => { l with replySlot := none, sending := some ⟨true, replyFrame r⟩ }
    | none =>
      match l.queue with
      | [] => l
      | r :: rest => { l with queue := rest, marker := .none, sending := some ⟨false, reportFrame l.marker r⟩ }

def State.beginSending (s : State) : State := s.modSlp Slp.beginSending

/-! ## The shape of an event (log entries 15, 16) -/

/-- An event while the part operates: its effect, then the transmitter begins a frame if it is free. While a reset lasts the
part does not operate, and nothing happens (R187; log entry 16). -/
def State.event (s : State) (f : State → State) : State :=
  if s.slp.inReset.isSome then s else (f s).beginSending

/-- A whole request frame arrives in the receive buffer (R180, R181): the commands that are host requests. -/
def State.request (s : State) (tag : Byte) (r : Request) : State :=
  s.event fun s => (s.setReceiver .hunt).submit ⟨tag, .request r⟩

end Sys2Proof.Machine
end

