-- ==== Sys2Proof/Machine/Reset.lean ====
section
/-! DEFINITION. Resets (12_supervisory_link_modes_and_resets.md, R187, and each chapter's own reset values): the start of a
reset, what it clears, what a reset that loses configuration takes, and the moment the part resumes. -/

namespace Sys2Proof.Machine

/-! ## Causes (R187) -/

/-- Two cause sets together. -/
def Causes.join (a b : Causes) : Causes :=
  { power := a.power || b.power, dip := a.dip || b.dip, line := a.line || b.line, link := a.link || b.link }

/-- The reset keeps configuration (R187). -/
def Causes.keep (c : Causes) : Bool := (c.line || c.link) && !c.power && !c.dip

/-! ## What every reset clears -/

/-- A zone record (R1). -/
def Zone.afterReset (z : Zone) : Zone :=
  { configured := z.configured, key := z.key, trip := z.trip, onAlarm := z.onAlarm, onFault := z.onFault
    onTrip := z.onTrip, onEmergency := z.onEmergency
    view := if z.configured then z.trip.map fun _ => .held else none }

/-- A channel record (R20). -/
def Channel.afterReset (c : Channel) : Channel :=
  { c.cleared with cause := some (if c.service = .inService then .noSample else .outOfService) }

/-- A trip output (R46, R47). The levels of its inputs are what the pins carry. -/
def Trip.afterReset (t : Trip) : Trip :=
  { t with
    waitPending := t.wait, state := .held, waitAt := none, confirmAt := none, origin := none, lastCause := none }

/-- A signal output (R63, R65). The fault sense is what the pin carries. -/
def Signal.afterReset (g : Signal) : Signal := { fault := g.openCircuit, openCircuit := g.openCircuit }

/-- A tag record (R67). -/
def Tag.afterReset (t : Tag) : Tag := { id := t.id, absence := t.absence }

/-- A vehicle record (R115). -/
def Vehicle.afterReset (v : Vehicle) : Vehicle :=
  { configured := v.configured, tagId := v.tagId, kind := v.kind, overstay := v.overstay, period := v.period
    firstQuarter := v.firstQuarter }

/-- A junction record (R117). -/
def Junction.afterReset (j : Junction) : Junction :=
  { configured := j.configured, zone := j.zone, beacon := j.beacon, branches := j.branches, walk := j.walk }

/-- A station record (R146). -/
def Station.afterReset (n : Station) : Station :=
  { configured := n.configured, zone := n.zone, served := n.served, panel := n.panel, insideO2 := n.insideO2
    insideCo := n.insideCo, onActivated := n.onActivated, onDistress := n.onDistress }

/-- What SET_DEVICE writes in a device table entry (R175). -/
def Device.settings (d : Device) : Device :=
  { configured := d.configured, ref := d.ref, kind := d.kind, zone := d.zone, exitGate := d.exitGate }

/-- A device table entry (R168). A reset is a fallback moment of the device itself (R170, R176). -/
def Device.afterReset (d : Device) : Device := { d.settings with held := d.fallenBack }

/-- Dynamic state at its reset values, configuration kept, the commands waiting and the link untouched. The creation numbers of
calls (R83) and the start numbers of programs (R158) begin again at 1, a first value that no rule states (log entry 58). -/
def State.clearDynamic (s : State) : State where
  pending := s.pending
  now := s.now
  slp := s.slp
  zones := s.zones.map Zone.afterReset
  channels := s.channels.map Channel.afterReset
  trips := s.trips.map Trip.afterReset
  signals := s.signals.map Signal.afterReset
  tags := s.tags.map (Option.map Tag.afterReset)
  calls := []
  nextCallId := 1
  nextCreation := 1
  voice := Vector.replicate 96 (Vector.replicate 4 none)
  trunk := {}
  vehicles := s.vehicles.map Vehicle.afterReset
  junctions := s.junctions.map Junction.afterReset
  waits := []
  bursts := Vector.replicate 12 none
  stations := s.stations.map Station.afterReset
  steps := s.steps
  programs := s.programs
  runners := Vector.replicate 4 {}
  startQueue := []
  nextStart := 1
  devices := s.devices.map Device.afterReset
  spurs := Vector.replicate 8 {}
  handOffs := []
  answering := none

/-- The configuration that a reset loses takes the values stated with each record (R1, R19, R46, R67, R115, R117, R146, R153,
R168). -/
def State.loseConfiguration (s : State) : State :=
  { s with
    zones := Vector.replicate 16 {}
    channels := Vector.replicate 32 {}
    trips := s.trips.map fun t => { feedbackHigh := t.feedbackHigh, manualHigh := t.manualHigh }
    tags := Vector.replicate 64 none
    vehicles := Vector.replicate 12 {}
    junctions := Vector.replicate 24 {}
    stations := Vector.replicate 4 {}
    steps := Vector.replicate 128 {}
    programs := Vector.replicate 32 {}
    devices := Vector.replicate 96 {} }

/-! ## The start of a reset (R187) -/

/-- The link while a reset lasts: everything held is lost (R180, R181, R183, R184). -/
def Slp.cleared (l : Slp) (causes : Option Causes) : Slp :=
  { mode := .loading, causes := l.causes, retained := l.retained, receiver := .hunt, buffer := [], replySlot := none
    sending := none, queue := [], marker := .none, resetDue := false, inReset := causes }

/-- A reset with a set of causes begins: the part stops operating and dynamic state is cleared. -/
def State.beginReset (s : State) (c : Causes) : State := s.clearDynamic.modSlp fun l => l.cleared (some c)

/-- A cause arises: it starts a reset, or joins the one under way (R187). -/
def State.resetCause (s : State) (c : Causes) : State :=
  match s.slp.inReset with
  | none => s.beginReset c
  | some d => s.modSlp fun l => { l with inReset := some (d.join c) }

/-! ## The end of a reset (R187) -/

/-- The spurs at the end of a reset: each sends its broadcast reset and begins its first round (R168, R169, R176). -/
def State.spursStart (s : State) : State :=
  s.forEach (allOf 8) fun t p => (t.modSpur p fun x => { x with broadcasts := x.broadcasts + 1 }).beginRound p

/-- The period timer of each CONFIGURED vehicle starts (R138). -/
def State.periodsStart (s : State) : State :=
  { s with vehicles := s.vehicles.map fun v => { v with periodAt := if v.configured then some (s.now + 10 * v.period) else none } }

/-- The SIGNAL_FAULT reports of the outputs whose sense reads OPEN_CIRCUIT (R65). -/
def State.signalFaults (s : State) : State :=
  s.forEach (thoseOf 8 fun g => (s.signals.get g).fault) State.reportSignalFault

/-- The link as the part resumes: mode LOADING, nothing held, and START produced and, the transmitter being free, going out
(R183, R184, R187). -/
def State.linkStart (s : State) (c : Causes) : State :=
  ((s.modSlp fun l => { l.cleared none with causes := c, retained := c.keep }).report (startReport c c.keep)).beginSending

/-- The part resumes after a reset with a set of causes: configuration kept or lost, the time base anew, START, then the reset
grading (R187). The SIGNAL_FAULT reports follow those of the grading (R65; log entry 55). -/
def State.resume (s : State) (c : Causes) : State :=
  let s1 := if c.keep then s else s.loseConfiguration
  (((({ s1 with now := 0 } : State).linkStart c).gradeReset sendStart).signalFaults).periodsStart.spursStart

/-- The part resumes operation, when a reset is under way. -/
def State.endReset (s : State) : State :=
  match s.slp.inReset with
  | none => s
  | some c => s.resume c

/-! ## Pins and the end of a frame -/

/-- An event of a pin: while a reset lasts the pin's level alone changes (log entry 16). -/
def State.pinEvent (s : State) (level : State → State) (f : State → State) : State :=
  if s.slp.inReset.isSome then level s else (f s).beginSending

/-- The frame being sent ends. After the reply of an accepted RESET a reset with cause LINK begins; after another reply the
next request is taken (R182, R183, R187). -/
def State.frameEnds (s : State) : State :=
  match s.slp.sending with
  | none => s
  | some x =>
    let s1 := s.modSlp fun l => { l with sending := none }
    if x.isReply then
      if s.slp.resetDue then s1.beginReset { link := true } else s1.takeRequest
    else s1

end Sys2Proof.Machine
end

