-- ==== Sys2Proof/Machine/HostCommands.lean ====
section
/-! DEFINITION. The meanings of the host requests (12_supervisory_link_modes_and_resets.md, R178 to R182): each is a whole
request frame with its tag and fields that arrives on the link. It joins the receive buffer; when no reply is pending it is
taken in the same event, handled by the block that owns it, and answered in the reply slot (log entry 15). -/

namespace Sys2Proof.Machine

/-- What a command answers. -/
abbrev Result := Host.Outcome State Fault Refusal

/-- SET_ZONE (R3). -/
def execSetZone (tag : Byte) (f : ZoneFields) (s : State) : Result := .next (s.request tag (.setZone f))

/-- ORDER_EVACUATION (R11). -/
def execOrderEvacuation (tag : Byte) (zone : Nat) (s : State) : Result := .next (s.request tag (.orderEvacuation zone))

/-- LIFT_EVACUATION (R13). -/
def execLiftEvacuation (tag : Byte) (zone key : Nat) (s : State) : Result := .next (s.request tag (.liftEvacuation zone key))

/-- READ_ZONE (R17). -/
def execReadZone (tag : Byte) (zone : Nat) (s : State) : Result := .next (s.request tag (.readZone zone))

/-- SET_CHANNEL (R23). -/
def execSetChannel (tag : Byte) (f : ChannelFields) (s : State) : Result := .next (s.request tag (.setChannel f))

/-- SET_SERVICE_OUT (R25). -/
def execSetServiceOut (tag : Byte) (channel : Nat) (s : State) : Result := .next (s.request tag (.setService channel 1))

/-- SET_SERVICE_IN (R26). -/
def execSetServiceIn (tag : Byte) (channel : Nat) (s : State) : Result := .next (s.request tag (.setService channel 0))

/-- READ_CHANNEL (R44). -/
def execReadChannel (tag : Byte) (channel : Nat) (s : State) : Result := .next (s.request tag (.readChannel channel))

/-- SET_TRIP (R60). -/
def execSetTrip (tag : Byte) (f : TripFields) (s : State) : Result := .next (s.request tag (.setTrip f))

/-- TRIP (R53). -/
def execTrip (tag : Byte) (output : Nat) (s : State) : Result := .next (s.request tag (.trip output))

/-- RESTORE (R57). -/
def execRestore (tag : Byte) (output key : Nat) (s : State) : Result := .next (s.request tag (.restore output key))

/-- READ_TRIP (R62). -/
def execReadTrip (tag : Byte) (output : Nat) (s : State) : Result := .next (s.request tag (.readTrip output))

/-- READ_SIGNAL (R66). -/
def execReadSignal (tag : Byte) (output : Nat) (s : State) : Result := .next (s.request tag (.readSignal output))

/-- ENROLL_TAG (R68). -/
def execEnrollTag (tag : Byte) (roster tagId absence : Nat) (s : State) : Result := .next (s.request tag (.enrollTag roster tagId absence))

/-- REMOVE_TAG (R69). -/
def execRemoveTag (tag : Byte) (roster : Nat) (s : State) : Result := .next (s.request tag (.removeTag roster))

/-- PAGE_TAG_SEND (R80). -/
def execPageTagSend (tag : Byte) (roster : Nat) (s : State) : Result := .next (s.request tag (.pageTag roster 0))

/-- PAGE_TAG_CANCEL (R80). -/
def execPageTagCancel (tag : Byte) (roster : Nat) (s : State) : Result := .next (s.request tag (.pageTag roster 1))

/-- ACK_TAG (R79). -/
def execAckTag (tag : Byte) (roster : Nat) (s : State) : Result := .next (s.request tag (.ackTag roster))

/-- READ_TAG (R81). -/
def execReadTag (tag : Byte) (roster : Nat) (s : State) : Result := .next (s.request tag (.readTag roster))

/-- PLACE_CALL (R99). -/
def execPlaceCall (tag : Byte) (roster : Nat) (s : State) : Result := .next (s.request tag (.placeCall roster))

/-- END_CALL (R93). -/
def execEndCall (tag : Byte) (id : Nat) (s : State) : Result := .next (s.request tag (.endCall id))

/-- READ_CALL (R100). -/
def execReadCall (tag : Byte) (id : Nat) (s : State) : Result := .next (s.request tag (.readCall id))

/-- SET_TRUNK (R104). -/
def execSetTrunk (tag : Byte) (slots : List Nat) (s : State) : Result := .next (s.request tag (.setTrunk slots))

/-- READ_TRUNK (R112). -/
def execReadTrunk (tag : Byte) (s : State) : Result := .next (s.request tag .readTrunk)

/-- SET_VEHICLE (R119). -/
def execSetVehicle (tag : Byte) (f : VehicleFields) (s : State) : Result := .next (s.request tag (.setVehicle f))

/-- SET_JUNCTION (R120). -/
def execSetJunction (tag : Byte) (f : JunctionFields) (s : State) : Result := .next (s.request tag (.setJunction f))

/-- STOP_VEHICLE (R128). -/
def execStopVehicle (tag : Byte) (vehicle : Nat) (s : State) : Result := .next (s.request tag (.stopVehicle vehicle))

/-- RELEASE_VEHICLE (R128). -/
def execReleaseVehicle (tag : Byte) (vehicle : Nat) (s : State) : Result := .next (s.request tag (.releaseVehicle vehicle))

/-- READ_VEHICLE (R134). -/
def execReadVehicle (tag : Byte) (vehicle : Nat) (s : State) : Result := .next (s.request tag (.readVehicle vehicle))

/-- READ_JUNCTION (R134). -/
def execReadJunction (tag : Byte) (junction : Nat) (s : State) : Result := .next (s.request tag (.readJunction junction))

/-- BURST_NOW (R139). -/
def execBurstNow (tag : Byte) (vehicle firstQuarter : Nat) (s : State) : Result := .next (s.request tag (.burstNow vehicle firstQuarter))

/-- READ_BURST (R145). -/
def execReadBurst (tag : Byte) (vehicle : Nat) (s : State) : Result := .next (s.request tag (.readBurst vehicle))

/-- SET_STATION (R147). -/
def execSetStation (tag : Byte) (f : StationFields) (s : State) : Result := .next (s.request tag (.setStation f))

/-- REFUGE_RESET (R150). -/
def execRefugeReset (tag : Byte) (station key : Nat) (s : State) : Result := .next (s.request tag (.refugeReset station key))

/-- READ_STATION (R152). -/
def execReadStation (tag : Byte) (station : Nat) (s : State) : Result := .next (s.request tag (.readStation station))

/-- LOAD_STEPS (R154). -/
def execLoadSteps (tag : Byte) (first : Nat) (steps : List StepFields) (s : State) : Result := .next (s.request tag (.loadSteps first steps))

/-- SET_PROGRAM (R155). -/
def execSetProgram (tag : Byte) (program defined first urgency key : Nat) (s : State) : Result := .next (s.request tag (.setProgram program defined first urgency key))

/-- START_PROGRAM (R166). -/
def execStartProgram (tag : Byte) (program zone : Nat) (s : State) : Result := .next (s.request tag (.startProgram program zone))

/-- CANCEL_PROGRAM_BY_RUNNER (R166). -/
def execCancelProgramByRunner (tag : Byte) (runner : Nat) (s : State) : Result := .next (s.request tag (.cancelRunner runner))

/-- CANCEL_PROGRAM_BY_PAIR (R166). -/
def execCancelProgramByPair (tag : Byte) (program zone : Nat) (s : State) : Result := .next (s.request tag (.cancelPair program zone))

/-- READ_PROGRAM (R167). -/
def execReadProgram (tag : Byte) (program : Nat) (s : State) : Result := .next (s.request tag (.readProgram program))

/-- READ_STEPS (R167). -/
def execReadSteps (tag : Byte) (first count : Nat) (s : State) : Result := .next (s.request tag (.readSteps first count))

/-- READ_RUNNER (R167). -/
def execReadRunner (tag : Byte) (runner : Nat) (s : State) : Result := .next (s.request tag (.readRunner runner))

/-- SET_SPUR_STANDBY (R174). -/
def execSetSpurStandby (tag : Byte) (spur : Nat) (s : State) : Result := .next (s.request tag (.setSpur spur 0))

/-- SET_SPUR_ACTIVE (R174). -/
def execSetSpurActive (tag : Byte) (spur : Nat) (s : State) : Result := .next (s.request tag (.setSpur spur 1))

/-- SET_DEVICE (R175). -/
def execSetDevice (tag : Byte) (f : DeviceFields) (s : State) : Result := .next (s.request tag (.setDevice f))

/-- READ_DEVICE (R177). -/
def execReadDevice (tag : Byte) (entry : Nat) (s : State) : Result := .next (s.request tag (.readDevice entry))

/-- READ_SPUR (R177). -/
def execReadSpur (tag : Byte) (spur : Nat) (s : State) : Result := .next (s.request tag (.readSpur spur))

/-- START_RUN (R185). -/
def execStartRun (tag : Byte) (s : State) : Result := .next (s.request tag .startRun)

/-- ENTER_LOADING (R186). -/
def execEnterLoading (tag : Byte) (s : State) : Result := .next (s.request tag .enterLoading)

/-- RESET (R187). -/
def execReset (tag : Byte) (s : State) : Result := .next (s.request tag .reset)

/-- READ_STATUS (R182). -/
def execReadStatus (tag : Byte) (s : State) : Result := .next (s.request tag .readStatus)

/-- A whole request frame with a body that the Supervisory Link Port answers itself (R182 steps 1 to 3). -/
def State.rawRequest (s : State) (tag : Byte) (body : Bytes) : State :=
  s.event fun s => (s.setReceiver .hunt).submit ⟨tag, parseBody body⟩

/-- UNKNOWN_REQUEST_CODE (R182 step 2). -/
def execUnknownRequestCode (tag : Byte) (body : Bytes) (s : State) : Result := .next (s.rawRequest tag body)

/-- MALFORMED_REQUEST (R182 steps 1 and 3). -/
def execMalformedRequest (tag : Byte) (body : Bytes) (s : State) : Result := .next (s.rawRequest tag body)

end Sys2Proof.Machine
end

