-- ==== Sys2Proof/Machine/EventCommands.lean ====
section
/-! DEFINITION. The meanings of the events: frames on the link, resets, replies and limits on the spurs, the expiry of the
part's timers, the pins, and the cycle marks of the trunk. A timer's expiry is taken at its moment or later, and is no event
when the timer does not run (log entry 1). -/

namespace Sys2Proof.Machine

/-- The expiry of a timer: nothing when it is stopped, else its effect at the moment of the expiry. -/
def State.expiry (s : State) (timer : Option Time) (f : State → State) : State :=
  match timer with
  | none => s
  | some t => f (s.reach t)

/-! ## The link (R180 to R184) and resets (R187) -/

/-- FRAME_RECEIVED (R180): the bytes of a frame, one after another. -/
def execFrameReceived (bytes : Bytes) (s : State) : Result := .next (s.event fun s => s.receiveBytes bytes)

/-- FRAME_GAP_TIMEOUT (R180): the frame being collected is discarded. -/
def execFrameGapTimeout (s : State) : Result := .next (s.event fun s => s.setReceiver .hunt)

/-- FRAME_SENT (R183): the transmitter has sent the last byte of its frame. -/
def execFrameSent (s : State) : Result := .next (s.event State.frameEnds)

/-- POWER_UP (R187): the core supply rises from off. -/
def execPowerUp (s : State) : Result := .next (s.resetCause powerCauses)

/-- SUPPLY_DIP (R187). -/
def execSupplyDip (s : State) : Result := .next (s.resetCause { dip := true })

/-- RESET_PIN_LOW (R187). -/
def execResetPinLow (s : State) : Result := .next (s.resetCause { line := true })

/-- RESET_END (R187): the part resumes. -/
def execResetEnd (s : State) : Result := .next s.endReset

/-! ## The spurs (R169, R171) -/

/-- DEVICE_REPLY (R171). -/
def execDeviceReply (spur : SpurNo) (lineBusy : Bool) (reply : DeviceReply) (s : State) : Result :=
  .next (s.event fun s => s.spurReply spur lineBusy reply)

/-- REPLY_LIMIT_EXPIRY (R171). -/
def execReplyLimitExpiry (spur : SpurNo) (lineBusy : Bool) (s : State) : Result :=
  .next (s.event fun s => s.spurNoReply spur lineBusy)

/-- EMPTY_ROUND_EXPIRY (R169). -/
def execEmptyRoundExpiry (spur : SpurNo) (s : State) : Result := .next (s.event fun s => s.emptyRoundEnds spur)

/-! ## Air readings and outputs (R39, R49, R50, R52, R54, R58, R65) -/

/-- STALE_EXPIRY (R39). -/
def execStaleExpiry (channel : ChanNo) (s : State) : Result :=
  .next (s.event fun s => s.expiry (s.channels.get channel).staleAt fun s => s.staleFault sendStart channel)

/-- The wait timer of an output in WAITING (R52). -/
def Trip.waitTimer (t : Trip) : Option Time := if t.state = .waiting then t.waitAt else none

/-- WAIT_EXPIRY (R52). -/
def execWaitExpiry (output : OutNo) (s : State) : Result :=
  .next (s.event fun s => s.expiry (s.trips.get output).waitTimer fun s => (s.endWait output).settle)

/-- The confirm timer of an output in a state: it runs in OPENING toward R54 and in CLOSED as close confirmation (R58). -/
def Trip.confirmTimer (t : Trip) (state : TripState) : Option Time := if t.state = state then t.confirmAt else none

/-- CONFIRM_EXPIRY (R54). -/
def execConfirmExpiry (output : OutNo) (s : State) : Result :=
  .next (s.event fun s =>
    s.expiry ((s.trips.get output).confirmTimer .opening) fun s => (s.confirmEnds output).settle)

/-- CLOSE_CONFIRM_EXPIRY (R58). -/
def execCloseConfirmExpiry (output : OutNo) (s : State) : Result :=
  .next (s.event fun s => s.expiry ((s.trips.get output).confirmTimer .closed) fun s => s.closeConfirmEnds output)

/-- The F input stands at a level. -/
def State.feedbackPin (s : State) (o : OutNo) (high : Bool) : State := s.modTrip o fun t => { t with feedbackHigh := high }

/-- FEEDBACK_CHANGE (R49). -/
def execFeedbackChange (output : OutNo) (high : Bool) (s : State) : Result :=
  .next (s.pinEvent (fun s => s.feedbackPin output high)
    fun s => (s.rereadFeedback output fun t => { t with feedbackHigh := high }).settle)

/-- The M input stands at a level. -/
def State.manualPin (s : State) (o : OutNo) (high : Bool) : State := s.modTrip o fun t => { t with manualHigh := high }

/-- MANUAL_EDGE (R50). -/
def execManualEdge (output : OutNo) (high : Bool) (s : State) : Result :=
  .next (s.pinEvent (fun s => s.manualPin output high) fun s => (s.manualLevel output high).settle)

/-- The fault sense of a signal output reads a value; the flag follows it (R65). -/
def State.sensePin (s : State) (g : SigNo) (openCircuit : Bool) : State :=
  s.modSignal g fun x => { x with openCircuit := openCircuit, fault := openCircuit }

/-- FAULT_SENSE_CHANGE (R65). -/
def execFaultSenseChange (signal : SigNo) (openCircuit : Bool) (s : State) : Result :=
  .next (s.pinEvent (fun s => s.sensePin signal openCircuit) fun s => s.senseChange signal openCircuit)

/-! ## Tags and calls (R75, R90, R92, R94, R96) -/

/-- ABSENCE_EXPIRY (R75). -/
def execAbsenceExpiry (roster : Roster) (s : State) : Result :=
  .next (s.event fun s => s.expiry ((s.tags.get roster).bind Tag.absentAt) fun s => s.absent roster)

/-- The deadline of a call in a state (R90, R91, R96). -/
def State.callDeadline (s : State) (id : Nat) (state : CallState) : Option Time :=
  (s.callOf id).bind fun c => if c.state = state then c.deadline else none

/-- SETUP_EXPIRY (R90). -/
def execSetupExpiry (call : Nat) (s : State) : Result :=
  .next (s.event fun s => s.expiry (s.callDeadline call .setup) fun s => s.csEnd call .noResource)

/-- RING_EXPIRY (R92). -/
def execRingExpiry (call : Nat) (s : State) : Result :=
  .next (s.event fun s => s.expiry (s.callDeadline call .ringing) fun s => s.csEnd call .noAnswer)

/-- HELD_EXPIRY (R96). -/
def execHeldExpiry (call : Nat) (s : State) : Result :=
  .next (s.event fun s => s.expiry (s.callDeadline call .held) fun s => s.csEnd call .preempted)

/-- A party's party-lost deadline (R94). -/
def Call.lostAt (c : Call) : Side → Option Time
  | .a => c.lostA
  | .b => c.lostB

/-- PARTY_LOST_EXPIRY (R94). -/
def execPartyLostExpiry (call : Nat) (side : Side) (s : State) : Result :=
  .next (s.event fun s => s.expiry ((s.callOf call).bind fun c => c.lostAt side) fun s => s.csEnd call .partyLost)

/-! ## The trunk (R102) -/

/-- GOOD_MARK (R102). -/
def execGoodMark (s : State) : Result := .next (s.event fun s => s.goodMark sendStart)

/-- MISSED_MARK (R102). -/
def execMissedMark (s : State) : Result := .next (s.event fun s => s.missedMark sendStart)

/-! ## Haulage and bursts (R122, R124, R127, R132, R138) -/

/-- LOST_EXPIRY (R122). -/
def execLostExpiry (vehicle : VehNo) (s : State) : Result :=
  .next (s.event fun s => s.expiry (s.vehicles.get vehicle).lostAt fun s => s.loseVehicle vehicle)

/-- WAIT_ENTRY_EXPIRY (R124). -/
def execWaitEntryExpiry (vehicle : VehNo) (s : State) : Result :=
  .next (s.event fun s =>
    match s.waitOf vehicle with
    | none => s
    | some w => (s.reach (w.joined + Config.waitLimit)).expireWait w)

/-- WALK_DEADLINE (R127). -/
def execWalkDeadline (junction : JuncNo) (s : State) : Result :=
  .next (s.event fun s => s.expiry (s.junctions.get junction).walkAt fun s => s.walkEnds junction)

/-- OVERSTAY_EXPIRY (R132). -/
def execOverstayExpiry (vehicle : VehNo) (s : State) : Result :=
  .next (s.event fun s =>
    match (s.vehicles.get vehicle).claim with
    | none => s
    | some c => s.expiry c.overstayAt fun s => s.overstay vehicle c)

/-- PERIOD_EXPIRY (R138). -/
def execPeriodExpiry (vehicle : VehNo) (s : State) : Result :=
  .next (s.event fun s => s.expiry (s.vehicles.get vehicle).periodAt fun s => (s.tgPeriod sendStart vehicle).settle)

/-! ## Runners (R160, R164) -/

/-- STEP_COUNT_END (R160). -/
def execStepCountEnd (runner : RunnerNo) (s : State) : Result :=
  .next (s.event fun s => s.expiry (s.runners.get runner).countEnd fun s => s.countEnds runner)

/-- The slot wait timer of a runner in SLOT_WAIT (R161). -/
def Runner.slotTimer (x : Runner) : Option Time := if x.state = .slotWait then x.slotWaitAt else none

/-- SLOT_WAIT_EXPIRY (R164). -/
def execSlotWaitExpiry (runner : RunnerNo) (s : State) : Result :=
  .next (s.event fun s => s.expiry (s.runners.get runner).slotTimer fun s => s.slotCheck runner)

/-! ## The manual input's way back (R50) -/

/-- MANUAL_INPUT_LEAVES_ACTIVE_LEVEL (R50). -/
def execManualInputLeavesActiveLevel (output : OutNo) (high : Bool) (s : State) : Result :=
  .next (s.pinEvent (fun s => s.manualPin output high) fun s => (s.manualLevel output high).settle)

end Sys2Proof.Machine
end

