-- ==== Sys2Proof/Machine/Dispatch.lean ====
section
/-! DEFINITION. One arm per command: its meaning. -/

namespace Sys2Proof.Machine

def exec (i : Instr) (s : State) : Host.Outcome State Fault Refusal :=
  match i with
  | .setZone tag f => Sys2Proof.Machine.execSetZone tag f s
  | .orderEvacuation tag zone => Sys2Proof.Machine.execOrderEvacuation tag zone s
  | .liftEvacuation tag zone key => Sys2Proof.Machine.execLiftEvacuation tag zone key s
  | .readZone tag zone => Sys2Proof.Machine.execReadZone tag zone s
  | .setChannel tag f => Sys2Proof.Machine.execSetChannel tag f s
  | .setServiceOut tag channel => Sys2Proof.Machine.execSetServiceOut tag channel s
  | .setServiceIn tag channel => Sys2Proof.Machine.execSetServiceIn tag channel s
  | .readChannel tag channel => Sys2Proof.Machine.execReadChannel tag channel s
  | .setTrip tag f => Sys2Proof.Machine.execSetTrip tag f s
  | .trip tag output => Sys2Proof.Machine.execTrip tag output s
  | .restore tag output key => Sys2Proof.Machine.execRestore tag output key s
  | .readTrip tag output => Sys2Proof.Machine.execReadTrip tag output s
  | .readSignal tag output => Sys2Proof.Machine.execReadSignal tag output s
  | .enrollTag tag roster tagId absence => Sys2Proof.Machine.execEnrollTag tag roster tagId absence s
  | .removeTag tag roster => Sys2Proof.Machine.execRemoveTag tag roster s
  | .pageTagSend tag roster => Sys2Proof.Machine.execPageTagSend tag roster s
  | .pageTagCancel tag roster => Sys2Proof.Machine.execPageTagCancel tag roster s
  | .ackTag tag roster => Sys2Proof.Machine.execAckTag tag roster s
  | .readTag tag roster => Sys2Proof.Machine.execReadTag tag roster s
  | .placeCall tag roster => Sys2Proof.Machine.execPlaceCall tag roster s
  | .endCall tag id => Sys2Proof.Machine.execEndCall tag id s
  | .readCall tag id => Sys2Proof.Machine.execReadCall tag id s
  | .setTrunk tag slots => Sys2Proof.Machine.execSetTrunk tag slots s
  | .readTrunk tag => Sys2Proof.Machine.execReadTrunk tag s
  | .setVehicle tag f => Sys2Proof.Machine.execSetVehicle tag f s
  | .setJunction tag f => Sys2Proof.Machine.execSetJunction tag f s
  | .stopVehicle tag vehicle => Sys2Proof.Machine.execStopVehicle tag vehicle s
  | .releaseVehicle tag vehicle => Sys2Proof.Machine.execReleaseVehicle tag vehicle s
  | .readVehicle tag vehicle => Sys2Proof.Machine.execReadVehicle tag vehicle s
  | .readJunction tag junction => Sys2Proof.Machine.execReadJunction tag junction s
  | .burstNow tag vehicle firstQuarter => Sys2Proof.Machine.execBurstNow tag vehicle firstQuarter s
  | .readBurst tag vehicle => Sys2Proof.Machine.execReadBurst tag vehicle s
  | .setStation tag f => Sys2Proof.Machine.execSetStation tag f s
  | .refugeReset tag station key => Sys2Proof.Machine.execRefugeReset tag station key s
  | .readStation tag station => Sys2Proof.Machine.execReadStation tag station s
  | .loadSteps tag first steps => Sys2Proof.Machine.execLoadSteps tag first steps s
  | .setProgram tag program defined first urgency key => Sys2Proof.Machine.execSetProgram tag program defined first urgency key s
  | .startProgram tag program zone => Sys2Proof.Machine.execStartProgram tag program zone s
  | .cancelProgramByRunner tag runner => Sys2Proof.Machine.execCancelProgramByRunner tag runner s
  | .cancelProgramByPair tag program zone => Sys2Proof.Machine.execCancelProgramByPair tag program zone s
  | .readProgram tag program => Sys2Proof.Machine.execReadProgram tag program s
  | .readSteps tag first count => Sys2Proof.Machine.execReadSteps tag first count s
  | .readRunner tag runner => Sys2Proof.Machine.execReadRunner tag runner s
  | .setSpurStandby tag spur => Sys2Proof.Machine.execSetSpurStandby tag spur s
  | .setSpurActive tag spur => Sys2Proof.Machine.execSetSpurActive tag spur s
  | .setDevice tag f => Sys2Proof.Machine.execSetDevice tag f s
  | .readDevice tag entry => Sys2Proof.Machine.execReadDevice tag entry s
  | .readSpur tag spur => Sys2Proof.Machine.execReadSpur tag spur s
  | .startRun tag => Sys2Proof.Machine.execStartRun tag s
  | .enterLoading tag => Sys2Proof.Machine.execEnterLoading tag s
  | .reset tag => Sys2Proof.Machine.execReset tag s
  | .readStatus tag => Sys2Proof.Machine.execReadStatus tag s
  | .unknownRequestCode tag body => Sys2Proof.Machine.execUnknownRequestCode tag body s
  | .malformedRequest tag body => Sys2Proof.Machine.execMalformedRequest tag body s
  | .frameReceived bytes => Sys2Proof.Machine.execFrameReceived bytes s
  | .frameGapTimeout => Sys2Proof.Machine.execFrameGapTimeout s
  | .frameSent => Sys2Proof.Machine.execFrameSent s
  | .powerUp => Sys2Proof.Machine.execPowerUp s
  | .supplyDip => Sys2Proof.Machine.execSupplyDip s
  | .resetPinLow => Sys2Proof.Machine.execResetPinLow s
  | .resetEnd => Sys2Proof.Machine.execResetEnd s
  | .deviceReply spur lineBusy reply => Sys2Proof.Machine.execDeviceReply spur lineBusy reply s
  | .replyLimitExpiry spur lineBusy => Sys2Proof.Machine.execReplyLimitExpiry spur lineBusy s
  | .emptyRoundExpiry spur => Sys2Proof.Machine.execEmptyRoundExpiry spur s
  | .staleExpiry channel => Sys2Proof.Machine.execStaleExpiry channel s
  | .waitExpiry output => Sys2Proof.Machine.execWaitExpiry output s
  | .confirmExpiry output => Sys2Proof.Machine.execConfirmExpiry output s
  | .closeConfirmExpiry output => Sys2Proof.Machine.execCloseConfirmExpiry output s
  | .feedbackChange output high => Sys2Proof.Machine.execFeedbackChange output high s
  | .manualEdge output high => Sys2Proof.Machine.execManualEdge output high s
  | .faultSenseChange signal openCircuit => Sys2Proof.Machine.execFaultSenseChange signal openCircuit s
  | .absenceExpiry roster => Sys2Proof.Machine.execAbsenceExpiry roster s
  | .setupExpiry call => Sys2Proof.Machine.execSetupExpiry call s
  | .ringExpiry call => Sys2Proof.Machine.execRingExpiry call s
  | .heldExpiry call => Sys2Proof.Machine.execHeldExpiry call s
  | .partyLostExpiry call side => Sys2Proof.Machine.execPartyLostExpiry call side s
  | .goodMark => Sys2Proof.Machine.execGoodMark s
  | .missedMark => Sys2Proof.Machine.execMissedMark s
  | .lostExpiry vehicle => Sys2Proof.Machine.execLostExpiry vehicle s
  | .waitEntryExpiry vehicle => Sys2Proof.Machine.execWaitEntryExpiry vehicle s
  | .walkDeadline junction => Sys2Proof.Machine.execWalkDeadline junction s
  | .overstayExpiry vehicle => Sys2Proof.Machine.execOverstayExpiry vehicle s
  | .periodExpiry vehicle => Sys2Proof.Machine.execPeriodExpiry vehicle s
  | .stepCountEnd runner => Sys2Proof.Machine.execStepCountEnd runner s
  | .slotWaitExpiry runner => Sys2Proof.Machine.execSlotWaitExpiry runner s
  | .manualInputLeavesActiveLevel output high => Sys2Proof.Machine.execManualInputLeavesActiveLevel output high s

end Sys2Proof.Machine
end

