-- ==== Sys2Proof/Machine/Clock.lean ====
section
/-! DEFINITION. The passage of time (00_scope.md, Times; log entry 2): the timers that run, and the expiry that is due. -/

namespace Sys2Proof.Machine

/-- The deadlines of a call: its own by state (R90, R91, R96), and its parties' (R94). -/
def Call.timers (c : Call) : List (Time × Instr) :=
  let own : Option (Time × Instr) :=
    match c.state with
    | .setup => c.deadline.map fun t => (t, .setupExpiry c.id)
    | .ringing => c.deadline.map fun t => (t, .ringExpiry c.id)
    | .held => c.deadline.map fun t => (t, .heldExpiry c.id)
    | .active => none
  own.toList ++ (c.lostA.map fun t => (t, .partyLostExpiry c.id .a)).toList
    ++ (c.lostB.map fun t => (t, .partyLostExpiry c.id .b)).toList

/-- The timers of a vehicle and of its wait list entry (R122, R124, R132, R138). -/
def State.vehicleTimers (s : State) (v : VehNo) : List (Time × Instr) :=
  let x := s.vehicles.get v
  (x.lostAt.map fun t => (t, .lostExpiry v)).toList
    ++ ((s.waitOf v).map fun w => (w.joined + Config.waitLimit, .waitEntryExpiry v)).toList
    ++ ((x.claim.bind Claim.overstayAt).map fun t => (t, .overstayExpiry v)).toList
    ++ (x.periodAt.map fun t => (t, .periodExpiry v)).toList

/-- The timers of an output (R52, R54, R58). -/
def State.tripTimers (s : State) (o : OutNo) : List (Time × Instr) :=
  let x := s.trips.get o
  (x.waitTimer.map fun t => (t, .waitExpiry o)).toList ++ ((x.confirmTimer .opening).map fun t => (t, .confirmExpiry o)).toList
    ++ ((x.confirmTimer .closed).map fun t => (t, .closeConfirmExpiry o)).toList

/-- The timers of a runner (R160, R164). -/
def State.runnerTimers (s : State) (r : RunnerNo) : List (Time × Instr) :=
  let x := s.runners.get r
  (x.countEnd.map fun t => (t, .stepCountEnd r)).toList ++ (x.slotTimer.map fun t => (t, .slotWaitExpiry r)).toList

/-- Every timer that runs, with the command that is its expiry. -/
def State.timers (s : State) : List (Time × Instr) :=
  ((allOf 32).filterMap fun c => (s.channels.get c).staleAt.map fun t => (t, .staleExpiry c))
    ++ (allOf 6).flatMap s.tripTimers
    ++ ((allOf 64).filterMap fun r => ((s.tags.get r).bind Tag.absentAt).map fun t => (t, .absenceExpiry r))
    ++ s.calls.flatMap Call.timers
    ++ (allOf 12).flatMap s.vehicleTimers
    ++ ((allOf 24).filterMap fun j => (s.junctions.get j).walkAt.map fun t => (t, .walkDeadline j))
    ++ (allOf 4).flatMap s.runnerTimers

/-- Of two timers the earlier, and the first of equals. -/
def earlier (a b : Time × Instr) : Time × Instr := if b.1 < a.1 then b else a

/-- The expiry that the time base has reached: the earliest of the timers, the first of equals in the order of `timers`
(the order is the model's, log entry 2). -/
def State.dueExpiry (s : State) : Option Instr :=
  match s.timers with
  | [] => none
  | x :: rest =>
    let e := rest.foldl earlier x
    if e.1 ≤ s.now then some e.2 else none

/-- The part left to itself: the expiry that is due, or a tenth of a second passes (log entry 2). -/
def State.tick (s : State) : Result :=
  match s.dueExpiry with
  | some c => exec c s
  | none => .next { s with now := s.now + 1 }

end Sys2Proof.Machine
end

