-- ==== Sys2Proof/Safety.lean ====
section
/-! DEFINITION. The terms in which statements about the part are made: a link that is ready for a request, the state after a
reply, and what holds of every state that the part keeps. -/

namespace Sys2Proof

/-- A read changes nothing. -/
def Request.isRead : Request → Bool
  | .readZone _ | .readChannel _ | .readTrip _ | .readSignal _ | .readTag _ | .readCall _ | .readTrunk | .readVehicle _
  | .readJunction _ | .readBurst _ | .readStation _ | .readProgram _ | .readSteps .. | .readRunner _ | .readDevice _
  | .readSpur _ | .readStatus => true
  | _ => false

/-- The tag and the request of the frame that a host request command stands for (R178, R179); none for the other commands. -/
def Instr.frame? : Instr → Option (Byte × Request)
  | .setZone tag f => some (tag, .setZone f)
  | .orderEvacuation tag z => some (tag, .orderEvacuation z)
  | .liftEvacuation tag z k => some (tag, .liftEvacuation z k)
  | .readZone tag z => some (tag, .readZone z)
  | .setChannel tag f => some (tag, .setChannel f)
  | .setServiceOut tag c => some (tag, .setService c 1)
  | .setServiceIn tag c => some (tag, .setService c 0)
  | .readChannel tag c => some (tag, .readChannel c)
  | .setTrip tag f => some (tag, .setTrip f)
  | .trip tag o => some (tag, .trip o)
  | .restore tag o k => some (tag, .restore o k)
  | .readTrip tag o => some (tag, .readTrip o)
  | .readSignal tag g => some (tag, .readSignal g)
  | .enrollTag tag r t a => some (tag, .enrollTag r t a)
  | .removeTag tag r => some (tag, .removeTag r)
  | .pageTagSend tag r => some (tag, .pageTag r 0)
  | .pageTagCancel tag r => some (tag, .pageTag r 1)
  | .ackTag tag r => some (tag, .ackTag r)
  | .readTag tag r => some (tag, .readTag r)
  | .placeCall tag r => some (tag, .placeCall r)
  | .endCall tag i => some (tag, .endCall i)
  | .readCall tag i => some (tag, .readCall i)
  | .setTrunk tag l => some (tag, .setTrunk l)
  | .readTrunk tag => some (tag, .readTrunk)
  | .setVehicle tag f => some (tag, .setVehicle f)
  | .setJunction tag f => some (tag, .setJunction f)
  | .stopVehicle tag v => some (tag, .stopVehicle v)
  | .releaseVehicle tag v => some (tag, .releaseVehicle v)
  | .readVehicle tag v => some (tag, .readVehicle v)
  | .readJunction tag j => some (tag, .readJunction j)
  | .burstNow tag v q => some (tag, .burstNow v q)
  | .readBurst tag v => some (tag, .readBurst v)
  | .setStation tag f => some (tag, .setStation f)
  | .refugeReset tag n k => some (tag, .refugeReset n k)
  | .readStation tag n => some (tag, .readStation n)
  | .loadSteps tag i l => some (tag, .loadSteps i l)
  | .setProgram tag p d i u k => some (tag, .setProgram p d i u k)
  | .startProgram tag p z => some (tag, .startProgram p z)
  | .cancelProgramByRunner tag r => some (tag, .cancelRunner r)
  | .cancelProgramByPair tag p z => some (tag, .cancelPair p z)
  | .readProgram tag p => some (tag, .readProgram p)
  | .readSteps tag i n => some (tag, .readSteps i n)
  | .readRunner tag r => some (tag, .readRunner r)
  | .setSpurStandby tag p => some (tag, .setSpur p 0)
  | .setSpurActive tag p => some (tag, .setSpur p 1)
  | .setDevice tag f => some (tag, .setDevice f)
  | .readDevice tag e => some (tag, .readDevice e)
  | .readSpur tag p => some (tag, .readSpur p)
  | .startRun tag => some (tag, .startRun)
  | .enterLoading tag => some (tag, .enterLoading)
  | .reset tag => some (tag, .reset)
  | .readStatus tag => some (tag, .readStatus)
  | .unknownRequestCode .. | .malformedRequest .. | .frameReceived _ | .frameGapTimeout | .frameSent | .powerUp
  | .supplyDip | .resetPinLow | .resetEnd | .deviceReply .. | .replyLimitExpiry .. | .emptyRoundExpiry _
  | .staleExpiry _ | .waitExpiry _ | .confirmExpiry _ | .closeConfirmExpiry _ | .feedbackChange .. | .manualEdge ..
  | .faultSenseChange .. | .absenceExpiry _ | .setupExpiry _ | .ringExpiry _ | .heldExpiry _ | .partyLostExpiry ..
  | .goodMark | .missedMark | .lostExpiry _ | .waitEntryExpiry _ | .walkDeadline _ | .overstayExpiry _
  | .periodExpiry _ | .stepCountEnd _ | .slotWaitExpiry _ | .manualInputLeavesActiveLevel .. => none

end Sys2Proof

namespace Sys2Proof.Machine

/-- The part operates and its link is ready to take a request at once: the receiver in HUNT, the receive buffer empty, and no
reply waiting or being sent (R180 to R183). A report may be on the line. -/
structure State.Ready (s : State) : Prop where
  operating : s.slp.inReset = none
  hunting : s.slp.receiver = .hunt
  noFrame : s.slp.buffer = []
  noReply : s.slp.replyPending = false

/-- A reply formed: it goes to the reply slot, and out at once when the transmitter is free (R183). -/
def State.answered (s : State) (tag : Byte) (body : Bytes) : State :=
  (s.modSlp fun l => { l with replySlot := some ⟨tag, body⟩ }).beginSending

/-- An optional table number as its byte spells it: 0 for none (R178). -/
def optNo {n : Nat} (i : Option (Fin n)) : Nat := i.elim 0 number

/-- The bounds of the link: 0 to 2 frames in the receive buffer (R181), 0 to 32 reports in the queue (R184). -/
def State.LinkBounded (s : State) : Prop :=
  s.slp.buffer.length ≤ Config.receiveBufferBound ∧ s.slp.queue.length ≤ Config.reportQueueBound

/-- In LOADING every trip output is HELD (R47, R59), and a part that a reset has stopped is in LOADING (R187). -/
def State.HeldInLoading (s : State) : Prop :=
  (s.slp.inReset.isSome = true → s.slp.mode = .loading) ∧
    (s.slp.mode = .loading → ∀ o : OutNo, (s.trips.get o).state = .held)

/-- Every record of the part carries the reset values of its dynamic fields, the ones that no configuration decides (the
tables of the chapters, R187): the part right after the start of a reset, and at its end before the grading. -/
structure State.Cleared (s : State) : Prop where
  zones : ∀ z : ZoneNo, (s.zones.get z).summary = .normal ∧ (s.zones.get z).evac = .none ∧
    (s.zones.get z).occupancy = [] ∧ (s.zones.get z).vehicles = [] ∧
    (s.zones.get z).view = if (s.zones.get z).configured ∧ (s.zones.get z).trip.isSome then some .held else none
  channels : ∀ c : ChanNo, (s.channels.get c).level = .fault ∧
    (s.channels.get c).cause = some (if (s.channels.get c).service = .inService then .noSample else .outOfService) ∧
    (s.channels.get c).window = [] ∧ (s.channels.get c).f = 0 ∧ (s.channels.get c).mark = 0 ∧
    (s.channels.get c).count = 0 ∧ (s.channels.get c).riseSet = false ∧ (s.channels.get c).saturated = false ∧
    (s.channels.get c).lastValid = none ∧ (s.channels.get c).staleAt = none
  trips : ∀ o : OutNo, (s.trips.get o).state = .held ∧ (s.trips.get o).waitAt = none ∧
    (s.trips.get o).confirmAt = none ∧ (s.trips.get o).origin = none ∧ (s.trips.get o).lastCause = none ∧
    (s.trips.get o).waitPending = (s.trips.get o).wait
  signals : ∀ g : SigNo, (s.signals.get g).drivers = [] ∧ (s.signals.get g).shown = none ∧
    (s.signals.get g).fault = (s.signals.get g).openCircuit
  tags : ∀ (r : Roster) (t : Tag), s.tags.get r = some t → t = { id := t.id, absence := t.absence }
  calls : s.calls = [] ∧ s.nextCallId = 1 ∧ s.nextCreation = 1
  voice : ∀ (e : EntryNo) (k : Fin 4), (s.voice.get e).get k = none
  trunk : s.trunk.state = .sync ∧ s.trunk.marks = 0 ∧ s.trunk.misses = 0 ∧ s.trunk.allotment = List.finRange 24 ∧
    s.trunk.held = [] ∧ s.trunk.queue = []
  vehicles : ∀ v : VehNo, (s.vehicles.get v).state = .unseen ∧ (s.vehicles.get v).zone = none ∧
    (s.vehicles.get v).lastJunction = none ∧ (s.vehicles.get v).stop = {} ∧ (s.vehicles.get v).claim = none ∧
    (s.vehicles.get v).lastRead = none ∧ (s.vehicles.get v).lostAt = none
  junctions : ∀ j : JuncNo, (s.junctions.get j).state = .failed ∧ (s.junctions.get j).holder = .none ∧
    (s.junctions.get j).go = none ∧ (s.junctions.get j).walkPending = false ∧ (s.junctions.get j).walkAt = none
  waits : s.waits = []
  bursts : ∀ v : VehNo, s.bursts.get v = none
  stations : ∀ n : StationNo, (s.stations.get n).door = .unknown ∧ (s.stations.get n).headcount = 0 ∧
    (s.stations.get n).latched = .standby ∧ (s.stations.get n).online = false ∧ (s.stations.get n).strobe = []
  runners : ∀ r : RunnerNo, s.runners.get r = {}
  starts : s.startQueue = [] ∧ s.nextStart = 1 ∧ s.handOffs = [] ∧ s.answering = none
  devices : ∀ e : EntryNo, (s.devices.get e).state = .suspect ∧ (s.devices.get e).misses = 0 ∧
    (s.devices.get e).lastMiss = none
  spurs : ∀ p : SpurNo, (s.spurs.get p).standby = false ∧ (s.spurs.get p).counter = 0 ∧
    (s.spurs.get p).fetches = [] ∧ (s.spurs.get p).underWay = none

/-- The configuration that a reset which loses configuration leaves: the values stated with each record (R1, R19, R46, R67,
R115, R117, R146, R153, R168). -/
structure State.Unconfigured (s : State) : Prop where
  zones : ∀ z : ZoneNo, (s.zones.get z).configured = false ∧ (s.zones.get z).key = 0 ∧ (s.zones.get z).trip = none ∧
    (s.zones.get z).onAlarm = none ∧ (s.zones.get z).onFault = none ∧ (s.zones.get z).onTrip = none ∧
    (s.zones.get z).onEmergency = none
  channels : ∀ c : ChanNo, (s.channels.get c).configured = false ∧ (s.channels.get c).gas = .ch4 ∧
    (s.channels.get c).source = none ∧ (s.channels.get c).zone = none ∧ (s.channels.get c).zero = 0 ∧
    (s.channels.get c).span = 1 ∧ (s.channels.get c).alert = 1 ∧ (s.channels.get c).alarm = 1 ∧
    (s.channels.get c).hysteresis = 0 ∧ (s.channels.get c).filter = 1 ∧ (s.channels.get c).rateInterval = 2 ∧
    (s.channels.get c).rise = 0 ∧ (s.channels.get c).stale = 1 ∧ (s.channels.get c).qualification = .none ∧
    (s.channels.get c).service = .outOfService
  trips : ∀ o : OutNo, (s.trips.get o).mode = .direct ∧ (s.trips.get o).wait = 0 ∧ (s.trips.get o).waitPending = 0 ∧
    (s.trips.get o).confirm = 20 ∧ (s.trips.get o).backup = none ∧ (s.trips.get o).warning = none ∧
    (s.trips.get o).edge = .disabled ∧ (s.trips.get o).sense = .offWhenLow
  tags : ∀ r : Roster, s.tags.get r = none
  vehicles : ∀ v : VehNo, (s.vehicles.get v).configured = false ∧ (s.vehicles.get v).tagId = 0 ∧
    (s.vehicles.get v).kind = .shuttle ∧ (s.vehicles.get v).overstay = 90 ∧ (s.vehicles.get v).period = 5 ∧
    (s.vehicles.get v).firstQuarter = 1
  junctions : ∀ j : JuncNo, (s.junctions.get j).configured = false ∧ (s.junctions.get j).zone = none ∧
    (s.junctions.get j).beacon = none ∧ (s.junctions.get j).branches = 2 ∧ (s.junctions.get j).walk = 20
  stations : ∀ n : StationNo, (s.stations.get n).configured = false ∧ (s.stations.get n).zone = none ∧
    (s.stations.get n).served = [] ∧ (s.stations.get n).panel = none ∧ (s.stations.get n).insideO2 = none ∧
    (s.stations.get n).insideCo = none ∧ (s.stations.get n).onActivated = none ∧ (s.stations.get n).onDistress = none
  steps : ∀ i : Fin 128, s.steps.get i = ⟨.report, 0, 0, none, 0, false⟩
  programs : ∀ p : ProgNo, s.programs.get p = ⟨false, 0, 1, 0⟩
  devices : ∀ e : EntryNo, (s.devices.get e).configured = false

/-- A reset with some causes lasts: the part is cleared, the link holds nothing and no frame is being sent (R180 to R184,
R187). -/
structure State.Stopped (s : State) (c : Causes) : Prop where
  cleared : s.Cleared
  mode : s.slp.mode = .loading
  receiver : s.slp.receiver = .hunt
  buffer : s.slp.buffer = []
  replySlot : s.slp.replySlot = none
  sending : s.slp.sending = none
  queue : s.slp.queue = []
  marker : s.slp.marker = .none
  resetDue : s.slp.resetDue = false
  causes : s.slp.inReset = some c

/-- What SET_TRIP writes in a trip output record (R60); the pending W stands for the W written (R61). -/
def Trip.settings (t : Trip) : Trip :=
  { mode := t.mode, waitPending := t.waitPending, confirm := t.confirm, backup := t.backup, warning := t.warning
    edge := t.edge, sense := t.sense }

/-- What the host writes: the configuration of R187 and the trunk allotment. Each record stands as a reset that keeps
configuration would leave it. -/
structure Configuration where
  zones : Vector Zone 16
  channels : Vector Channel 32
  trips : Vector Trip 6
  tags : Vector (Option Tag) 64
  vehicles : Vector Vehicle 12
  junctions : Vector Junction 24
  stations : Vector Station 4
  steps : Vector Step 128
  programs : Vector Program 32
  devices : Vector Device 96
  allotment : List SlotNo
  deriving DecidableEq, Repr

/-- The configuration of the part. -/
def State.configuration (s : State) : Configuration where
  zones := s.zones.map Zone.afterReset
  channels := s.channels.map Channel.afterReset
  trips := s.trips.map Trip.settings
  tags := s.tags.map (Option.map Tag.afterReset)
  vehicles := s.vehicles.map Vehicle.afterReset
  junctions := s.junctions.map Junction.afterReset
  stations := s.stations.map Station.afterReset
  steps := s.steps
  programs := s.programs
  devices := s.devices.map Device.settings
  allotment := s.trunk.allotment

/-- What the blocks leave alone while they take an input: the commands waiting, the time, the link but for its report queue
and loss marker, how far the queue exceeds its bound, the configuration, and which outputs are HELD. -/
structure Standing where
  pending : List Instr
  now : Time
  link : Slp
  excess : Nat
  configuration : Configuration
  held : Vector Bool 6
  deriving DecidableEq, Repr

def State.standing (s : State) : Standing where
  pending := s.pending
  now := s.now
  link := { s.slp with queue := [], marker := .none }
  excess := s.slp.queue.length - Config.reportQueueBound
  configuration := s.configuration
  held := s.trips.map fun t => t.state == .held

/-! ## What ties the tables together -/

/-- The occupancy lists and the tags (R5, R9, R67, R71, R74, R75): a tag stands once in the list of its zone and in no other, an
UNCONFIGURED zone lists none, a tag has a zone exactly while it is IN or MISSING, and its absence timer runs only while it is
IN. -/
structure OccupancyAgrees (zones : Vector Zone 16) (tags : Vector (Option Tag) 64) : Prop where
  within : ∀ z : ZoneNo, (zones.get z).configured = false → (zones.get z).occupancy = []
  listed : ∀ (z : ZoneNo) (r : Roster),
    r ∈ (zones.get z).occupancy ↔ ∃ t, tags.get r = some t ∧ t.zone = some z
  once : ∀ z : ZoneNo, (zones.get z).occupancy.Nodup
  placed : ∀ (r : Roster) (t : Tag), tags.get r = some t →
    (t.zone.isSome = true ↔ t.state = .placed ∨ t.state = .missing) ∧ (t.absentAt.isSome = true → t.state = .placed)

/-- The vehicles-present lists and the vehicles (R5, R10, R115): a vehicle stands once in the list of its zone and in no other,
and an UNCONFIGURED zone lists none. -/
structure PresenceAgrees (zones : Vector Zone 16) (vehicles : Vector Vehicle 12) : Prop where
  within : ∀ z : ZoneNo, (zones.get z).configured = false → (zones.get z).vehicles = []
  listed : ∀ (z : ZoneNo) (v : VehNo), v ∈ (zones.get z).vehicles ↔ (vehicles.get v).zone = some z
  once : ∀ z : ZoneNo, (zones.get z).vehicles.Nodup

/-- The slot table and the request queue (R101, R105, R107): the slots held are slots of the allotment, each once; a holder holds
one slot or has one request waiting, never both; at most 16 requests wait, the higher classes in front. -/
structure Trunk.Agrees (x : Trunk) : Prop where
  slots : (x.held.map HeldSlot.slot).Nodup
  allotted : ∀ y ∈ x.held, y.slot ∈ x.allotment
  holders : (x.held.map HeldSlot.holder ++ x.queue.map Waiting.holder).Nodup
  room : x.queue.length ≤ Config.requestQueueBound
  ranked : x.queue.Pairwise fun a b => classRank a.cls ≤ classRank b.cls

/-- The claims, the junctions and the route wait list (R117, R123, R124): a junction is held for a vehicle exactly while a leg of
that vehicle's claim names it and is not yet cleared; a vehicle waits at most once, without a claim, for legs none of which
is cleared. -/
structure ClaimsAgree (vehicles : Vector Vehicle 12) (junctions : Vector Junction 24) (waits : List WaitEntry) : Prop where
  held : ∀ (j : JuncNo) (v : VehNo), (junctions.get j).holder = .claim v ↔
    ∃ c, (vehicles.get v).claim = some c ∧ ∃ l ∈ c.legs, l.junction = j ∧ l.cleared = false
  once : (waits.map WaitEntry.vehicle).Nodup
  waiting : ∀ w ∈ waits, (vehicles.get w.vehicle).claim = none ∧ ∀ l ∈ w.legs, l.cleared = false

/-- The calls, the call ids of the tag records and the channel map (R82, R83): at most 16 calls, each with an id of its own
from 1 to 255; a tag carries the id of the call it is a party to and no other; a channel is held by the call that names it, by
one of its parties alone; channels are held at CONFIGURED call points alone. -/
structure CallsAgree (calls : List Call) (tags : Vector (Option Tag) 64) (voice : Vector (Vector (Option Nat) 4) 96)
    (devices : Vector Device 96) : Prop where
  room : calls.length ≤ Config.callTableBound
  ids : ∀ c ∈ calls, 1 ≤ c.id ∧ c.id ≤ 255
  once : (calls.map Call.id).Nodup
  parties : ∀ (r : Roster) (i : Nat), (tags.get r).bind Tag.call = some i ↔
    ∃ c ∈ calls, c.id = i ∧ (c.a = .tag r ∨ c.b = .tag r)
  channels : ∀ (v : VoiceRef) (i : Nat), (voice.get v.entry).get v.chan = some i ↔
    ∃ c ∈ calls, c.id = i ∧ (c.chanA = some v ∨ c.chanB = some v)
  apart : ∀ c ∈ calls, ∀ v, c.chanA = some v → c.chanB ≠ some v
  points : ∀ (v : VoiceRef) (i : Nat), (voice.get v.entry).get v.chan = some i →
    (devices.get v.entry).configured = true ∧ (devices.get v.entry).kind = .callPoint

/-- What places tags and vehicles lies in CONFIGURED zones (R2, R5): the zone of an entry of the device table, which is then a
CONFIGURED call point, and the zone of a CONFIGURED junction. -/
structure NamesAgree (zones : Vector Zone 16) (devices : Vector Device 96) (junctions : Vector Junction 24) : Prop where
  points : ∀ (e : EntryNo) (z : ZoneNo), (devices.get e).zone = some z →
    (devices.get e).configured = true ∧ (devices.get e).kind = .callPoint ∧ (zones.get z).configured = true
  junctions : ∀ (j : JuncNo) (z : ZoneNo), (junctions.get j).configured = true → (junctions.get j).zone = some z →
    (zones.get z).configured = true

/-- The large tables say the same of what they share; a zone whose evacuation state is CLEARED has an empty occupancy list (R12);
while a reset lasts no call stands (R83, R187). -/
structure State.TablesAgree (s : State) : Prop where
  names : NamesAgree s.zones s.devices s.junctions
  occupancy : OccupancyAgrees s.zones s.tags
  emptied : ∀ z : ZoneNo, (s.zones.get z).evac = .cleared → (s.zones.get z).occupancy = []
  presence : PresenceAgrees s.zones s.vehicles
  trunk : s.trunk.Agrees
  claims : ClaimsAgree s.vehicles s.junctions s.waits
  calls : CallsAgree s.calls s.tags s.voice s.devices
  silent : s.slp.inReset.isSome = true → s.calls = []

end Sys2Proof.Machine
end

