-- ==== Sys2Proof/WellFormed.lean ====
section
/-! DEFINITION. What a command can be on the wire: every field of a request fits the width R178 gives it and the body is at
most 248 bytes; the two malformed kinds of R182 are what their names say. -/

namespace Sys2Proof

/-- A number with range up to 255 (R178). -/
def fits8 (n : Nat) : Bool := n < 256
/-- A number with range up to 65535 (R178). -/
def fits16 (n : Nat) : Bool := n < 65536
/-- A tag id of three bytes (R178). -/
def fits24 (n : Nat) : Bool := n < 16777216

def RawSource.wf : RawSource → Bool
  | .head s a i => fits8 s && fits8 a && fits8 i
  | .vehicle v => fits8 v
  | .other b => fits8 b && 2 ≤ b

/-- A value fits its byte, and a presence byte outside the list is neither PRESENT nor ABSENT. -/
def RawOptional.wf : RawOptional → Bool
  | .present n => fits8 n
  | .absent => true
  | .other b => fits8 b && 2 ≤ b

def StepFields.wf (s : StepFields) : Bool :=
  fits8 s.action && fits8 s.zone && fits8 s.item && s.pattern.wf && fits8 s.count && fits8 s.chain

/-- Every field fits its width, and the body its bound (R178). -/
def Request.wf : Request → Bool
  | .setZone f => [f.zone, f.state, f.key, f.trip, f.onAlarm, f.onFault, f.onTrip, f.onEmergency].all fits8
  | .orderEvacuation z => fits8 z
  | .liftEvacuation z k => fits8 z && fits8 k
  | .readZone z => fits8 z
  | .setChannel f =>
      [f.channel, f.state, f.gas, f.zone, f.filter, f.rateInterval, f.stale, f.qualification].all fits8
        && [f.zero, f.span, f.alert, f.alarm, f.hysteresis, f.rise].all fits16 && f.source.wf
  | .setService c v => fits8 c && fits8 v
  | .readChannel c => fits8 c
  | .setTrip f => [f.output, f.mode, f.confirm, f.backup, f.warning, f.edge, f.sense].all fits8 && fits16 f.wait
  | .trip o => fits8 o
  | .restore o k => fits8 o && fits8 k
  | .readTrip o => fits8 o
  | .readSignal o => fits8 o
  | .enrollTag r t a => fits8 r && fits24 t && fits16 a
  | .removeTag r => fits8 r
  | .pageTag r a => fits8 r && fits8 a
  | .ackTag r => fits8 r
  | .readTag r => fits8 r
  | .placeCall r => fits8 r
  | .endCall i => fits8 i
  | .readCall i => fits8 i
  | .setTrunk l => l.all fits8 && l.length ≤ 246
  | .readTrunk => true
  | .setVehicle f => [f.vehicle, f.state, f.kind, f.period, f.firstQuarter].all fits8 && fits24 f.tagId && fits16 f.overstay
  | .setJunction f => [f.junction, f.state, f.zone, f.spur, f.address, f.branches, f.walk].all fits8
  | .stopVehicle v => fits8 v
  | .releaseVehicle v => fits8 v
  | .readVehicle v => fits8 v
  | .readJunction j => fits8 j
  | .burstNow v q => fits8 v && fits8 q
  | .readBurst v => fits8 v
  | .setStation f =>
      [f.station, f.state, f.zone, f.spur, f.address, f.insideO2, f.insideCo, f.onActivated, f.onDistress].all fits8
        && f.served.all fits8 && f.served.length ≤ 237
  | .refugeReset s k => fits8 s && fits8 k
  | .readStation s => fits8 s
  | .loadSteps i l => fits8 i && l.all StepFields.wf && l.length < 256 && (requestFields (.loadSteps i l)).length ≤ 247
  | .setProgram p d i u k => [p, d, i, u, k].all fits8
  | .startProgram p z => fits8 p && fits8 z
  | .cancelRunner r => fits8 r
  | .cancelPair p z => fits8 p && fits8 z
  | .cancelOther b => 2 ≤ b && fits8 b
  | .readProgram p => fits8 p
  | .readSteps i n => fits8 i && fits8 n
  | .readRunner r => fits8 r
  | .setSpur s v => fits8 s && fits8 v
  | .setDevice f => [f.entry, f.state, f.spur, f.address, f.kind, f.zone, f.exitGate].all fits8
  | .readDevice e => fits8 e
  | .readSpur s => fits8 s
  | .startRun => true
  | .enterLoading => true
  | .reset => true
  | .readStatus => true

/-- Whether a body is an unknown code or a malformed body (R182). -/
def isUnknown (body : Bytes) : Bool := match parseBody body with | .unknownCode _ => true | _ => false
def isBadFrame (body : Bytes) : Bool := match parseBody body with | .badFrame _ => true | _ => false

/-- A command as something that can reach the part: a request fits its frame; a call id is 1 to 255 (R83). -/
def Instr.wf : Instr → Bool
  | .setZone _ f => (Request.setZone f).wf
  | .orderEvacuation _ z => (Request.orderEvacuation z).wf
  | .liftEvacuation _ z k => (Request.liftEvacuation z k).wf
  | .readZone _ z => (Request.readZone z).wf
  | .setChannel _ f => (Request.setChannel f).wf
  | .setServiceOut _ c => (Request.setService c 1).wf
  | .setServiceIn _ c => (Request.setService c 0).wf
  | .readChannel _ c => (Request.readChannel c).wf
  | .setTrip _ f => (Request.setTrip f).wf
  | .trip _ o => (Request.trip o).wf
  | .restore _ o k => (Request.restore o k).wf
  | .readTrip _ o => (Request.readTrip o).wf
  | .readSignal _ o => (Request.readSignal o).wf
  | .enrollTag _ r t a => (Request.enrollTag r t a).wf
  | .removeTag _ r => (Request.removeTag r).wf
  | .pageTagSend _ r => (Request.pageTag r 0).wf
  | .pageTagCancel _ r => (Request.pageTag r 1).wf
  | .ackTag _ r => (Request.ackTag r).wf
  | .readTag _ r => (Request.readTag r).wf
  | .placeCall _ r => (Request.placeCall r).wf
  | .endCall _ i => (Request.endCall i).wf
  | .readCall _ i => (Request.readCall i).wf
  | .setTrunk _ l => (Request.setTrunk l).wf
  | .readTrunk _ => true
  | .setVehicle _ f => (Request.setVehicle f).wf
  | .setJunction _ f => (Request.setJunction f).wf
  | .stopVehicle _ v => (Request.stopVehicle v).wf
  | .releaseVehicle _ v => (Request.releaseVehicle v).wf
  | .readVehicle _ v => (Request.readVehicle v).wf
  | .readJunction _ j => (Request.readJunction j).wf
  | .burstNow _ v q => (Request.burstNow v q).wf
  | .readBurst _ v => (Request.readBurst v).wf
  | .setStation _ f => (Request.setStation f).wf
  | .refugeReset _ s k => (Request.refugeReset s k).wf
  | .readStation _ s => (Request.readStation s).wf
  | .loadSteps _ i l => (Request.loadSteps i l).wf
  | .setProgram _ p d i u k => (Request.setProgram p d i u k).wf
  | .startProgram _ p z => (Request.startProgram p z).wf
  | .cancelProgramByRunner _ r => (Request.cancelRunner r).wf
  | .cancelProgramByPair _ p z => (Request.cancelPair p z).wf
  | .readProgram _ p => (Request.readProgram p).wf
  | .readSteps _ i n => (Request.readSteps i n).wf
  | .readRunner _ r => (Request.readRunner r).wf
  | .setSpurStandby _ s => (Request.setSpur s 0).wf
  | .setSpurActive _ s => (Request.setSpur s 1).wf
  | .setDevice _ f => (Request.setDevice f).wf
  | .readDevice _ e => (Request.readDevice e).wf
  | .readSpur _ s => (Request.readSpur s).wf
  | .startRun _ => true
  | .enterLoading _ => true
  | .reset _ => true
  | .readStatus _ => true
  | .unknownRequestCode _ body => isUnknown body && body.length ≤ Config.bodyBound
  | .malformedRequest _ body => isBadFrame body && body.length ≤ Config.bodyBound
  | .frameReceived _ => true
  | .frameGapTimeout => true
  | .frameSent => true
  | .powerUp => true
  | .supplyDip => true
  | .resetPinLow => true
  | .resetEnd => true
  | .deviceReply .. => true
  | .replyLimitExpiry .. => true
  | .emptyRoundExpiry _ => true
  | .staleExpiry _ => true
  | .waitExpiry _ => true
  | .confirmExpiry _ => true
  | .closeConfirmExpiry _ => true
  | .feedbackChange .. => true
  | .manualEdge .. => true
  | .faultSenseChange .. => true
  | .absenceExpiry _ => true
  | .setupExpiry i => 1 ≤ i && i ≤ 255
  | .ringExpiry i => 1 ≤ i && i ≤ 255
  | .heldExpiry i => 1 ≤ i && i ≤ 255
  | .partyLostExpiry i _ => 1 ≤ i && i ≤ 255
  | .goodMark => true
  | .missedMark => true
  | .lostExpiry _ => true
  | .waitEntryExpiry _ => true
  | .walkDeadline _ => true
  | .overstayExpiry _ => true
  | .periodExpiry _ => true
  | .stepCountEnd _ => true
  | .slotWaitExpiry _ => true
  | .manualInputLeavesActiveLevel .. => true

end Sys2Proof
end

