-- ==== Sys2Proof/Certificates/Slice0/Obligations.lean ====
section
/-! DEFINITION. The statements about the part, for the provers. A statement on a request is made on a ready link (`State.Ready`)
and gives the whole next state, the reply included (`State.answered`); a statement on an event gives the whole next state
after the transmitter has begun what it can (`beginSending`). So each says its frame: what it does not name is unchanged. -/

open Sys2Proof Sys2Proof.Machine

/-! ## The queue of commands and the passage of time -/

/-- A step takes the command at the front of the queue and runs it with the rest of the queue. -/
def Obligations.StepRunsFrontCommand : Prop :=
  ∀ (c : Instr) (rest : List Instr) (s : State),
    step { s with pending := c :: rest } = exec c { s with pending := rest }

/-- With no command waiting, time passes: while every timer that runs ends later, a tenth of a second goes by and nothing else
changes; once one is due, the expiry of an earliest timer is taken. This is the model's choice (log entry 2). -/
def Obligations.StepLetsTimePass : Prop :=
  ∀ s : State, s.pending = [] →
    ((∀ x ∈ s.timers, s.now < x.1) → step s = .next { s with now := s.now + 1 }) ∧
    ((∃ x ∈ s.timers, x.1 ≤ s.now) →
      ∃ x ∈ s.timers, x.1 ≤ s.now ∧ (∀ y ∈ s.timers, x.1 ≤ y.1) ∧ step s = exec x.2 s)

/-! ## Resets (R187 and the reset tables of the chapters) -/

/-- The part right after a power-up reset: LOADING with cause set POWER and configuration LOST, every configuration record at
the values of a reset that loses configuration, every dynamic field cleared, the large tables in agreement, no frame received
and no report queued, the START report going out. That no report follows START rests on the sense and pin levels that the model
chose (log entry 4). -/
def Obligations.ResetState : Prop :=
  State.reset.Cleared ∧ State.reset.Unconfigured ∧ State.reset.Ready ∧ State.reset.LinkBounded ∧
    State.reset.HeldInLoading ∧ State.reset.TablesAgree ∧ State.reset.slp.mode = .loading ∧
    State.reset.slp.causes = { power := true } ∧
    State.reset.slp.retained = false ∧ State.reset.slp.replySlot = none ∧ State.reset.slp.queue = [] ∧
    State.reset.slp.marker = .none ∧
    State.reset.slp.sending = some ⟨false, reportFrame .none (startReport { power := true } false)⟩ ∧
    State.reset.pending = []

/-- A cause starts a reset: whatever the part was doing, every dynamic field takes its reset value, the link is emptied and a
frame being sent is cut off, the trunk allotment is all 24 slots and a pending W falls back to the working W; the rest of the
configuration, the levels of the inputs and the commands waiting stay, and what a device holds is taken as fallen back (the
model's choice, log entry 73). A cause that arises during a reset joins its cause set and changes nothing else: that POWER does
so too, with no clearing anew, is the model's reading (log entry 19). -/
def Obligations.ResetBegins : Prop :=
  (∀ (s : State) (cmd : Instr) (c : Causes),
    s.slp.inReset = none →
    (cmd = .powerUp ∧ c = { power := true } ∨ cmd = .supplyDip ∧ c = { dip := true } ∨
      cmd = .resetPinLow ∧ c = { line := true }) →
    ∃ t, exec cmd s = .next t ∧ t.Stopped c ∧ t.pending = s.pending ∧
      t.configuration = { s.configuration with
        trips := s.trips.map fun x => { x.settings with waitPending := x.wait }, allotment := List.finRange 24 } ∧
      t.slp.causes = s.slp.causes ∧ t.slp.retained = s.slp.retained ∧
      (∀ o : OutNo, (t.trips.get o).feedbackHigh = (s.trips.get o).feedbackHigh ∧
        (t.trips.get o).manualHigh = (s.trips.get o).manualHigh) ∧
      (∀ g : SigNo, (t.signals.get g).openCircuit = (s.signals.get g).openCircuit) ∧
      ∀ e : EntryNo, (t.devices.get e).held = (s.devices.get e).held.map fun x => (x.1.fallenBack, x.2)) ∧
  ∀ (s : State) (c : Causes), s.slp.inReset = some c →
    exec .powerUp s = .next { s with slp := { s.slp with inReset := some { c with power := true } } } ∧
    exec .supplyDip s = .next { s with slp := { s.slp with inReset := some { c with dip := true } } } ∧
    exec .resetPinLow s = .next { s with slp := { s.slp with inReset := some { c with line := true } } }

/-- The part resumes: mode LOADING, the cause set and RETAINED or LOST noted, START going out as the first frame; configuration is
kept exactly when the set holds LINE or LINK and neither POWER nor DIP, and otherwise takes the values stated with each record.
Every dynamic field has its reset value (`Cleared`: outputs HELD, no tag placed, no list, call, slot, request, claim, junction
holder, wait, burst or run, stations in STANDBY) but for three things: the reset grading, which gives each CONFIGURED zone with an
assigned channel the summary FAULT; each CONFIGURED vehicle's telemetry period; and the spurs, which have sent their broadcast
reset and begun a round. After START the queue holds the ZONE reports of the grading, then a SIGNAL_FAULT report for each output whose sense
reads open (log entry 55), shown for no channel and for one assigned channel whose zone starts nothing. With no reset under way nothing
happens. That the time base starts at 0 and that each spur's broadcast is counted are the model's (log entries 1 and 9). -/
def Obligations.ResetEnds : Prop :=
  (∀ (s : State) (c : Causes), s.Stopped c →
    ∃ t, exec .resetEnd s = .next t ∧ t.Ready ∧ t.slp.mode = .loading ∧ t.slp.causes = c ∧
      t.slp.retained = ((c.line || c.link) && !c.power && !c.dip) ∧
      t.slp.sending = some ⟨false, reportFrame .none (startReport c t.slp.retained)⟩ ∧
      (t.slp.retained = true → t.configuration = s.configuration) ∧
      (t.slp.retained = false → t.Unconfigured) ∧
      ({ t with zones := t.zones.map fun x => { x with summary := .normal }, spurs := s.spurs } : State).Cleared ∧
      t.trunk = s.trunk ∧ t.pending = s.pending ∧ t.now = 0 ∧
      (∀ z : ZoneNo, (t.zones.get z).summary =
        if (t.zones.get z).configured = true ∧ ∃ d : ChanNo, t.channelZone d = some z then .fault else .normal) ∧
      (∀ v : VehNo, (t.vehicles.get v).periodAt =
        if (t.vehicles.get v).configured then some (10 * (t.vehicles.get v).period) else none) ∧
      (∀ p : SpurNo, (t.spurs.get p).broadcasts = (s.spurs.get p).broadcasts + 1 ∧ (t.spurs.get p).standby = false ∧
        (t.spurs.get p).counter = 0 ∧ (t.spurs.get p).fetches = []) ∧
      (let faults : List Report := ((List.finRange 8).filter fun g : SigNo => (s.signals.get g).openCircuit).map fun g =>
          ⟨.safety, 0x88, [BitVec.ofNat 8 (g.val + 1), 0x00]⟩
       ((∀ d : ChanNo, t.channelZone d = none) → t.slp.queue = faults) ∧
       ∀ (d : ChanNo) (z : ZoneNo), t.channelZone d = some z → (∀ e, e ≠ d → t.channelZone e = none) →
        (t.zones.get z).configured = true → (t.zones.get z).onFault = none →
        t.slp.queue = ⟨.safety, 0x82, num z ++ [0x00, 0x02] ++ named powerViews (t.zones.get z).view ++
          named powerViews (t.zones.get z).view ++ [0x00, 0x00]⟩ :: faults)) ∧
  ∀ s : State, s.slp.inReset = none → exec .resetEnd s = .next s

/-- A power-up and the end of its reset bring any operating part to the reset state, its waiting commands kept, when its inputs
stand at the levels of the reset state (log entry 4). A power-up during a reset joins its cause set (log entry 19), and the part
then resumes with those causes and without its configuration. -/
def Obligations.PowerUpThenEndIsReset : Prop :=
  (∀ s : State, s.slp.inReset = none →
    (∀ o : OutNo, (s.trips.get o).feedbackHigh = false ∧ (s.trips.get o).manualHigh = false) →
    (∀ g : SigNo, (s.signals.get g).openCircuit = false) →
    ∃ t, exec .powerUp s = .next t ∧ exec .resetEnd t = .next { State.reset with pending := s.pending }) ∧
  ∀ (s : State) (c : Causes), s.Stopped c →
    ∃ t u, exec .powerUp s = .next t ∧ exec .resetEnd t = .next u ∧ u.Unconfigured ∧ u.pending = s.pending ∧
      u.slp.causes = { c with power := true } ∧ u.slp.retained = false ∧
      u.slp.sending = some ⟨false, reportFrame .none (startReport { c with power := true } false)⟩

/-! ## Frames (R178 to R184) -/

/-- The check sequence of the nine digits 1 to 9 is 29B1 hexadecimal, sent low byte first. -/
def Obligations.CheckSequence : Prop :=
  crc16 [0x31, 0x32, 0x33, 0x34, 0x35, 0x36, 0x37, 0x38, 0x39] = 0x29B1#16 ∧
    checkBytes [0x31, 0x32, 0x33, 0x34, 0x35, 0x36, 0x37, 0x38, 0x39] = [0xB1, 0x29]

/-- The body that the layout gives a request is read back as that request, for every request whose fields fit their widths. -/
def Obligations.BodyRoundTrip : Prop := ∀ r : Request, r.wf = true → parseBody (encodeBody r) = .request r

/-- A host request command is the arrival of its frame: the bytes sync, kind REQUEST, tag, length, body and check, received one
after another in HUNT, leave the state that the command leaves. On a ready link that is the next state of the request's owner,
its reply formed: the code, the status and the fields. -/
def Obligations.CommandIsItsFrame : Prop :=
  ∀ (c : Instr) (tag : Byte) (r : Request) (s : State), c.frame? = some (tag, r) → r.wf = true →
    s.slp.inReset = none → s.slp.receiver = .hunt →
    exec (.frameReceived (buildFrame kindRequest tag (encodeBody r))) s = exec c s ∧
    (s.Ready → exec (.frameReceived (buildFrame kindRequest tag (encodeBody r))) s =
      .next ((s.handle r).state.answered tag (replyBody (requestCode r) (s.handle r))))

/-- What the receiver discards, silently, ending in HUNT: bytes before a sync byte; a frame of a kind other than REQUEST; a
length above 248; a check that does not match; a frame whose bytes stop coming. That a wrong kind ends the frame at its kind
byte is read from the order in which the fields are collected (log entry 17). -/
def Obligations.FramesDiscarded : Prop :=
  ∀ s : State, s.slp.inReset = none →
    exec .frameGapTimeout s = .next ({ s with slp := { s.slp with receiver := .hunt } }).beginSending ∧
    (s.slp.receiver = .hunt →
      (∀ bs : Bytes, syncByte ∉ bs → exec (.frameReceived bs) s = .next s.beginSending) ∧
      (∀ kind : Byte, kind ≠ kindRequest → exec (.frameReceived [syncByte, kind]) s = .next s.beginSending) ∧
      (∀ tag length : Byte, 248 < length.toNat →
        exec (.frameReceived [syncByte, kindRequest, tag, length]) s = .next s.beginSending) ∧
      ∀ (tag : Byte) (body check : Bytes), body.length ≤ 248 → check.length = 2 →
        check ≠ checkBytes (kindRequest :: tag :: BitVec.ofNat 8 body.length :: body) →
        exec (.frameReceived
            (syncByte :: kindRequest :: tag :: BitVec.ofNat 8 body.length :: (body ++ check))) s = .next s.beginSending)

/-- The transmitter when a frame has gone: a waiting reply goes out before every report, then the oldest report, which leaves
the queue and carries the loss marker, and the marker returns to NONE; with neither, the transmitter stays free. After a
reply the oldest received frame is handled first. After the reply of an accepted RESET a reset with cause LINK begins. -/
def Obligations.FrameSent : Prop :=
  ∀ s : State, s.slp.inReset = none →
    (∀ (x : Sending) (r : Reply), s.slp.sending = some x → x.isReply = false → s.slp.replySlot = some r →
      exec .frameSent s = .next { s with slp := { s.slp with replySlot := none, sending := some ⟨true, replyFrame r⟩ } }) ∧
    (∀ (x : Sending) (r : Report) (q : List Report), s.slp.sending = some x →
      (x.isReply = true → s.slp.buffer = [] ∧ s.slp.resetDue = false) → s.slp.replySlot = none → s.slp.queue = r :: q →
      exec .frameSent s = .next { s with slp :=
        { s.slp with queue := q, marker := .none, sending := some ⟨false, reportFrame s.slp.marker r⟩ } }) ∧
    (∀ x : Sending, s.slp.sending = some x →
      (x.isReply = true → s.slp.buffer = [] ∧ s.slp.resetDue = false) → s.slp.replySlot = none → s.slp.queue = [] →
      exec .frameSent s = .next { s with slp := { s.slp with sending := none } }) ∧
    (∀ (x : Sending) (tag : Byte) (r : Request) (rest : List Received), s.slp.sending = some x → x.isReply = true →
      s.slp.resetDue = false → s.slp.replySlot = none → s.slp.buffer = ⟨tag, .request r⟩ :: rest →
      ∀ a : Answer, ({ s with slp := { s.slp with sending := none, buffer := rest } } : State).handle r = a →
        exec .frameSent s = .next (a.state.answered tag (replyBody (requestCode r) a))) ∧
    (∀ x : Sending, s.slp.sending = some x → x.isReply = true → s.slp.resetDue = true →
      ∃ t, exec .frameSent s = .next t ∧ t.Stopped { link := true } ∧ t.pending = s.pending ∧
        t.configuration = { s.configuration with
          trips := s.trips.map fun x => { x.settings with waitPending := x.wait }, allotment := List.finRange 24 }) ∧
    (s.slp.sending = none → exec .frameSent s = .next s.beginSending)

/-- A produced report joins the end of the queue. A queue of 32 loses one report, which may be the newcomer: the oldest ROUTINE
report, and the marker becomes LOST unless it is LOST_SAFETY; without a ROUTINE report the oldest one, and the marker becomes
LOST_SAFETY. -/
def Obligations.ReportQueue : Prop :=
  ∀ (s : State) (r : Report),
    (s.slp.queue.length < 32 → s.report r = { s with slp := { s.slp with queue := s.slp.queue ++ [r] } }) ∧
    (s.slp.queue.length = 32 → ∃ (before : List Report) (x : Report) (after : List Report),
      s.slp.queue ++ [r] = before ++ x :: after ∧
      (x.cls = .routine ∧ (∀ y ∈ before, y.cls = .safety) ∧
          s.report r = { s with slp := { s.slp with
            queue := before ++ after, marker := if s.slp.marker = .lostSafety then .lostSafety else .lost } } ∨
        before = [] ∧ x.cls = .safety ∧ (∀ y ∈ after, y.cls = .safety) ∧
          s.report r = { s with slp := { s.slp with queue := after, marker := .lostSafety } }))

/-- A request frame that arrives while a reply is waiting or being sent joins the receive buffer when it holds fewer than two
frames; when it holds two, the new frame is discarded and LINK_OVERRUN reports its tag and request code. -/
def Obligations.RequestWaits : Prop :=
  ∀ (c : Instr) (tag : Byte) (r : Request) (s : State), c.frame? = some (tag, r) → s.slp.inReset = none →
    s.slp.replyPending = true →
    (s.slp.buffer.length < 2 → exec c s = .next ({ s with slp := { s.slp with
        receiver := .hunt, buffer := s.slp.buffer ++ [(⟨tag, .request r⟩ : Received)] } }).beginSending) ∧
    (2 ≤ s.slp.buffer.length → exec c s = .next
      (({ s with slp := { s.slp with receiver := .hunt } }).report ⟨.routine, 0x81, [tag, requestCode r]⟩).beginSending)

/-- The replies that the link port gives itself, which change nothing else: UNKNOWN_REQUEST (02) with the code echoed for a code
outside 01 to 30 hexadecimal, BAD_FRAME (01) with the code echoed for a body of another length than its code and count bytes
call for, and BAD_FRAME with code 0 for an empty body. What length a selector or presence byte outside its list calls for is
the model's choice (log entry 7). -/
def Obligations.MalformedRequestsAnswered : Prop :=
  ∀ (s : State) (tag : Byte), s.Ready →
    (∀ (code : Byte) (fields : Bytes), ¬(1 ≤ code.toNat ∧ code.toNat ≤ 0x30) →
      exec (.unknownRequestCode tag (code :: fields)) s = .next (s.answered tag [code, 0x02])) ∧
    exec (.malformedRequest tag []) s = .next (s.answered tag [0x00, 0x01]) ∧
    (∀ (code : Byte) (fields : Bytes), 1 ≤ code.toNat → code.toNat ≤ 0x30 →
      isBadFrame (code :: fields) = true →
      exec (.malformedRequest tag (code :: fields)) s = .next (s.answered tag [code, 0x01])) ∧
    (∀ (r : Request) (extra : Bytes), r.wf = true → extra ≠ [] →
      exec (.malformedRequest tag (encodeBody r ++ extra)) s = .next (s.answered tag [requestCode r, 0x01])) ∧
    ∀ (r : Request) (short : Bytes), r.wf = true → short ≠ [] → short <+: encodeBody r → short ≠ encodeBody r →
      exec (.malformedRequest tag short) s = .next (s.answered tag [requestCode r, 0x01])

/-- While a reset lasts the part does not operate: a command other than a cause, the end of the reset and the level of a pin
changes nothing (log entry 16). -/
def Obligations.ResetHoldsThePart : Prop :=
  ∀ (c : Instr) (s : State), s.slp.inReset.isSome = true →
    c ≠ .powerUp → c ≠ .supplyDip → c ≠ .resetPinLow → c ≠ .resetEnd →
    (∀ o h, c ≠ .feedbackChange o h ∧ c ≠ .manualEdge o h ∧ c ≠ .manualInputLeavesActiveLevel o h) →
    (∀ g b, c ≠ .faultSenseChange g b) → exec c s = .next s

/-! ## Refusals and reads -/

/-- A request refused by its owner, with whatever status, changes nothing but the reply. START_PROGRAM is apart: refused with
FULL it has been reported as dropped (R159). -/
def Obligations.RefusalChangesNothing : Prop :=
  ∀ (c : Instr) (tag : Byte) (r : Request) (s : State), c.frame? = some (tag, r) → s.Ready →
    (∀ t p z, c ≠ .startProgram t p z) → (s.handle r).status ≠ .ok →
    exec c s = .next (s.answered tag (replyBody (requestCode r) (s.handle r)))

/-- A read request changes nothing: it is answered OK with the fields of the item it names, as they stand, each reply's bytes
written out from the record. The order of the fields inside a reply is the model's where the manual lists items and not bytes
(log entries 8, 13, 14, 54), and so are the two party-lost deadlines of a call (57), none in a field of several parts (52), the
width of a wait entry's age (65), the check flags (70), a free entry's state (8) and the free values (6). -/
def Obligations.ReadsAnswer : Prop :=
  ∀ (s : State) (tag : Byte), s.Ready →
    let age (t : Option Time) : Bytes := presenceField wordField (t.map fun a => min 65535 ((s.now - a) / 10))
    let left (t : Option Time) : Bytes := presenceField wordField (t.map fun a => a - s.now)
    let party (t : Option Time) : Bytes := presenceField byteField (t.map fun a => a - s.now)
    let leg (l : Leg) : Bytes := num l.junction ++ byteField l.entry ++ byteField l.exit
    let waited (w : WaitEntry) : Bytes := byteField (min 255 (min 65535 ((s.now - w.joined) / 10)))
    let holder (h : Holder) : Bytes :=
      match h with
      | .call i => byteField 0 ++ byteField i
      | .burst v => byteField 1 ++ num v
      | .runner r => byteField 2 ++ num r
    (∀ z : ZoneNo,
      let x := s.zones.get z
      exec (.readZone tag (number z)) s = .next (s.answered tag ([0x04, 0x00] ++ (named configuredStates x.configured ++
        byteField x.key.val ++ optNum x.trip ++ optNum x.onAlarm ++ optNum x.onFault ++ optNum x.onTrip ++ optNum x.onEmergency ++
        named summaries x.summary ++ named powerViews x.view ++ named evacStates x.evac ++ byteField (x.occupancy.filter fun r =>
          (s.tags.get r).any fun t => t.state == .missing).length ++ listField num x.occupancy ++ listField num x.vehicles)))) ∧
    (∀ c : ChanNo,
      let x := s.channels.get c
      let source : Bytes :=
        match x.source with
        | none => Config.absentSource
        | some (.head r n) => byteField 0 ++ refField r ++ num n
        | some (.vehicle v) => byteField 1 ++ num v
      exec (.readChannel tag (number c)) s = .next (s.answered tag ([0x07, 0x00] ++ (named configuredStates x.configured ++
        named gasTypes x.gas ++ source ++ optNum x.zone ++ wordField x.zero ++ wordField x.span ++ wordField x.alert ++
        wordField x.alarm ++ wordField x.hysteresis ++ byteField x.filter ++ byteField x.rateInterval ++ wordField x.rise ++
        byteField x.stale ++ named qualifications x.qualification ++ named services x.service ++ optNum (s.channelZone c) ++
        named levels x.level ++ optNamed faultCauses x.cause ++ wordField x.f ++ wordField x.mark ++ byteField x.count ++
        named setClear x.riseSet ++ named setClear x.saturated ++ listField wordField x.window ++ age x.lastValid)))) ∧
    (∀ o : OutNo,
      let x := s.trips.get o
      let off := (x.feedbackHigh && x.sense == .offWhenHigh) || (!x.feedbackHigh && x.sense == .offWhenLow)
      let pressed := (x.edge == .falling && !x.manualHigh) || (x.edge == .rising && x.manualHigh)
      exec (.readTrip tag (number o)) s = .next (s.answered tag ([0x0B, 0x00] ++ (named tripModes x.mode ++ wordField x.wait ++
        byteField x.confirm ++ optNum x.backup ++ optNum x.warning ++ named manualEdges x.edge ++ named senses x.sense ++
        wordField x.waitPending ++ named tripStates x.state ++ optNamed tripCauses x.lastCause ++
        wordField (x.waitAt.elim 0 fun a => a - s.now) ++ byteField (x.confirmAt.elim 0 fun a => a - s.now) ++
        [Config.whether (x.state == .closed && x.confirmAt.isSome)] ++ optNum (x.origin.map Prod.fst) ++
        optNum (x.origin.map Prod.snd) ++ [if off then 0x00 else 0x01] ++ [if pressed then 0x00 else 0x01] ++
        listField num ((List.finRange 16).filter fun z => (s.zones.get z).configured && (s.zones.get z).trip == some o))))) ∧
    (∀ g : SigNo,
      let x := s.signals.get g
      let driver (d : Driver) : Bytes :=
        match d with
        | .runner r p u => byteField 0 ++ num r ++ named patterns p ++ byteField u
        | .warning o => byteField 1 ++ num o
      exec (.readSignal tag (number g)) s = .next (s.answered tag ([0x0C, 0x00] ++
        ([if x.drivers = [] then 0x01 else 0x00] ++ optNamed patterns x.shown ++ [if x.fault then 0x00 else 0x01] ++
          optNum (s.warningOf g) ++ listField driver x.drivers)))) ∧
    (∀ r : Roster,
      (s.tags.get r = none → exec (.readTag tag (number r)) s = .next (s.answered tag [0x11, 0x00, 0x04])) ∧
      ∀ t, s.tags.get r = some t → exec (.readTag tag (number r)) s = .next (s.answered tag ([0x11, 0x00] ++ (tagIdField t.id ++
        wordField t.absence ++ named tagStates t.state ++ optNum t.zone ++ optNum (t.cur.map DevRef.spur) ++
        optNum (t.cur.map DevRef.addr) ++ byteField t.strength ++ age t.lastHeard ++ age t.curHeard ++
        presenceField wordField (t.absentAt.map fun a => (a - s.now) / 10) ++ byteField (t.call.getD 0) ++
        named setClear t.page ++ named setClear t.emergency)))) ∧
    (∀ (i : Nat) (c : Call), 1 ≤ i → i ≤ 255 → s.callOf i = some c →
      exec (.readCall tag i) s = .next (s.answered tag ([0x14, 0x00] ++ (byteField c.id ++ Config.ordinalField c.creation ++
        named callKinds c.kind ++ partyField c.a ++ partyField c.b ++ named callStates c.state ++ s.optVoice c.chanA ++
        s.optVoice c.chanB ++ optNamed callClasses c.cls ++ optSlot c.slot ++ named setClear c.waiting ++ left c.deadline ++
        party c.lostA ++ party c.lostB)))) ∧
    exec (.readCall tag 0) s = .next (s.answered tag ([0x14, 0x00] ++
      listField (fun c => byteField c.id ++ named callKinds c.kind ++ named callStates c.state) s.calls)) ∧
    exec (.readTrunk tag) s = .next (s.answered tag ([0x16, 0x00] ++ (named trunkStates s.trunk.state ++
      byteField s.trunk.marks ++ byteField s.trunk.misses ++ listField (fun k => byteField (k.val + 8)) s.trunk.allotment ++
      listField (fun x => byteField (x.slot.val + 8) ++ holder x.holder ++ named trunkClasses x.cls) s.trunk.held ++
      listField (fun w => holder w.holder ++ named trunkClasses w.cls) s.trunk.queue))) ∧
    (∀ v : VehNo,
      let x := s.vehicles.get v
      let claim : Bytes := x.claim.elim [0x00] fun c =>
        listField (fun l => leg l ++ [if l.cleared then 0x00 else 0x01]) c.legs ++
          wordField (min 65535 ((s.now - c.granted) / 10)) ++ [Config.whether c.reported]
      let wait : Bytes := (s.waits.find? fun w => w.vehicle == v).elim [0x00] fun w => listField leg w.legs ++ waited w
      exec (.readVehicle tag (number v)) s = .next (s.answered tag ([0x1B, 0x00] ++ (named configuredStates x.configured ++
        tagIdField x.tagId ++ named vehicleKinds x.kind ++ wordField x.overstay ++ byteField x.period ++
        byteField x.firstQuarter.val ++ optNum (s.onboardChannel v) ++ named vehicleStates x.state ++ optNum x.zone ++
        optNum x.lastJunction ++ listField (named stopReasons) x.stop.toList ++ claim ++ wait ++ age x.lastRead)))) ∧
    (∀ j : JuncNo,
      let x := s.junctions.get j
      let held : Bytes :=
        match x.holder with
        | .none => [0x00]
        | .claim v => [0x01] ++ num v
        | .walk => [0x02]
        | .evacuation => [0x03]
      exec (.readJunction tag (number j)) s = .next (s.answered tag ([0x1C, 0x00] ++ (named configuredStates x.configured ++
        optNum x.zone ++ optRef x.beacon ++ byteField x.branches ++ byteField x.walk ++ named junctionStates x.state ++ held ++
        ((List.range x.branches).map fun b => if x.go = some (b + 1) then (0x00 : Byte) else 0x01) ++
        named setClear x.walkPending ++ left x.walkAt)))) ∧
    exec (.readJunction tag 0) s = .next (s.answered tag ([0x1C, 0x00] ++
      listField (fun w => num w.vehicle ++ waited w ++ listField leg w.legs) s.waits)) ∧
    (∀ v : VehNo,
      (s.bursts.get v = none → exec (.readBurst tag (number v)) s = .next (s.answered tag [0x1E, 0x00, 0x01])) ∧
      ∀ b, s.bursts.get v = some b →
        let gathering : Bytes := b.gatherEnd.elim [0x00] fun c => [0x01] ++ named gatherEnds c
        let forwarding : Bytes :=
          match b.forwarding with
          | .pending => [0x00]
          | .holding => [0x01]
          | .forwarded => [0x02]
          | .stopped c => [0x03] ++ named stopCauses c
        exec (.readBurst tag (number v)) s = .next (s.answered tag ([0x1E, 0x00] ++ (named burstOrigins b.origin ++
          byteField b.first.val ++ ([0, 1, 2, 3].flatMap fun i => byteField ((b.first.val + i) % 4)) ++
          named burstStates b.state ++ listField quarterField b.received ++ gathering ++
          presenceField (fun q => byteField q.1.val ++ refField q.2) b.outstanding ++ byteField b.misses ++
          byteField b.forwarded ++ forwarding ++ optSlot b.slot ++ optNum b.zoneAtQ1 ++ named setClear b.zoneChanged ++
          optNamed q1Outcomes b.outcome ++ left (s.vehicles.get v).periodAt)))) ∧
    (∀ n : StationNo,
      let x := s.stations.get n
      let strobes := x.configured && (!x.strobe.isEmpty || x.served.any fun z => (s.zones.get z).evac != .none)
      exec (.readStation tag (number n)) s = .next (s.answered tag ([0x21, 0x00] ++ (named configuredStates x.configured ++
        optNum x.zone ++ listField num x.served ++ optRef x.panel ++ optNum x.insideO2 ++ optNum x.insideCo ++
        optNum x.onActivated ++ optNum x.onDistress ++ named doors x.door ++ byteField x.headcount ++
        named latchedStates x.latched ++ [if x.online then 0x00 else 0x01] ++ [if strobes then 0x00 else 0x01] ++
        listField num x.strobe)))) ∧
    (∀ p : ProgNo,
      let x := s.programs.get p
      let used := (List.finRange 4).any (fun r => (s.runners.get r).state != .idle && (s.runners.get r).program == some p) ||
        s.startQueue.any fun q => q.req.program == p
      exec (.readProgram tag (number p)) s = .next (s.answered tag ([0x26, 0x00] ++ (num p ++ named definedStates x.defined ++
        byteField x.first ++ byteField x.urgency ++ byteField x.key.val ++ [Config.whether used])))) ∧
    (∀ first count : Nat, 1 ≤ count → count ≤ 32 → first + count ≤ 128 →
      let step (x : Step) : Bytes := named actions x.action ++ byteField x.zone ++ byteField x.item ++
        optNamed patterns x.pattern ++ byteField x.count ++ named setClear x.chain
      exec (.readSteps tag first count) s = .next (s.answered tag ([0x27, 0x00] ++
        listField step ((List.range count).filterMap fun i => s.stepAt (first + i))))) ∧
    (∀ r : RunnerNo,
      let x := s.runners.get r
      exec (.readRunner tag (number r)) s = .next (s.answered tag ([0x28, 0x00] ++ (named runnerStates x.state ++
        optNum x.program ++ optNum x.zone ++ optNamed startCauses x.cause ++ byteField (x.urgency.getD 0) ++
        presenceField (fun k : Key => byteField k.val) x.key ++ Config.ordinalField (x.startNo.getD 0) ++
        presenceField byteField x.current ++ byteField x.untimed ++ named setClear x.lastTransfer ++ checksField x.checks ++
        byteField (s.residual x) ++ presenceField byteField (x.slotWaitAt.map fun t => 100 - (t - s.now)) ++
        x.record.elim Config.absentRecord runStatusField)))) ∧
    exec (.readRunner tag 0) s = .next (s.answered tag ([0x28, 0x00] ++ listField (fun q =>
      num q.req.program ++ num q.req.zone ++ named startCauses q.req.cause ++ byteField q.urgency ++
        Config.timeField q.arrived) s.startQueue)) ∧
    (∀ e : EntryNo,
      let d := s.devices.get e
      let call : Bytes := d.zone.elim [0x00] fun z => num z ++ named setClear d.exitGate
      let bound : Bytes :=
        match d.kind with
        | .gasHead => (List.finRange 4).flatMap fun i => optNum (s.headChannel d.ref i)
        | .callPoint => []
        | .beacon => optNum (s.beaconJunction d.ref)
        | .refugePanel => optNum (s.panelStation d.ref)
      (d.configured = false → exec (.readDevice tag (number e)) s = .next (s.answered tag [0x2B, 0x00, 0x04])) ∧
      (d.configured = true → exec (.readDevice tag (number e)) s = .next (s.answered tag ([0x2B, 0x00] ++ (num d.ref.spur ++
        num d.ref.addr ++ named deviceKinds d.kind ++ call ++ bound ++ named deviceStates d.state ++ byteField d.misses ++
        optNamed missCauses d.lastMiss))))) ∧
    (∀ p : SpurNo,
      let x := s.spurs.get p
      exec (.readSpur tag (number p)) s = .next (s.answered tag ([0x2C, 0x00] ++ ([if x.standby then 0x00 else 0x01] ++
        byteField x.counter ++ listField (fun f => num f.vehicle) x.fetches ++ listField (fun e => num (s.devices.get e).ref.addr ++
          named deviceKinds (s.devices.get e).kind ++ named deviceStates (s.devices.get e).state) (s.pollList p))))) ∧
    exec (.readStatus tag) s = .next (s.answered tag ([0x30, 0x00] ++ (named modes s.slp.mode ++ causesField s.slp.causes ++
      [if s.slp.retained then 0x00 else 0x01] ++ byteField s.slp.buffer.length ++ byteField s.slp.queue.length)))

/-- A read of a number outside its table is answered BAD_VALUE (03), and a read of a call that is not in the table NOT_FOUND
(05); nothing else changes. -/
def Obligations.ReadsRefused : Prop :=
  ∀ (s : State) (tag : Byte) (k : Nat), s.Ready →
    (k = 0 ∨ 16 < k → exec (.readZone tag k) s = .next (s.answered tag [0x04, 0x03])) ∧
    (k = 0 ∨ 32 < k → exec (.readChannel tag k) s = .next (s.answered tag [0x07, 0x03])) ∧
    (k = 0 ∨ 6 < k → exec (.readTrip tag k) s = .next (s.answered tag [0x0B, 0x03])) ∧
    (k = 0 ∨ 8 < k → exec (.readSignal tag k) s = .next (s.answered tag [0x0C, 0x03])) ∧
    (k = 0 ∨ 64 < k → exec (.readTag tag k) s = .next (s.answered tag [0x11, 0x03])) ∧
    (1 ≤ k → k ≤ 255 → s.callOf k = none → exec (.readCall tag k) s = .next (s.answered tag [0x14, 0x05])) ∧
    (k = 0 ∨ 12 < k → exec (.readVehicle tag k) s = .next (s.answered tag [0x1B, 0x03])) ∧
    (24 < k → exec (.readJunction tag k) s = .next (s.answered tag [0x1C, 0x03])) ∧
    (k = 0 ∨ 12 < k → exec (.readBurst tag k) s = .next (s.answered tag [0x1E, 0x03])) ∧
    (k = 0 ∨ 4 < k → exec (.readStation tag k) s = .next (s.answered tag [0x21, 0x03])) ∧
    (k = 0 ∨ 32 < k → exec (.readProgram tag k) s = .next (s.answered tag [0x26, 0x03])) ∧
    (∀ first, 127 < first ∨ k = 0 ∨ 32 < k ∨ 128 < first + k →
      exec (.readSteps tag first k) s = .next (s.answered tag [0x27, 0x03])) ∧
    (4 < k → exec (.readRunner tag k) s = .next (s.answered tag [0x28, 0x03])) ∧
    (k = 0 ∨ 96 < k → exec (.readDevice tag k) s = .next (s.answered tag [0x2B, 0x03])) ∧
    (k = 0 ∨ 8 < k → exec (.readSpur tag k) s = .next (s.answered tag [0x2C, 0x03]))

/-! ## Zones (01_zone_table.md) -/

/-- SET_ZONE at the first check that fails, or accepted: a value outside its range, an undefined binding in RUN, a zone that R5
keeps CONFIGURED, an output that R4 does not let go; then every configuration field takes the value written. A zone that
becomes CONFIGURED or UNCONFIGURED has summary NORMAL, evacuation state NONE and empty lists. The power view of a zone that is
CONFIGURED follows its output (`updateView`; for a zone just configured a change from none, log entry 40); when the view written
already fits, nothing else changes. `updateView` whole: a view that stays changes nothing; a new view is stored and reported, and
then, when it becomes tripped, each shuttle and scoop present takes the reason TRIP, and when it leaves the tripped views each
vehicle present loses it (`addReason`, `removeReason`: StopAndReleaseVehicle), in list order. -/
def Obligations.SetZone : Prop :=
  (∀ (s : State) (tag : Byte) (f : ZoneFields), s.Ready →
    f.zone = 0 ∨ 16 < f.zone ∨ 1 < f.state ∨ 15 < f.key ∨ 6 < f.trip ∨ 32 < f.onAlarm ∨ 32 < f.onFault ∨ 32 < f.onTrip ∨
      32 < f.onEmergency →
    exec (.setZone tag f) s = .next (s.answered tag [0x01, 0x03])) ∧
  (∀ (s : State) (z : ZoneNo),
    let x := s.zones.get z
    let tripped (v : Option TripState) := v = some .opening ∨ v = some .opened ∨ v = some .unconfirmed
    ∀ new : Option TripState, (new = if x.configured then x.trip.map (fun o => (s.trips.get o).state) else none) →
      let told := (s.modZone z fun y => { y with view := new }).report ⟨.safety, 0x82,
        num z ++ named summaries x.summary ++ named summaries x.summary ++ named powerViews x.view ++ named powerViews new ++
          byteField x.occupancy.length ++ byteField (s.missingCount z)⟩
      (new = x.view → s.updateView z = s) ∧
      (new ≠ x.view → (tripped new ↔ tripped x.view) → s.updateView z = told) ∧
      (tripped new → ¬tripped x.view → s.updateView z =
        (x.vehicles.filter fun v => (s.vehicles.get v).kind != .service).foldl (fun t v => t.addReason v .trip) told) ∧
      (tripped x.view → ¬tripped new →
        s.updateView z = x.vehicles.foldl (fun t v => t.removeReason v .trip) told)) ∧
  ∀ (s : State) (tag : Byte) (z : ZoneNo) (cfg : Bool) (k : Key) (out : Option OutNo) (a f t e : Option ProgNo), s.Ready →
    let old := s.zones.get z
    let new : Zone := { configured := cfg, key := k, trip := out, onAlarm := a, onFault := f, onTrip := t, onEmergency := e }
    let c := Instr.setZone tag ⟨number z, if cfg then 0 else 1, k.val, optNo out, optNo a, optNo f, optNo t, optNo e⟩
    let undefined := s.slp.mode = .run ∧ ∃ p : ProgNo, (a = some p ∨ f = some p ∨ t = some p ∨ e = some p) ∧
      (s.programs.get p).defined = false
    let openOrHeld (o : Option OutNo) := ∀ p, o = some p → (s.trips.get p).state = .opened ∨ (s.trips.get p).state = .held
    let busy := old.configured = true ∧ cfg = false ∧ (s.inUse z = true ∨ old.evac ≠ .none ∨
      (∃ r : RunnerNo, (s.runners.get r).state ≠ .idle ∧ (s.runners.get r).zone = some z) ∨
      (∃ q ∈ s.startQueue, q.req.zone = z) ∨ ¬openOrHeld old.trip)
    let bound := if old.configured = false ∧ cfg = true then none else old.trip
    let stuck := bound ≠ out ∧ ¬(openOrHeld bound ∧ openOrHeld out)
    let rewritten := s.modZone z fun x => { x with
      key := k, trip := out, onAlarm := a, onFault := f, onTrip := t, onEmergency := e }
    (undefined → exec c s = .next (s.answered tag [0x01, 0x03])) ∧
    (¬undefined → busy → exec c s = .next (s.answered tag [0x01, 0x06])) ∧
    (¬undefined → ¬busy → stuck → exec c s = .next (s.answered tag [0x01, 0x08])) ∧
    (¬undefined → ¬busy → ¬stuck →
      (old.configured = true → cfg = true →
        exec c s = .next ((rewritten.updateView z).answered tag [0x01, 0x00])) ∧
      (old.configured = true → cfg = true → old.view = out.map (fun o => (s.trips.get o).state) →
        exec c s = .next (rewritten.answered tag [0x01, 0x00])) ∧
      (old.configured = false → cfg = true →
        exec c s = .next (((s.modZone z fun _ => new).updateView z).answered tag [0x01, 0x00])) ∧
      (old.configured = false → cfg = true → out = none →
        exec c s = .next ((s.modZone z fun _ => new).answered tag [0x01, 0x00])) ∧
      (cfg = false → exec c s = .next ((s.modZone z fun _ => new).answered tag [0x01, 0x00])))

/-- ORDER_EVACUATION: BAD_VALUE outside 1 to 16, NOT_FOUND for an UNCONFIGURED zone, nothing in ORDERED; otherwise the zone
becomes ORDERED with a report, the Haulage Controller places its holds when the zone leaves NONE (`hlcEvacuate`), and a zone whose
list is empty goes on to CLEARED with a second report. The holds: each vehicle present takes the reason EVACUATION, in list
order (`addReason`, which aborts what a vehicle held: StopAndReleaseVehicle); a claim that still stands on a junction of the zone
is aborted whole with cause EVACUATION_HOLD; then every CONFIGURED junction of the zone is held by the evacuation, every lamp STOP,
no walk pending or running; then release processing takes the junctions of other zones that the abort released (written out for no such
claim and for one vehicle's). Whatever claims stood, the junctions so held and the reasons so added stand in the state after. That
the first report stands before the holds and their reports, and the second after them, is the model's order (log entry 20). -/
def Obligations.OrderEvacuation : Prop :=
  (∀ (s : State) (tag : Byte), s.Ready →
    (∀ k : Nat, k = 0 ∨ 16 < k → exec (.orderEvacuation tag k) s = .next (s.answered tag [0x02, 0x03])) ∧
    ∀ z : ZoneNo,
      let old := s.zones.get z
      let c := Instr.orderEvacuation tag (number z)
      let reported := (s.modZone z fun x => { x with evac := .ordered }).reportEvacuation z old.evac .hostOrder
      let ordered := if old.evac = .none then reported.hlcEvacuate z else reported
      (old.configured = false → exec c s = .next (s.answered tag [0x02, 0x05])) ∧
      (old.configured = true → old.evac = .ordered → exec c s = .next (s.answered tag [0x02, 0x00])) ∧
      (old.configured = true → old.evac ≠ .ordered →
        (old.occupancy ≠ [] → exec c s = .next (ordered.answered tag [0x02, 0x00])) ∧
        (old.occupancy = [] → exec c s = .next
          (((ordered.modZone z fun x => { x with evac := .cleared }).reportEvacuation z .ordered .listEmpty).answered tag
            [0x02, 0x00])))) ∧
  ∀ (s : State) (z : ZoneNo),
    let stopped := (s.zones.get z).vehicles.foldl (fun t v => t.addReason v .evacuation) s
    let ours (j : JuncNo) := (s.junctions.get j).configured && (s.junctions.get j).zone == some z
    let held (t : State) := ((List.finRange 24).filter ours).foldl (fun u j => u.modJunction j fun y => { y with
      holder := .evacuation, go := none, walkPending := false, walkAt := none }) t
    let after := s.hlcEvacuate z
    ((∀ j v, ours j = true → (stopped.junctions.get j).holder ≠ .claim v) → after = held stopped) ∧
    (∀ (v : VehNo) (c : Claim), (stopped.vehicles.get v).claim = some c →
      (∃ j, ours j = true ∧ (stopped.junctions.get j).holder = .claim v) →
      (∀ j w, ours j = true → (stopped.junctions.get j).holder = .claim w → w = v) →
      let released := (c.legs.filter fun l => !l.cleared).map Leg.junction
      after = (held (stopped.abort v .evacuationHold).1).releaseAll
        (released.filter fun j => (s.junctions.get j).zone != some z)) ∧
    (∀ j, ours j = true → (after.junctions.get j).holder = .evacuation ∧ (after.junctions.get j).go = none ∧
      (after.junctions.get j).walkPending = false ∧ (after.junctions.get j).walkAt = none) ∧
    ∀ v ∈ (s.zones.get z).vehicles, (after.vehicles.get v).stop.evacuation = true

/-- LIFT_EVACUATION at the first check of R13 that fails, or accepted in ORDERED and in CLEARED, in both modes and with whatever
list: the state becomes NONE, an EVACUATION report with cause HOST_LIFT is produced, the Haulage Controller takes its holds back
(R14), and the reply is OK. Taking them back (`hlcLift`): each vehicle present loses the reason EVACUATION, in list order
(`removeReason`: StopAndReleaseVehicle); the junctions of the zone that the evacuation holds have no holder and every lamp at STOP;
then release processing takes them (`releaseAll`: HaulageExpiries), and with nobody waiting they stand free. A junction of the zone with
another holder, and a junction of another zone, is as it was. That the report stands before the release of the holds and its reports is
the model's order (log entry 20). -/
def Obligations.LiftEvacuation : Prop :=
  (∀ (s : State) (tag : Byte), s.Ready →
    (∀ n m : Nat, n = 0 ∨ 16 < n ∨ 15 < m → exec (.liftEvacuation tag n m) s = .next (s.answered tag [0x03, 0x03])) ∧
    ∀ (z : ZoneNo) (k : Key),
      let old := s.zones.get z
      let c := Instr.liftEvacuation tag (number z) k.val
      (old.configured = false → exec c s = .next (s.answered tag [0x03, 0x05])) ∧
      (old.configured = true → old.evac = .none → exec c s = .next (s.answered tag [0x03, 0x08])) ∧
      (old.configured = true → old.evac ≠ .none → old.key ≠ 0 → old.key ≠ k →
        exec c s = .next (s.answered tag [0x03, 0x04])) ∧
      (old.configured = true → old.evac ≠ .none → old.key = 0 ∨ old.key = k →
        exec c s = .next ((((s.modZone z fun x => { x with evac := .none }).reportEvacuation z old.evac .hostLift).hlcLift
          z).answered tag [0x03, 0x00]))) ∧
  ∀ (s : State) (z : ZoneNo),
    let eased := (s.zones.get z).vehicles.foldl (fun t v => t.removeReason v .evacuation) s
    let frees (j : JuncNo) := (s.junctions.get j).configured && (s.junctions.get j).zone == some z &&
      (s.junctions.get j).holder == .evacuation
    let freed := (List.finRange 24).filter frees
    let after := s.hlcLift z
    after = (freed.foldl (fun t j => t.modJunction j fun y => { y with holder := .none, go := none }) eased).releaseAll freed ∧
    (s.waits = [] → (∀ j, frees j = true → (s.junctions.get j).walkPending = false) →
      (∀ j, frees j = true → (after.junctions.get j).holder = .none ∧ (after.junctions.get j).go = none) ∧
      ∀ j, frees j = false → after.junctions.get j = s.junctions.get j) ∧
    ∀ v ∈ (s.zones.get z).vehicles, (after.vehicles.get v).stop.evacuation = false

/-! ## Air readings (02_air_readings.md) -/

/-- SET_CHANNEL at the first check of R23 that fails, or accepted. A number, a named value or a source outside its list or range,
an unknown source selector among them, is refused first. An accepted request: the
record holds the configuration written, its window, filter and marks empty, level FAULT with cause OUT_OF_SERVICE. When the zone
the channel is assigned to changes, the summary of the zone left is recomputed, then that of the zone joined (`recompute`:
SamplesAndFaults); then, when the channel has come into a qualifying state or qualifies in another zone, a demand goes to the output of
its zone (`demand`: TripDemand) and the starts that this brings are taken (`sendStart []`, log entry 50). Nothing follows when the
channel stays assigned to no zone. UNCONFIGURED gives every field its value after a reset that loses configuration (log entry 18). -/
def Obligations.SetChannel : Prop :=
  (∀ (s : State) (tag : Byte) (f : ChannelFields), s.Ready →
    let badSource := match f.source with
      | .head p a n => p = 0 ∨ 8 < p ∨ a = 0 ∨ 31 < a ∨ n = 0 ∨ 4 < n ∨ f.zone = 0 ∨ 16 < f.zone
      | .vehicle v => v = 0 ∨ 12 < v
      | .other _ => True
    f.channel = 0 ∨ 32 < f.channel ∨ 1 < f.state ∨ 3 < f.gas ∨ 2 < f.qualification ∨ badSource →
    exec (.setChannel tag f) s = .next (s.answered tag [0x05, 0x03])) ∧
  ∀ (s : State) (tag : Byte) (c : ChanNo) (cfg : Bool) (source : Source) (zone : ZoneNo) (x : Channel), s.Ready →
    x = { configured := true, gas := x.gas, source := some source,
          zone := match source with | .head .. => some zone | .vehicle _ => none,
          zero := x.zero, span := x.span, alert := x.alert, alarm := x.alarm, hysteresis := x.hysteresis, filter := x.filter,
          rateInterval := x.rateInterval, rise := x.rise, stale := x.stale, qualification := x.qualification } →
    let i := Instr.setChannel tag
      { channel := number c, state := if cfg then 0 else 1, gas := gasTypes.idxOf x.gas,
        source := match source with
          | .head r n => .head (number r.spur) (number r.addr) (number n)
          | .vehicle v => .vehicle (number v),
        zone := number zone, zero := x.zero, span := x.span, alert := x.alert, alarm := x.alarm, hysteresis := x.hysteresis,
        filter := x.filter, rateInterval := x.rateInterval, rise := x.rise, stale := x.stale,
        qualification := qualifications.idxOf x.qualification }
    let max := rangeMax x.gas
    let onVehicle := ∃ v, source = .vehicle v
    let fits := x.zero ≤ 1023 ∧ (1 ≤ x.span ∧ x.span ≤ 2000) ∧ x.alert ≤ max ∧ x.alarm ≤ max ∧ x.hysteresis ≤ max ∧
      (x.filter = 1 ∨ x.filter = 2 ∨ x.filter = 4 ∨ x.filter = 8) ∧ (2 ≤ x.rateInterval ∧ x.rateInterval ≤ 60) ∧
      x.rise ≤ max ∧ 1 ≤ x.stale ∧ (onVehicle → x.stale ≤ 120) ∧ (¬onVehicle → x.stale ≤ 60) ∧
      (x.gas = .ch4 ∨ x.gas = .co → 1 ≤ x.alert ∧ x.alert ≤ x.alarm ∧ x.hysteresis < x.alert) ∧
      (x.gas = .o2 ∨ x.gas = .air → x.alarm ≤ x.alert ∧ x.alert + x.hysteresis ≤ max ∧ x.rise = 0) ∧
      (onVehicle → x.gas = .ch4)
    let exists_ := match source with
      | .head r _ => ∃ e, s.deviceAt r = some e ∧ (s.devices.get e).kind = .gasHead
      | .vehicle v => (s.vehicles.get v).configured = true
    let taken := ∃ d : ChanNo, d ≠ c ∧ (s.channels.get d).configured = true ∧ (s.channels.get d).source = some source
    let homeless := ¬onVehicle ∧ (s.zones.get zone).configured = false
    let left := s.channelZone c
    let joined := match source with | .head .. => some zone | .vehicle v => s.listZone v
    let moved (t : State) (now : Option ZoneNo) : State :=
      if now = left then t
      else
        let u := left.elim t fun z => t.recompute sendStart z
        now.elim u fun z => u.recompute sendStart z
    let demands := x.qualification = .alarmOrFault ∧ ((s.channels.get c).qualifies = false ∨ joined ≠ left)
    let summed := moved (s.modChannel c fun _ => x) joined
    ((s.channels.get c).service = .inService → exec i s = .next (s.answered tag [0x05, 0x08])) ∧
    ((s.channels.get c).service = .outOfService →
      (cfg = false → exec i s = .next ((moved (s.modChannel c fun _ => {}) none).answered tag [0x05, 0x00])) ∧
      (cfg = false → s.channelZone c = none → exec i s = .next ((s.modChannel c fun _ => {}).answered tag [0x05, 0x00])) ∧
      (cfg = true → ¬fits → exec i s = .next (s.answered tag [0x05, 0x03])) ∧
      (cfg = true → fits → ¬exists_ → exec i s = .next (s.answered tag [0x05, 0x05])) ∧
      (cfg = true → fits → exists_ → taken → exec i s = .next (s.answered tag [0x05, 0x03])) ∧
      (cfg = true → fits → exists_ → ¬taken → homeless → exec i s = .next (s.answered tag [0x05, 0x05])) ∧
      (cfg = true → fits → exists_ → ¬taken → ¬homeless →
        (¬demands → exec i s = .next (summed.answered tag [0x05, 0x00])) ∧
        (demands → (∀ z, summed.channelZone c = some z → (summed.zones.get z).configured = false ∨
            (summed.zones.get z).trip = none) → exec i s = .next (summed.answered tag [0x05, 0x00])) ∧
        (demands → ∀ z o, summed.channelZone c = some z → (summed.zones.get z).configured = true →
          (summed.zones.get z).trip = some o →
          exec i s = .next ((sendStart [] (summed.demand o z c)).answered tag [0x05, 0x00]))) ∧
      (cfg = true → fits → exists_ → ¬taken → ∀ v, source = .vehicle v → s.listZone v = none → s.channelZone c = none →
        exec i s = .next ((s.modChannel c fun _ => x).answered tag [0x05, 0x00])))

/-- SET_SERVICE OUT and IN: BAD_VALUE outside 1 to 32, NOT_FOUND for an UNCONFIGURED channel, OK without effect when the channel
stands so already. OUT puts the channel in FAULT with cause OUT_OF_SERVICE, its stale timer stopped; a channel that was in FAULT
already is reported alone, another change is handed on (`handOn`: SamplesAndFaults), for a channel whose zone sends no start and
that does not come to qualify the whole next state: the CHANNEL report, then the ZONE report of its zone's new summary. IN gives the
cause of the channel's device, or NO_SAMPLE. -/
def Obligations.SetService : Prop :=
  ∀ (s : State) (tag : Byte), s.Ready →
    (∀ k : Nat, k = 0 ∨ 32 < k → exec (.setServiceOut tag k) s = .next (s.answered tag [0x06, 0x03]) ∧
      exec (.setServiceIn tag k) s = .next (s.answered tag [0x06, 0x03])) ∧
    ∀ c : ChanNo,
      let x := s.channels.get c
      let out := s.modChannel c fun y => { y with
        service := .outOfService, level := .fault, cause := some .outOfService, staleAt := none }
      let back (cause : FaultCause) := (s.modChannel c fun y => { y with
        service := .inService, cause := some cause }).reportChannel c .fault
      (x.configured = false → exec (.setServiceOut tag (number c)) s = .next (s.answered tag [0x06, 0x05]) ∧
        exec (.setServiceIn tag (number c)) s = .next (s.answered tag [0x06, 0x05])) ∧
      (x.configured = true → x.service = .outOfService →
        exec (.setServiceOut tag (number c)) s = .next (s.answered tag [0x06, 0x00])) ∧
      (x.configured = true → x.service = .inService →
        exec (.setServiceIn tag (number c)) s = .next (s.answered tag [0x06, 0x00]) ∧
        (x.level = .fault →
          exec (.setServiceOut tag (number c)) s = .next ((out.reportChannel c .fault).answered tag [0x06, 0x00])) ∧
        (x.level ≠ .fault →
          exec (.setServiceOut tag (number c)) s = .next ((out.handOn sendStart c x).answered tag [0x06, 0x00]) ∧
          ∀ z : ZoneNo, s.channelZone c = some z → (s.zones.get z).configured = true → (s.zones.get z).summary ≠ .fault →
            (∀ d, d ≠ c → s.channelZone d = some z → (s.channels.get d).level ≠ .alarm) → (s.zones.get z).onFault = none →
            x.qualification ≠ .alarmOrFault → exec (.setServiceOut tag (number c)) s =
              .next ((((out.reportChannel c x.level).modZone z fun y => { y with summary := .fault }).report ⟨.safety, 0x82,
                num z ++ named summaries (s.zones.get z).summary ++ [0x02] ++ named powerViews (s.zones.get z).view ++
                  named powerViews (s.zones.get z).view ++ s.countsField z⟩).answered tag [0x06, 0x00]))) ∧
      (x.configured = true → x.service = .outOfService →
        (∀ (r : DevRef) (n : Fin 4) (e : EntryNo), x.source = some (.head r n) → s.deviceAt r = some e →
          ((s.devices.get e).state = .offline →
            exec (.setServiceIn tag (number c)) s = .next ((back .deviceOffline).answered tag [0x06, 0x00])) ∧
          ((s.devices.get e).state = .standby →
            exec (.setServiceIn tag (number c)) s = .next ((back .standby).answered tag [0x06, 0x00])) ∧
          ((s.devices.get e).state = .online ∨ (s.devices.get e).state = .suspect →
            exec (.setServiceIn tag (number c)) s = .next ((back .noSample).answered tag [0x06, 0x00]))) ∧
        (∀ v : VehNo, x.source = some (.vehicle v) →
          exec (.setServiceIn tag (number c)) s = .next ((back .noSample).answered tag [0x06, 0x00])))

/-- The conversion of an accepted raw value: rejected below −100 from the zero, 0 up to the zero, then the difference times span
over 4000, a half rounding up, held at the range maximum with OVER set. -/
def Obligations.SampleConversion : Prop :=
  ∀ (x : Channel) (raw : Nat), x.zero ≤ 1023 → raw ≤ 4079 →
    let d : Int := (raw : Int) - x.zero
    let v := (d.toNat * x.span + 2000) / 4000
    (d < -100 → x.convert raw = none) ∧
    (-100 ≤ d → d ≤ 0 → x.convert raw = some (0, false)) ∧
    (1 ≤ d → v ≤ rangeMax x.gas → x.convert raw = some (v, false)) ∧
    (1 ≤ d → rangeMax x.gas < v → x.convert raw = some (rangeMax x.gas, true))

/-- R35 and R36, whole: a valid sample on a channel in NORMAL, ALERT or ALARM is graded at the first row that matches, on the new
filtered value and RISE, and the level stays when no row matches; the last valid sample time is the sample's and the stale
timer starts again. -/
def Obligations.LevelGrading : Prop :=
  ∀ (x : Channel) (now v : Nat) (sat : Bool), x.level ≠ .fault →
    let y := x.enter now v sat
    let from_ := x.level
    (y.lastValid = some now ∧ y.staleAt = some (now + 10 * x.stale)) ∧
    (x.gas = .ch4 ∨ x.gas = .co →
      let alarmed := y.riseSet = true ∨ x.alarm ≤ y.f
      let low := y.f + x.hysteresis < x.alert
      (alarmed → y.level = .alarm) ∧
      (¬alarmed → from_ = .normal → x.alert ≤ y.f → y.level = .alert) ∧
      (¬alarmed → from_ = .normal → y.f < x.alert → y.level = .normal) ∧
      (¬alarmed → from_ = .alert → low → y.level = .normal) ∧
      (¬alarmed → from_ = .alert → ¬low → y.level = .alert) ∧
      (¬alarmed → from_ = .alarm → low → y.level = .normal) ∧
      (¬alarmed → from_ = .alarm → ¬low → y.f + x.hysteresis < x.alarm → y.level = .alert) ∧
      (¬alarmed → from_ = .alarm → ¬low → x.alarm ≤ y.f + x.hysteresis → y.level = .alarm)) ∧
    (x.gas = .o2 ∨ x.gas = .air →
      let high := x.alert + x.hysteresis ≤ y.f
      (y.riseSet = x.riseSet) ∧
      (y.f ≤ x.alarm → y.level = .alarm) ∧
      (x.alarm < y.f → from_ = .normal → y.f ≤ x.alert → y.level = .alert) ∧
      (x.alarm < y.f → from_ = .normal → x.alert < y.f → y.level = .normal) ∧
      (x.alarm < y.f → from_ = .alert → high → y.level = .normal) ∧
      (x.alarm < y.f → from_ = .alert → ¬high → y.level = .alert) ∧
      (x.alarm < y.f → from_ = .alarm → high → y.level = .normal) ∧
      (x.alarm < y.f → from_ = .alarm → ¬high → x.alarm + x.hysteresis ≤ y.f → y.level = .alert) ∧
      (x.alarm < y.f → from_ = .alarm → ¬high → y.f < x.alarm + x.hysteresis → y.level = .alarm))

/-- The window keeps the latest N values and f is their mean, a half rounding up; the first valid sample of a channel in FAULT
empties the window, takes f, the rate mark and a fresh grade from its value alone, and clears the cause. -/
def Obligations.SampleEntered : Prop :=
  ∀ (x : Channel) (now v : Nat) (sat : Bool),
    let y := x.enter now v sat
    y.saturated = sat ∧
    (x.level = .fault → y.window = [v] ∧ y.f = v ∧ y.mark = v ∧ y.count = 0 ∧ y.riseSet = false ∧ y.cause = none ∧
      (x.gas = .ch4 ∨ x.gas = .co →
        y.level = if x.alarm ≤ v then .alarm else if x.alert ≤ v then .alert else .normal) ∧
      (x.gas = .o2 ∨ x.gas = .air →
        y.level = if v ≤ x.alarm then .alarm else if v ≤ x.alert then .alert else .normal)) ∧
    (x.level ≠ .fault → x.window.length ≤ x.filter → 1 ≤ x.filter →
      (x.window.length < x.filter → y.window = x.window ++ [v]) ∧
      (x.window.length = x.filter → y.window = x.window.tail ++ [v]) ∧
      y.f = (y.window.sum + y.window.length / 2) / y.window.length ∧
      (isRising x.gas = true → 0 < x.rise →
        (x.count + 1 < x.rateInterval → y.count = x.count + 1 ∧ y.mark = x.mark ∧ y.riseSet = x.riseSet) ∧
        (x.count + 1 = x.rateInterval →
          y.count = 0 ∧ y.mark = y.f ∧ (y.riseSet = true ↔ x.mark + x.rise ≤ y.f))))

/-- R42, whole: which channels are in a qualifying state, and the answer for a zone. -/
def Obligations.QualifyingState : Prop :=
  (∀ x : Channel, x.qualifies = true ↔ x.configured = true ∧
    (x.qualification = .alarm ∧ x.level = .alarm ∨
      x.qualification = .alarmOrFault ∧ (x.level = .alarm ∨ x.level = .fault))) ∧
  ∀ (s : State) (z : ZoneNo), s.zoneQualifies z = true ↔
    ∃ c : ChanNo, s.channelZone c = some z ∧ (s.channels.get c).qualifies = true

/-- A fault event: nothing on a channel OUT of service or in FAULT with that cause; another cause on a channel in FAULT is reported
alone; a channel that was not in FAULT is handed on. A sample is rejected by its head's status or a fault code, by a value
below the band, or entered; a change of level alone is handed on. The four raw values of a head's reply go to the channels that
name its inputs, in input order, one after another. The stale expiry is such an event,
taken at its moment or later; with the timer stopped it is no event. Handing on: the CHANNEL report; the summary of the channel's zone
recomputed; a demand at the zone's output when the channel has come to qualify; then the Refuge Monitor. A recomputation takes the
highest-ranked level of the zone's channels, ALARM above FAULT above ALERT; a change is stored and reported, and then the start
of on_alarm goes out at an entry into ALARM, of on_fault at an entry into FAULT from below. That the demand goes before the starts which
the outputs send is read from R48 (log entry 50), and that a report stands before what follows from it is the model's order (log entry
20). -/
def Obligations.SamplesAndFaults : Prop :=
  (∀ (s : State) (z : ZoneNo) (new : Summary),
    let x := s.zones.get z
    let has (l : Level) := ∃ d : ChanNo, s.channelZone d = some z ∧ (s.channels.get d).level = l
    (new = .alarm ∧ has .alarm ∨ new = .fault ∧ ¬has .alarm ∧ has .fault ∨
      new = .alert ∧ ¬has .alarm ∧ ¬has .fault ∧ has .alert ∨
      new = .normal ∧ ¬has .alarm ∧ ¬has .fault ∧ ¬has .alert) →
    let told := (s.modZone z fun y => { y with summary := new }).report ⟨.safety, 0x82,
      num z ++ named summaries x.summary ++ named summaries new ++ named powerViews x.view ++ named powerViews x.view ++
        byteField x.occupancy.length ++ byteField (s.missingCount z)⟩
    let starts (p : Option ProgNo) (c : StartCause) := p.elim told fun q => sendStart [⟨q, z, c⟩] told
    let after := s.recompute sendStart z
    (x.configured = false ∨ new = x.summary → after = s) ∧
    (x.configured = true → new ≠ x.summary →
      (new = .alarm → after = starts x.onAlarm .zoneAlarm) ∧
      (new = .fault → x.summary ≠ .alarm → after = starts x.onFault .zoneFault) ∧
      (new = .fault ∧ x.summary = .alarm ∨ new = .alert ∨ new = .normal → after = told))) ∧
  (∀ (s : State) (c : ChanNo) (x : Channel),
    let y := s.channels.get c
    let told := s.report ⟨.safety, 0x84, num c ++ optNum (s.channelZone c) ++ named levels x.level ++ named levels y.level ++
      optNamed faultCauses y.cause ++ wordField y.f ++ named setClear y.riseSet ++ named setClear y.saturated⟩
    let summed := (s.channelZone c).elim told fun z => told.recompute sendStart z
    let demands := y.qualifies = true ∧ x.qualifies = false
    let after := s.handOn sendStart c x
    (¬demands → after = summed.rfmChannel sendStart c x.level y.level) ∧
    (demands → (∀ z, summed.channelZone c = some z → (summed.zones.get z).configured = false ∨ (summed.zones.get z).trip = none) →
      after = summed.rfmChannel sendStart c x.level y.level) ∧
    (demands → ∀ z o, summed.channelZone c = some z → (summed.zones.get z).configured = true →
      (summed.zones.get z).trip = some o →
      after = (sendStart [] (summed.demand o z c)).rfmChannel sendStart c x.level y.level)) ∧
  (∀ (s : State) (c : ChanNo) (cause : FaultCause),
    let x := s.channels.get c
    let faulted := s.modChannel c fun y => { y with level := .fault, cause := some cause, staleAt := none }
    (x.service = .outOfService → s.faultEvent sendStart c cause = s ∧
      ∀ st raw, s.sample sendStart c st raw = s) ∧
    (x.service = .inService →
      (x.level = .fault → x.cause = some cause → s.faultEvent sendStart c cause = s) ∧
      (x.level = .fault → x.cause ≠ some cause → s.faultEvent sendStart c cause = faulted.reportChannel c .fault) ∧
      (x.level ≠ .fault → s.faultEvent sendStart c cause = faulted.handOn sendStart c x) ∧
      ∀ raw : Nat,
        (∀ st, st = .fault ∨ 4080 ≤ raw → s.sample sendStart c st raw = s.faultEvent sendStart c .head) ∧
        (raw ≤ 4079 → s.sample sendStart c .warming raw = s.faultEvent sendStart c .warmup) ∧
        (raw ≤ 4079 → x.convert raw = none → s.sample sendStart c .ok raw = s.faultEvent sendStart c .underRange) ∧
        ∀ v sat, raw ≤ 4079 → x.convert raw = some (v, sat) →
          let entered := s.modChannel c fun y => y.enter s.now v sat
          (((x.enter s.now v sat).level = x.level) → s.sample sendStart c .ok raw = entered) ∧
          ((x.enter s.now v sat).level ≠ x.level → s.sample sendStart c .ok raw = entered.handOn sendStart c x))) ∧
  (∀ (s : State) (r : DevRef) (st : HeadStatus) (a b c d : Nat),
    let takes (t : State) (n : Fin 4) (raw : Nat) : State :=
      match t.headChannel r n with
      | some ch => t.sample sendStart ch st raw
      | none => t
    s.headReply sendStart r st [a, b, c, d] = takes (takes (takes (takes s 0 a) 1 b) 2 c) 3 d) ∧
  ∀ (s : State) (c : ChanNo), s.slp.inReset = none →
    let x := s.channels.get c
    (x.staleAt = none → exec (.staleExpiry c) s = .next s.beginSending) ∧
    ∀ t, x.staleAt = some t →
      exec (.staleExpiry c) s = .next ((s.reach t).faultEvent sendStart c .stale).beginSending ∧
      (x.service = .inService → x.level ≠ .fault → s.channelZone c = none →
        exec (.staleExpiry c) s = .next ((((s.reach t).modChannel c fun y => { y with
          level := .fault, cause := some .stale, staleAt := none }).reportChannel c x.level).beginSending))

/-! ## Trip and signal outputs (03_trip_and_signal_outputs.md) -/

/-- TRIP: BAD_VALUE outside T1 to T6, WRONG_MODE in HELD, OK without effect in OPENING, OPEN and UNCONFIRMED. In CLOSED and
WAITING the output opens with cause HOST (`openTrip`), and the starts that this sends are then taken (`settle`: StartProgram). For an
output that no zone is bound to and that warns nothing the whole next state. A change of an output to a state other than WAITING
(`moveTrip`), whole: the record with its timers; the TRIP report; the wait origin gone; the output's warning out of its driver set;
then each bound zone, in ascending number, follows with its view, its ZONE report and its TRIP reasons (`updateView`: SetZone), and
an on_trip start is sent when the view becomes OPENING. Opening is that change to OPENING, and on to OPEN when the feedback already
reads POWER_OFF. That the Alarm Program Unit takes the starts once the outputs have taken their whole input is read from R48 (log
entries 5, 50). -/
def Obligations.TripRequest : Prop :=
  (∀ (s : State) (tag : Byte), s.Ready →
    (∀ k : Nat, k = 0 ∨ 6 < k → exec (.trip tag k) s = .next (s.answered tag [0x09, 0x03])) ∧
    ∀ o : OutNo,
      let x := s.trips.get o
      let i := Instr.trip tag (number o)
      let opening := ((s.modTrip o fun t => { t with
        state := .opening, lastCause := some .host, waitAt := none, confirmAt := some (s.now + t.confirm) }).reportTrip o x.state .host).modTrip o fun t => { t with origin := none }
      let opened := (opening.modTrip o fun t => { t with
        state := .opened, lastCause := some .feedbackOff, confirmAt := none }).reportTrip o .opening .feedbackOff
      (x.state = .held → exec i s = .next (s.answered tag [0x09, 0x08])) ∧
      (x.state = .opening ∨ x.state = .opened ∨ x.state = .unconfirmed → s.handOffs = [] →
        exec i s = .next (s.answered tag [0x09, 0x00])) ∧
      (x.state = .closed ∨ x.state = .waiting →
        exec i s = .next ((s.openTrip o .host).settle.answered tag [0x09, 0x00]) ∧
        (s.boundZones o = [] → x.warning = none → s.handOffs = [] →
          (x.powerOff = false → exec i s = .next (opening.answered tag [0x09, 0x00])) ∧
          (x.powerOff = true → exec i s = .next (opened.answered tag [0x09, 0x00]))))) ∧
  (∀ (s : State) (o : OutNo) (new : TripState) (cause : TripCause), new ≠ .waiting →
    let x := s.trips.get o
    let origin := if cause = .waitExpired ∨ cause = .abandoned then x.origin else none
    let changed := (s.modTrip o fun t => { t with
      state := new, lastCause := some cause, waitAt := none
      confirmAt := if new = .opening ∨ cause = .restore then some (s.now + t.confirm) else none }).report ⟨.safety, 0x85,
        num o ++ named tripStates x.state ++ named tripStates new ++ named tripCauses cause ++ optNum (origin.map Prod.fst) ++
          optNum (origin.map Prod.snd) ++ [if x.powerOff then 0x00 else 0x01] ++ wordField x.wait⟩
    let left := changed.modTrip o fun t => { t with origin := none }
    let quiet := x.warning.elim left fun g =>
      if .warning o ∈ (s.signals.get g).drivers then left.changeDrivers g fun l => l.filter fun d => d != .warning o else left
    let bound := (List.finRange 16).filter fun z => (s.zones.get z).configured && (s.zones.get z).trip == some o
    s.moveTrip o new cause = bound.foldl State.followOutput quiet) ∧
  (∀ (s : State) (z : ZoneNo) (o : OutNo), (s.zones.get z).configured = true → (s.zones.get z).trip = some o →
    let x := s.zones.get z
    let seen := s.updateView z
    let opens := (s.trips.get o).state = .opening ∧ x.view ≠ some .opening
    (¬opens ∨ x.onTrip = none → s.followOutput z = seen) ∧
    (opens → ∀ p, x.onTrip = some p → s.followOutput z = { seen with handOffs := seen.handOffs ++ [⟨p, z, .zoneTrip⟩] })) ∧
  ∀ (s : State) (o : OutNo) (cause : TripCause),
    let moved := s.moveTrip o .opening cause
    ((s.trips.get o).powerOff = false → s.openTrip o cause = moved) ∧
    ((s.trips.get o).powerOff = true → s.openTrip o cause = moved.moveTrip o .opened .feedbackOff)

/-- RESTORE at the first check of R57 that fails, or accepted: CLOSED with cause RESTORE (`moveTrip`: TripRequest), and close
confirmation runs for the confirm time unless the feedback reads POWER_ON at once. For an output that no zone is bound to, the whole
next state. -/
def Obligations.RestoreRequest : Prop :=
  ∀ (s : State) (tag : Byte), s.Ready →
    (∀ n m : Nat, n = 0 ∨ 6 < n ∨ 15 < m → exec (.restore tag n m) s = .next (s.answered tag [0x0A, 0x03])) ∧
    ∀ (o : OutNo) (k : Key),
      let x := s.trips.get o
      let i := Instr.restore tag (number o) k.val
      let bound (z : ZoneNo) := (s.zones.get z).configured = true ∧ (s.zones.get z).trip = some o
      let ready := x.state = .opened ∨ x.state = .unconfirmed
      let locked := ∃ z, bound z ∧ (s.zones.get z).key ≠ 0 ∧ (s.zones.get z).key ≠ k
      let barred := (∃ z, bound z ∧ (s.zoneQualifies z = true ∨ (s.zones.get z).evac ≠ .none)) ∨
        (x.edge = .falling ∧ x.manualHigh = false) ∨ (x.edge = .rising ∧ x.manualHigh = true)
      let closed := (s.modTrip o fun t => { t with
        state := .closed, lastCause := some .restore, waitAt := none, confirmAt := some (s.now + t.confirm) }).reportTrip o x.state .restore
      (¬ready → exec i s = .next (s.answered tag [0x0A, 0x08])) ∧
      (ready → locked → exec i s = .next (s.answered tag [0x0A, 0x04])) ∧
      (ready → ¬locked → barred → exec i s = .next (s.answered tag [0x0A, 0x09])) ∧
      (ready → ¬locked → ¬barred →
        exec i s = .next (((s.moveTrip o .closed .restore).modTrip o fun t => { t with
          confirmAt := if x.powerOff then t.confirmAt else none }).answered tag [0x0A, 0x00]) ∧
        (s.boundZones o = [] → x.warning = none →
          exec i s = .next ((closed.modTrip o fun t => { t with
            origin := none, confirmAt := if x.powerOff then t.confirmAt else none }).answered tag [0x0A, 0x00])))

/-- SET_TRIP at the first check of R60 that fails, a value outside its range or list first, or accepted: every field takes its value, in WAITING W goes to the pending W
alone and in every other state to both; the feedback is read again under the new sense. When its reading does not change,
nothing else does; when it does, that is the feedback's event (FeedbackChange), and the starts it sends are then taken (log entry 50). -/
def Obligations.SetTrip : Prop :=
  (∀ (s : State) (tag : Byte) (f : TripFields), s.Ready →
    f.output = 0 ∨ 6 < f.output ∨ 1 < f.mode ∨ 2 < f.edge ∨ 1 < f.sense ∨ 300 < f.wait ∨ f.confirm < 5 ∨ 100 < f.confirm ∨
      6 < f.backup ∨ 8 < f.warning →
    exec (.setTrip tag f) s = .next (s.answered tag [0x08, 0x03])) ∧
  ∀ (s : State) (tag : Byte) (o : OutNo) (m : TripMode) (w c : Nat) (b : Option OutNo) (g : Option SigNo) (e : ManualEdge)
    (d : Sense), s.Ready →
    let x := s.trips.get o
    let i := Instr.setTrip tag ⟨number o, tripModes.idxOf m, w, c, optNo b, optNo g, manualEdges.idxOf e, senses.idxOf d⟩
    let inRange := w ≤ 300 ∧ 5 ≤ c ∧ c ≤ 100
    let taken := b = some o ∨ ∃ q : OutNo, ∃ n : SigNo, q ≠ o ∧ g = some n ∧ (s.trips.get q).warning = some n
    let waits := x.state = .waiting ∧ (m ≠ x.mode ∨ g ≠ x.warning)
    let wired := x.state ≠ .held ∧ x.state ≠ .opened ∧ (e ≠ x.edge ∨ d ≠ x.sense)
    let write (t : Trip) : Trip := { t with
      mode := m, waitPending := w, wait := if x.state = .waiting then t.wait else w, confirm := c, backup := b,
      warning := g, edge := e, sense := d }
    (¬inRange → exec i s = .next (s.answered tag [0x08, 0x03])) ∧
    (inRange → taken → exec i s = .next (s.answered tag [0x08, 0x03])) ∧
    (inRange → ¬taken → waits → exec i s = .next (s.answered tag [0x08, 0x08])) ∧
    (inRange → ¬taken → ¬waits → wired → exec i s = .next (s.answered tag [0x08, 0x08])) ∧
    (inRange → ¬taken → ¬waits → ¬wired →
      ((write x).powerOff = x.powerOff → s.handOffs = [] →
        exec i s = .next ((s.modTrip o write).answered tag [0x08, 0x00])) ∧
      ((write x).powerOff ≠ x.powerOff → x.state = .held → s.handOffs = [] →
        exec i s = .next ((s.modTrip o write).answered tag [0x08, 0x00])) ∧
      ((write x).powerOff ≠ x.powerOff → x.state = .opened →
        (x.powerOff = true → exec i s =
          .next (((s.modTrip o write).unconfirm o .feedbackOn).settle.answered tag [0x08, 0x00])) ∧
        (x.powerOff = false → s.handOffs = [] → exec i s = .next ((s.modTrip o write).answered tag [0x08, 0x00]))))

/-- A trip demand: nothing outside CLOSED; DIRECT opens the output; DELAYED goes to WAITING with the pending W loaded into the
working W and the wait timer, the demand's zone and channel as wait origin. With W above 0 the warning joins the drivers of the
warning output, if there is one, and the power view of every bound zone becomes WAITING. A W of 0 is tested at once, the warning output as it
was (log entry 28): with a bound zone that qualifies the output opens with cause WAIT_EXPIRED, otherwise it returns to CLOSED with cause ABANDONED,
TRIP_ABANDONED after all that the change brings (log entry 29). The starts that these changes send stay in `handOffs` until the outputs
have taken the demand (log entry 50); `openTrip` and `moveTrip` are written out in TripRequest. -/
def Obligations.TripDemand : Prop :=
  ∀ (s : State) (o : OutNo) (z : ZoneNo) (c : ChanNo),
    let x := s.trips.get o
    (x.state ≠ .closed → s.demand o z c = s) ∧
    (x.state = .closed → x.mode = .direct → s.demand o z c = s.openTrip o .demand) ∧
    (x.state = .closed → x.mode = .delayed →
      let after := s.demand o z c
      let waiting := (s.modTrip o fun t => { t with
        state := .waiting, lastCause := some .demand, wait := t.waitPending, origin := some (z, c)
        waitAt := if t.waitPending = 0 then none else some (s.now + t.waitPending)
        confirmAt := none }).reportTrip o .closed .demand
      let warned := x.warning.elim waiting fun g =>
        if .warning o ∈ (s.signals.get g).drivers then waiting else waiting.changeDrivers g fun l => l ++ [.warning o]
      (0 < x.waitPending →
        after = warned.forEach (s.boundZones o) State.updateView ∧
        (∀ g, x.warning = some g → .warning o ∈ (after.signals.get g).drivers) ∧
        ∀ y ∈ s.boundZones o, (after.zones.get y).view = some .waiting) ∧
      (x.waitPending = 0 → (∀ g, x.warning = some g → .warning o ∉ (s.signals.get g).drivers) →
        let tested := waiting.forEach (s.boundZones o) State.updateView
        ((∃ y ∈ s.boundZones o, s.zoneQualifies y = true) → after = tested.openTrip o .waitExpired) ∧
        ((∀ y ∈ s.boundZones o, s.zoneQualifies y = false) →
          after = (tested.moveTrip o .closed .abandoned).reportTripAbandoned o (some (z, c)))))

/-- The expiry of a wait: with a channel of a bound zone in a qualifying state the output opens with cause WAIT_EXPIRED; otherwise
it returns to CLOSED with cause ABANDONED, and TRIP_ABANDONED follows the TRIP report, the warning's end and the ZONE reports: that
it stands after these is the model's order (log entry 29). The starts sent are then taken (`settle`, log entry 50). An output not in
WAITING, or whose timer is stopped, has no expiry. `openTrip` and `moveTrip` are written out in TripRequest. -/
def Obligations.WaitExpiry : Prop :=
  ∀ (s : State) (o : OutNo), s.slp.inReset = none →
    let x := s.trips.get o
    (x.state ≠ .waiting ∨ x.waitAt = none → exec (.waitExpiry o) s = .next s.beginSending) ∧
    ∀ t, x.state = .waiting → x.waitAt = some t →
      let qualified := ∃ z, (s.zones.get z).configured = true ∧ (s.zones.get z).trip = some o ∧ s.zoneQualifies z = true
      (qualified →
        exec (.waitExpiry o) s = .next ((s.reach t).openTrip o .waitExpired).settle.beginSending) ∧
      (¬qualified → exec (.waitExpiry o) s =
        .next (((s.reach t).moveTrip o .closed .abandoned).reportTripAbandoned o x.origin).settle.beginSending) ∧
      (s.boundZones o = [] → x.warning = none → s.handOffs = [] → exec (.waitExpiry o) s =
        .next ((((((s.reach t).modTrip o fun y => { y with
          state := .closed, lastCause := some .abandoned, waitAt := none, confirmAt := none }).reportTrip o .waiting .abandoned).modTrip o fun y => { y with
            origin := none }).reportTripAbandoned o x.origin).beginSending))

/-- The confirm timer of an output in OPENING runs out: UNCONFIRMED with cause CONFIRM_TIMEOUT, then its backup is opened
(`unconfirm`: FeedbackChange), and the starts sent are then taken (log entry 50). Close confirmation of an output in CLOSED runs out:
CLOSE_UNCONFIRMED is reported and the state stays. Without a running timer neither is an event. -/
def Obligations.ConfirmExpiries : Prop :=
  ∀ (s : State) (o : OutNo), s.slp.inReset = none →
    let x := s.trips.get o
    (x.state ≠ .opening ∨ x.confirmAt = none → exec (.confirmExpiry o) s = .next s.beginSending) ∧
    (x.state ≠ .closed ∨ x.confirmAt = none → exec (.closeConfirmExpiry o) s = .next s.beginSending) ∧
    ∀ t, x.confirmAt = some t →
      (x.state = .opening →
        exec (.confirmExpiry o) s = .next ((s.reach t).unconfirm o .confirmTimeout).settle.beginSending ∧
        (s.boundZones o = [] → x.warning = none → x.backup = none → s.handOffs = [] → exec (.confirmExpiry o) s =
          .next (((((s.reach t).modTrip o fun y => { y with
            state := .unconfirmed, lastCause := some .confirmTimeout, waitAt := none, confirmAt := none }).reportTrip o .opening .confirmTimeout).modTrip o fun y => { y with
              origin := none }).beginSending))) ∧
      (x.state = .closed → exec (.closeConfirmExpiry o) s =
        .next ((((s.reach t).modTrip o fun y => { y with confirmAt := none }).reportCloseUnconfirmed o).beginSending))

/-- A change of an F input: the level is noted; while the reading stays nothing else happens. A change to POWER_ON ends close
confirmation in CLOSED and takes OPEN to UNCONFIRMED; a change to POWER_OFF takes OPENING and UNCONFIRMED to OPEN; in every
other state and reading nothing else happens. A change to UNCONFIRMED (`unconfirm`), whole: the change itself (`moveTrip`:
TripRequest), and when it is complete the backup, if there is one, opens with cause BACKUP from CLOSED or WAITING and is left alone in
every other state. The starts sent are then taken (`settle`, log entry 50). That the level alone changes while a reset lasts is the
model's choice (log entry 16). -/
def Obligations.FeedbackChange : Prop :=
  (∀ (s : State) (o : OutNo) (high : Bool),
    let x := s.trips.get o
    let i := Instr.feedbackChange o high
    let noted := s.modTrip o fun t => { t with feedbackHigh := high }
    let off := (high && x.sense == .offWhenHigh) || (!high && x.sense == .offWhenLow)
    (s.slp.inReset.isSome = true → exec i s = .next noted) ∧
    (s.slp.inReset = none →
      (off = x.powerOff → s.handOffs = [] → exec i s = .next noted.beginSending) ∧
      (off ≠ x.powerOff →
        (x.state = .closed → off = false → s.handOffs = [] →
          exec i s = .next (noted.modTrip o fun t => { t with confirmAt := none }).beginSending) ∧
        (x.state = .opened → off = false →
          exec i s = .next (noted.unconfirm o .feedbackOn).settle.beginSending) ∧
        (x.state = .opening ∨ x.state = .unconfirmed → off = true →
          exec i s = .next (noted.moveTrip o .opened .feedbackOff).settle.beginSending) ∧
        (x.state = .held ∨ x.state = .waiting ∨ (x.state = .closed ∨ x.state = .opened) ∧ off = true ∨
            (x.state = .opening ∨ x.state = .unconfirmed) ∧ off = false → s.handOffs = [] →
          exec i s = .next noted.beginSending)))) ∧
  ∀ (s : State) (o : OutNo) (cause : TripCause),
    let moved := s.moveTrip o .unconfirmed cause
    let after := s.unconfirm o cause
    ((s.trips.get o).backup = none → after = moved) ∧
    ∀ b, (s.trips.get o).backup = some b →
      let ready := b ≠ o ∧ ((s.trips.get b).state = .closed ∨ (s.trips.get b).state = .waiting)
      (ready → after = moved.openTrip b .backup) ∧ (¬ready → after = moved)

/-- A change of an M input, by whichever command: the edge that leads to the active level opens an output in CLOSED or WAITING with
cause MANUAL (`openTrip`: TripRequest), and the starts sent are then taken (`settle`, log entry 50); in every other state and on every
other edge the level alone is noted, and so it is while a reset lasts (the model's choice, log entry 16). For one bound zone in
which no vehicle stands the whole next state: the output OPENING with its TRIP report, the zone's view OPENING with its ZONE report,
then the start of its on_trip program, when it has one. -/
def Obligations.ManualInput : Prop :=
  ∀ (s : State) (o : OutNo) (high : Bool) (i : Instr),
    i = .manualEdge o high ∨ i = .manualInputLeavesActiveLevel o high →
    let x := s.trips.get o
    let noted := s.modTrip o fun t => { t with manualHigh := high }
    let active := x.edge = .falling ∧ high = false ∨ x.edge = .rising ∧ high = true
    let trips := x.manualHigh ≠ high ∧ active ∧ (x.state = .closed ∨ x.state = .waiting)
    (s.slp.inReset.isSome = true → exec i s = .next noted) ∧
    (s.slp.inReset = none →
      (trips → exec i s = .next (noted.openTrip o .manual).settle.beginSending) ∧
      (¬trips → s.handOffs = [] → exec i s = .next noted.beginSending) ∧
      (trips → x.powerOff = false → x.warning = none → ∀ z : ZoneNo, s.boundZones o = [z] →
        let y := s.zones.get z
        y.vehicles = [] → y.view ≠ some .opening →
        let opening := ((noted.modTrip o fun t => { t with
          state := .opening, lastCause := some .manual, waitAt := none, confirmAt := some (s.now + t.confirm) }).reportTrip o x.state .manual).modTrip o fun t => { t with origin := none }
        let seen := (opening.modZone z fun q => { q with view := some .opening }).report ⟨.safety, 0x82,
          num z ++ named summaries y.summary ++ named summaries y.summary ++ named powerViews y.view ++
            named powerViews (some .opening) ++ s.countsField z⟩
        (y.onTrip = none → s.handOffs = [] → exec i s = .next seen.beginSending) ∧
        ∀ p, y.onTrip = some p → exec i s = .next (sendStart [⟨p, z, .zoneTrip⟩] seen).beginSending))

/-- A change of a fault sense sets or clears the FAULT flag and is reported, the driver set as it was; an unchanged reading is no
event. That the flag alone follows while a reset lasts is the model's choice (log entry 16). -/
def Obligations.FaultSense : Prop :=
  ∀ (s : State) (g : SigNo) (bad : Bool),
    let noted := s.modSignal g fun x => { x with openCircuit := bad, fault := bad }
    (s.slp.inReset.isSome = true → exec (.faultSenseChange g bad) s = .next noted) ∧
    (s.slp.inReset = none →
      ((s.signals.get g).openCircuit = bad → exec (.faultSenseChange g bad) s = .next s.beginSending) ∧
      ((s.signals.get g).openCircuit ≠ bad → exec (.faultSenseChange g bad) s =
        .next (noted.report ⟨.safety, 0x88, [BitVec.ofNat 8 (g.val + 1), if bad then 0x00 else 0x01]⟩).beginSending))

/-- R64, whole: which pattern is chosen among the drivers, when the output is driven, and how the pattern goes on at a change of
the set. -/
def Obligations.SignalPattern : Prop :=
  chosenPattern [] = none ∧
  (∀ (ds : List Driver) (o : OutNo), .warning o ∈ ds → chosenPattern ds = some .fast) ∧
  (∀ (before after : List Driver) (r : RunnerNo) (p : Pattern) (u : Nat),
    (∀ d ∈ before, ∃ q p' w, d = .runner q p' w ∧ w < u) → (∀ d ∈ after, ∃ q p' w, d = .runner q p' w ∧ w ≤ u) →
    chosenPattern (before ++ .runner r p u :: after) = some p) ∧
  (∀ (s : State) (g : SigNo) (n r : Nat),
    ((s.signals.get g).shown = none → s.signalDriven g = false) ∧
    ((s.signals.get g).shown = some .steady → s.signalDriven g = true) ∧
    ((s.signals.get g).shown = some .slow → s.now = (s.signals.get g).phaseFrom + 10 * n + r → r < 10 →
      (s.signalDriven g = true ↔ r < 5)) ∧
    ((s.signals.get g).shown = some .fast → s.now = (s.signals.get g).phaseFrom + 2 * n + r → r < 2 →
      (s.signalDriven g = true ↔ r = 0))) ∧
  ∀ (s : State) (g : SigNo) (f : List Driver → List Driver),
    let x := s.signals.get g
    let y := (s.changeDrivers g f).signals.get g
    y.drivers = f x.drivers ∧ y.shown = chosenPattern (f x.drivers) ∧
      y.phaseFrom = if chosenPattern (f x.drivers) = x.shown then x.phaseFrom else s.now

/-! ## Tags (04_miner_tags_and_occupancy.md) -/

/-- ENROLL_TAG and REMOVE_TAG at the first check of R68 and R69 that fails, or accepted. An enrolment writes the id and the
limit in the roster number given, or in the lowest free one, and is answered with that number; an enrolled tag of the same id
takes the limit alone. A removal frees the roster number; a tag that is IN or MISSING is reported and leaves its list first, and an
ORDERED zone whose list has become empty goes to CLEARED with an EVACUATION report, cause LIST_EMPTY. That the report of a removal
shows call point none is the model's choice (log entry 56), and so are the numbers of the named values in the bytes (8). -/
def Obligations.EnrollAndRemoveTag : Prop :=
  ∀ (s : State) (tag : Byte), s.Ready →
    (∀ k id absence : Nat,
      let i := Instr.enrollTag tag k id absence
      let bad := 64 < k ∨ 16777216 ≤ id ∨ absence < 30 ∨ 600 < absence
      let elsewhere := ∃ (q : Roster) (t : Tag), number q ≠ k ∧ s.tags.get q = some t ∧ t.id = id
      (bad ∨ elsewhere → exec i s = .next (s.answered tag [0x0D, 0x03])) ∧
      (¬bad → ¬elsewhere →
        (k = 0 → (∀ q, s.tags.get q ≠ none) → exec i s = .next (s.answered tag [0x0D, 0x07])) ∧
        (∀ r : Roster, s.tags.get r = none → k = number r ∨ k = 0 ∧ (∀ q < r, s.tags.get q ≠ none) →
          exec i s = .next ((s.setTag r (some { id := id, absence := absence })).answered tag
            [0x0D, 0x00, BitVec.ofNat 8 (r.val + 1)])) ∧
        ∀ (r : Roster) (t : Tag), k = number r → s.tags.get r = some t →
          (t.id = id → exec i s = .next ((s.setTag r (some { t with absence := absence })).answered tag
            [0x0D, 0x00, BitVec.ofNat 8 (r.val + 1)])) ∧
          (t.id ≠ id → exec i s = .next (s.answered tag [0x0D, 0x06])))) ∧
    (∀ k : Nat, k = 0 ∨ 64 < k → exec (.removeTag tag k) s = .next (s.answered tag [0x0E, 0x03])) ∧
    ∀ r : Roster,
      let i := Instr.removeTag tag (number r)
      (s.tags.get r = none → exec i s = .next (s.answered tag [0x0E, 0x05])) ∧
      ∀ t, s.tags.get r = some t →
        let listed := t.state = .placed ∨ t.state = .missing
        let reported := s.reportTagMove r t .unplaced none none .removed
        (t.call ≠ none → exec i s = .next (s.answered tag [0x0E, 0x06])) ∧
        (t.call = none → ¬listed → exec i s = .next ((s.setTag r none).answered tag [0x0E, 0x00])) ∧
        (t.call = none → listed →
          exec i s = .next (((reported.unplace r).setTag r none).answered tag [0x0E, 0x00]) ∧
          (s.tagZone r = none → exec i s = .next ((reported.setTag r none).answered tag [0x0E, 0x00])) ∧
          ∀ z, s.tagZone r = some z →
            let without := reported.modZone z fun x => { x with occupancy := x.occupancy.filter fun q => q != r }
            let clears := (s.zones.get z).evac = .ordered ∧ ∀ q ∈ (s.zones.get z).occupancy, q = r
            (¬clears → exec i s = .next ((without.setTag r none).answered tag [0x0E, 0x00])) ∧
            (clears → exec i s = .next ((((without.modZone z fun x => { x with evac := .cleared }).report
              ⟨.safety, 0x83, num z ++ [0x01, 0x02, 0x02, 0x00, 0x00, 0x00]⟩).setTag r none).answered tag [0x0E, 0x00])))

/-- PAGE_TAG SEND and CANCEL, ACK_TAG, and the absence expiry: what each refuses, and the one field it writes. The expiry makes
the tag MISSING and reports it; its zone, its call point and its place in the list stay. That the report shows the current call
point, and none when R76 has cleared it, is the model's choice (log entry 56). -/
def Obligations.PageAckAbsence : Prop :=
  (∀ (s : State) (tag : Byte), s.Ready →
    (∀ k : Nat, k = 0 ∨ 64 < k →
      exec (.pageTagSend tag k) s = .next (s.answered tag [0x0F, 0x03]) ∧
      exec (.pageTagCancel tag k) s = .next (s.answered tag [0x0F, 0x03]) ∧
      exec (.ackTag tag k) s = .next (s.answered tag [0x10, 0x03])) ∧
    ∀ r : Roster,
      (s.tags.get r = none →
        exec (.pageTagSend tag (number r)) s = .next (s.answered tag [0x0F, 0x05]) ∧
        exec (.pageTagCancel tag (number r)) s = .next (s.answered tag [0x0F, 0x05]) ∧
        exec (.ackTag tag (number r)) s = .next (s.answered tag [0x10, 0x05])) ∧
      ∀ t, s.tags.get r = some t →
        (t.state = .unplaced ∨ t.state = .out →
          exec (.pageTagSend tag (number r)) s = .next (s.answered tag [0x0F, 0x09])) ∧
        (t.state = .placed ∨ t.state = .missing → exec (.pageTagSend tag (number r)) s =
          .next ((s.setTag r (some { t with page := true })).answered tag [0x0F, 0x00])) ∧
        exec (.pageTagCancel tag (number r)) s =
          .next ((s.setTag r (some { t with page := false })).answered tag [0x0F, 0x00]) ∧
        exec (.ackTag tag (number r)) s =
          .next ((s.setTag r (some { t with emergency := false })).answered tag [0x10, 0x00])) ∧
  ∀ (s : State) (r : Roster), s.slp.inReset = none →
    ((∀ t, s.tags.get r = some t → t.absentAt = none) → exec (.absenceExpiry r) s = .next s.beginSending) ∧
    ∀ t a, s.tags.get r = some t → t.absentAt = some a → exec (.absenceExpiry r) s =
      .next (((s.reach a).setTag r (some { t with state := .missing, absentAt := none })).reportTagMissing r t false t.zone
        t.cur).beginSending

/-- What a heard entry does to a tag before the hand-off and the button: OUT at an exit gate; anywhere else IN in the zone of
the call point, kept where it is when another zone's call point neither hears it two steps stronger nor after 10 s; the
report first, then the lists of the Zone Table. A tag leaves the list it stands in and joins the end of the other; then the zone left
is tested, CLEARED with cause LIST_EMPTY when it was ORDERED and its list is empty, and then the zone joined, ORDERED with cause
TAG_ENTERED when it was CLEARED. The entries of a list are taken in their order, those of unenrolled tags told in one UNKNOWN_TAG; a tag with
a call is handed to the Call Switch between its placement and its button. A CALL button of a tag that is IN makes a ROUTINE call
(`makeCall`: PlaceCall), refused BUSY or NO_RESOURCE; an EMERGENCY button is reported, makes the EMERGENCY call of a tag that is IN, in
place of another call where R86 and R87 say so, and starts the on_emergency program of the tag's zone with cause MINER_EMERGENCY (`sendStart`:
StartProgram), when it has a zone and the zone a binding; ANSWER takes a RINGING call, or acknowledges a page; HANGUP ends the tag's
call. The model's choices: the call point that a report of an exit gate and PAGE_ACK show (log entry 56), a dial code that is no roster
number as dialled (30), the numbers of the named values in the bytes (8), and the second CALL report of a call that waited (74). -/
def Obligations.TagPlacement : Prop :=
  (∀ (s : State) (r : Roster) (t : Tag) (p : Point) (k : Nat), s.tags.get r = some t →
    let after := (s.placeHeard r t p k).1
    let here : Tag := { t with
      state := .placed, zone := some p.zone, cur := some p.ref, strength := k, lastHeard := some s.now
      curHeard := some s.now, absentAt := some (s.now + 10 * t.absence) }
    let gone : Tag := { t with
      state := .out, zone := none, cur := none, strength := 0, lastHeard := some s.now, curHeard := none, absentAt := none
      page := false }
    let left := (s.setTag r (some gone)).reportTagMove r t .out none (some p.ref) .exitGate
    let moves := t.cur = none ∨ (∀ h, t.curHeard = some h → h + 100 ≤ s.now) ∨ t.strength + 2 ≤ k
    (p.exitGate = true →
      (t.state = .out → after = s.setTag r (some { t with lastHeard := some s.now })) ∧
      (t.state = .unplaced → after = left) ∧
      (t.state = .placed ∨ t.state = .missing → after = left.unplace r)) ∧
    (p.exitGate = false →
      (t.state = .unplaced ∨ t.state = .out → after =
        ((s.setTag r (some here)).reportTagMove r t .placed (some p.zone) (some p.ref) .firstHeard).place r p.zone) ∧
      (t.state = .missing → after =
        ((s.setTag r (some here)).reportTagMissing r t true (some p.zone) (some p.ref)).place r p.zone) ∧
      (t.state = .placed →
        (t.zone = some p.zone → after = s.setTag r (some here)) ∧
        (t.zone ≠ some p.zone → moves → after =
          ((s.setTag r (some here)).reportTagMove r t .placed (some p.zone) (some p.ref) .zoneChange).place r p.zone) ∧
        (t.zone ≠ some p.zone → ¬moves → after = s.setTag r (some { t with
          lastHeard := some s.now, absentAt := some (s.now + 10 * t.absence) }))))) ∧
  (∀ (s : State) (r : Roster) (z : ZoneNo),
    let drop (y : ZoneNo) := s.modZone y fun x => { x with occupancy := x.occupancy.filter fun q => q != r }
    let join (u : State) := u.modZone z fun x => { x with occupancy := x.occupancy ++ [r] }
    let clears (y : ZoneNo) := (s.zones.get y).evac = .ordered ∧ ∀ q ∈ (s.zones.get y).occupancy, q = r
    let cleared (u : State) (y : ZoneNo) := (u.modZone y fun x => { x with evac := .cleared }).report
      ⟨.safety, 0x83, num y ++ [0x01, 0x02, 0x02, 0x00, 0x00, 0x00]⟩
    let entered (u : State) :=
      let v := u.modZone z fun x => { x with evac := .ordered }
      v.report ⟨.safety, 0x83, num z ++ [0x02, 0x01, 0x03, 0x00] ++ byteField ((s.zones.get z).occupancy.length + 1) ++
        byteField (v.missingCount z)⟩
    (s.tagZone r = none → s.unplace r = s) ∧
    (∀ y, s.tagZone r = some y → (clears y → s.unplace r = cleared (drop y) y) ∧ (¬clears y → s.unplace r = drop y)) ∧
    (r ∈ (s.zones.get z).occupancy → s.place r z = s) ∧
    (r ∉ (s.zones.get z).occupancy →
      (s.tagZone r = none →
        ((s.zones.get z).evac ≠ .cleared → s.place r z = join s) ∧
        ((s.zones.get z).evac = .cleared → s.place r z = entered (join s))) ∧
      ∀ y, s.tagZone r = some y →
        let moved := join (drop y)
        ((s.zones.get z).evac ≠ .cleared →
          (clears y → s.place r z = cleared moved y) ∧ (¬clears y → s.place r z = moved)) ∧
        ((s.zones.get z).evac = .cleared →
          (clears y → s.place r z = entered (cleared moved y)) ∧ (¬clears y → s.place r z = entered moved)))) ∧
  (∀ (s : State) (zone : Option ZoneNo),
    (zone = none → s.emergencyIn sendStart zone = s) ∧
    ∀ z, zone = some z →
      ((s.zones.get z).onEmergency = none → s.emergencyIn sendStart zone = s) ∧
      ∀ p, (s.zones.get z).onEmergency = some p →
        s.emergencyIn sendStart zone = sendStart [⟨p, z, .minerEmergency⟩] s) ∧
  (∀ (s : State) (p : Point) (h : HeardEntry) (l : List HeardEntry) (r : Roster) (t : Tag),
    s.tags.get r = some t → t.id = h.tagId → (∀ q u, q ≠ r → s.tags.get q = some u → u.id ≠ h.tagId) →
    s.heardList p (h :: l) = (s.heardEntry r p h).heardList p l) ∧
  (∀ (s : State) (p : Point) (l : List HeardEntry), (∀ h ∈ l, ∀ q u, s.tags.get q = some u → u.id ≠ h.tagId) →
    (l = [] → s.heardList p l = s) ∧
    (l ≠ [] → s.heardList p l = s.reportUnknownTag p.ref ((l.map fun h => h.tagId).foldl appendNew []))) ∧
  (∀ (s : State) (r : Roster) (t : Tag) (p : Point) (h : HeardEntry), s.tags.get r = some t →
    let placed := (s.placeHeard r t p h.strength).1
    let left := p.exitGate = true ∧ t.state ≠ .out
    let moves := t.cur = none ∨ (∀ a, t.curHeard = some a → a + 100 ≤ s.now) ∨ t.strength + 2 ≤ h.strength
    let changed := p.exitGate = false ∧ t.cur ≠ some p.ref ∧ (t.state ≠ .placed ∨ t.zone = some p.zone ∨ moves)
    let pressed (u : State) := s.heardEntry r p h = u.takeButton r p.ref h.button
    (t.call = none → pressed placed) ∧
    ∀ id, t.call = some id →
      (left → pressed (placed.csHeard r id true true)) ∧
      (changed → pressed (placed.csHeard r id true false)) ∧
      (¬left → ¬changed → pressed (placed.csHeard r id false false))) ∧
  ∀ (s : State) (r : Roster) (t : Tag) (point : DevRef), s.tags.get r = some t →
    let press (b : Button) := s.takeButton r point b
    let full := 16 ≤ s.calls.length
    press .none = s ∧
    (∀ (dial : Nat) (b : Party) (cls : Option TrunkClass),
      dial = 0 ∧ b = .surface ∧ cls = some .routine ∨ (∃ q : Roster, dial = number q ∧ b = .tag q ∧ cls = none) ∨
        64 < dial ∧ b = .dialled dial ∧ cls = none →
      let refused (cause : CallCause) := s.reportCall 0
        { id := 0, creation := 0, kind := .routine, a := .tag r, b := b, state := .setup, cls := cls } none .refused cause
      (t.state ≠ .placed → press (.call dial) = s) ∧
      (t.state = .placed → t.call ≠ none → press (.call dial) = refused .busy) ∧
      (t.state = .placed → t.call = none → full → press (.call dial) = refused .noResource) ∧
      (t.state = .placed → t.call = none → ¬full →
        press (.call dial) = s.makeCall .routine (.tag r) b cls)) ∧
    (let told := (s.setTag r (some { t with emergency := true })).reportTagEmergency r point t.emergency
     let starts (u : State) := press .emergency = u.emergencyIn sendStart (u.zoneOfTag r)
     let made (u : State) := starts (u.makeCall .emergency (.tag r) .surface (some .emergency))
     (t.state ≠ .placed → starts told) ∧
     (t.state = .placed → t.call = none →
       (¬full → made told) ∧
       (full → (∀ c ∈ s.calls, c.kind = .emergency) → starts (told.reportCall 0
         { id := 0, creation := 0, kind := .emergency, a := .tag r, b := .surface, state := .setup, cls := some .emergency }
         none .refused .noResource)) ∧
       (full → ∀ c ∈ s.calls, c.kind = .routine ∨ c.kind = .priority ∧ (∀ d ∈ s.calls, d.kind ≠ .routine) →
         (∀ d ∈ s.calls, d ≠ c → d.kind = c.kind → d.creation < c.creation) → made (told.csEnd c.id .preempted))) ∧
     (t.state = .placed → ∀ id c, t.call = some id → s.callOf id = some c →
       (c.kind = .emergency → starts told) ∧
       (c.kind ≠ .emergency → (told.csEnd id .superseded).calls.length < 16 → made (told.csEnd id .superseded)))) ∧
    (let acknowledged (u : State) := (t.page = false → u = s) ∧
        (t.page = true → u = (s.setTag r (some { t with page := false })).reportPageAck r point)
     (t.call = none → acknowledged (press .answer)) ∧
     (∀ id c, t.call = some id → s.callOf id = some c →
       let taken := { c with state := .active, deadline := none }
       (c.state = .ringing → c.b = .tag r → press .answer =
         (s.modCall id fun d => { d with state := .active, deadline := none }).reportCall id taken (some .ringing)
           (.live .active) .answered) ∧
       (c.state ≠ .ringing ∨ c.b ≠ .tag r → acknowledged (press .answer)))) ∧
    (t.call = none → press .hangup = s) ∧
    ∀ id, t.call = some id → press .hangup = s.csEnd id .hangup

/-! ## Calls (05_calls.md) -/

/-- PLACE_CALL at the first check of R99 that fails, or accepted: a PRIORITY call from SURFACE (`makeCall`), answered with its id,
its state and its end cause as they stand when the event is over, the cause noted at the call's end (the model's field `answering`, log
entry 63). The byte 04 of a call that ends at once follows the model's numbering of the CALL report's states (log entry 8), and a
start request held back before is taken once the slot is asked for, here with none (log entry 5). A call of any kind and parties, whole:
the first free id from the next-id value on; the record in SETUP with its deadline, the id in the caller's tag; the callee's checks, which
end it UNREACHABLE or BUSY (`csEndFrom`: CallEnds); the id in the callee's tag and both party-lost deadlines; a free channel for each
tag party, party A first, all or nothing; without them the end NO_RESOURCE, or for an EMERGENCY call the eviction of the latest ROUTINE
call on the caller's call point and one more try; then, without a class, the call goes on at once, and with one it asks for a slot
(`requestSlot`, `requestAgain`: SlotRequest) and goes on, waits, or ends NO_RESOURCE or NO_TRUNK. A call that goes on is ACTIVE with a
SURFACE callee and RINGING for 30.0 s with a tag. A call that waits is reported at once, so that it has a second report when a slot comes
or is lost later in the event: the model's choice (log entry 74). -/
def Obligations.PlaceCall : Prop :=
  (∀ (s : State) (k : Nat), k < 255 →
    let id (i : Nat) := (s.nextCallId - 1 + i) % 255 + 1
    (∀ i < k, ∃ c ∈ s.calls, c.id = id i) → (∀ c ∈ s.calls, c.id ≠ id k) → s.newCallId = id k) ∧
  (∀ (s : State) (kind : CallKind) (a b : Party) (cls : Option TrunkClass),
    let id := s.newCallId
    let c : Call := { id := id, creation := s.nextCreation, kind := kind, a := a, b := b, state := .setup, cls := cls
                      deadline := some (s.now + 100) }
    let noted (u : State) (p : Party) : State := match p with
      | .tag r => u.modTag r fun t => { t with call := some id }
      | _ => u
    let made := noted { s with
      calls := s.calls ++ [c], nextCallId := if id = 255 then 1 else id + 1, nextCreation := s.nextCreation + 1 } a
    let after := s.makeCall kind a b cls
    let heard (r : Roster) (t : Tag) := b = .tag r ∧ a ≠ b ∧ s.tags.get r = some t ∧ t.state = .placed ∧ t.cur ≠ none ∧
      ∃ h, t.lastHeard = some h ∧ s.now < h + 150
    let engaged := ∃ r t, heard r t ∧ t.call ≠ none
    let reached := b = .surface ∨ ∃ r t, heard r t ∧ t.call = none
    let lost (p : Party) : Option Time := match p with
      | .tag r => ((s.tags.get r).bind fun t => t.lastHeard).map fun h => h + 150
      | _ => none
    let ready := (noted made b).modCall id fun d => { d with lostA := lost a, lostB := lost b }
    let takes (u : State) (p : Party) (o : Option VoiceRef) : Prop := match p with
      | .tag r => ∃ e n, u.curEntry r = some e ∧ (u.voice.get e).get n = none ∧ (∀ m < n, (u.voice.get e).get m ≠ none) ∧
          o = some ⟨e, n⟩
      | _ => o = none
    let holding (u : State) (o : Option VoiceRef) : State := o.elim u fun v => u.setVoice v (some id)
    let both (u : State) (x y : Option VoiceRef) := takes u a x ∧ takes (holding u x) b y
    let told (u : State) (cause : CallCause) := (u.callOf id).elim u fun d => u.reportCall id d none (.live d.state) cause
    let joined (u : State) (k : Option SlotNo) := told (u.modCall id fun d => { d with
      state := if d.b = .surface then .active else .ringing, slot := k
      deadline := if d.b = .surface then none else some (u.now + 300) }) .connected
    let ends (u : State) (cause : CallCause) := u.csEndFrom id none cause
    let goes (u : State) (x y : Option VoiceRef) : Prop :=
      let v := (holding (holding u x) y).modCall id fun d => { d with chanA := x, chanB := y }
      (cls = none → after = joined v none) ∧
      ∀ k w ans again, cls = some k → v.requestSlot (.call id) k = (w, ans, again) →
        let taken (t : State) := after = (t.requestAgain sendStart again).settle
        (∀ n, ans = .granted n → taken (joined w (some n))) ∧
        (ans = .queued → taken (told (w.modCall id fun d => { d with waiting := true }) .created)) ∧
        (ans = .noSlot → taken (ends w .noResource)) ∧ (ans = .noTrunk → taken (ends w .noTrunk))
    (engaged → after = ends made .busy) ∧
    (¬engaged → ¬reached → after = ends made .unreachable) ∧
    (reached →
      (∀ x y, both ready x y → goes ready x y) ∧
      ((∀ x y, ¬both ready x y) →
        let on (d : Call) := d.kind = .routine ∧ ∃ r e v, a = .tag r ∧ ready.curEntry r = some e ∧
          (d.chanA = some v ∨ d.chanB = some v) ∧ v.entry = e
        (kind ≠ .emergency ∨ (∀ d ∈ ready.calls, ¬on d) → after = ends ready .noResource) ∧
        (kind = .emergency → ∀ d ∈ ready.calls, on d → (∀ o ∈ ready.calls, o ≠ d → on o → o.creation < d.creation) →
          let freed := ready.csEnd d.id .preempted
          (∀ x y, both freed x y → goes freed x y) ∧ ((∀ x y, ¬both freed x y) → after = ends ready .noResource))))) ∧
  ∀ (s : State) (tag : Byte), s.Ready →
    (∀ k : Nat, k = 0 ∨ 64 < k → exec (.placeCall tag k) s = .next (s.answered tag [0x12, 0x03])) ∧
    ∀ r : Roster,
      let i := Instr.placeCall tag (number r)
      (s.tags.get r = none → exec i s = .next (s.answered tag [0x12, 0x05])) ∧
      ∀ t, s.tags.get r = some t →
        let id := s.nextCallId
        let counted : State := { s with
          nextCallId := if id = 255 then 1 else id + 1, nextCreation := s.nextCreation + 1, answering := none }
        let unused := 1 ≤ id ∧ id ≤ 255 ∧ (∀ c ∈ s.calls, c.id ≠ id) ∧ t.call ≠ some id ∧
          (∀ x ∈ s.trunk.held, x.holder ≠ .call id) ∧ ∀ w ∈ s.trunk.queue, w.holder ≠ .call id
        let c : Call := { id := id, creation := s.nextCreation, kind := .priority, a := .surface, b := .tag r
                          state := .setup, cls := some .priority, deadline := some (s.now + 100) }
        (s.trunk.state ≠ .up → exec i s = .next (s.answered tag [0x12, 0x0A])) ∧
        (s.trunk.state = .up → 16 ≤ s.calls.length → exec i s = .next (s.answered tag [0x12, 0x07])) ∧
        (s.trunk.state = .up → s.calls.length < 16 →
          (let made := ({ s with answering := some (s.newCallId, none) } : State).makeCall .priority .surface (.tag r)
             (some .priority)
           let shown := (made.callOf s.newCallId).elim CallShown.ended fun d => .live d.state
           exec i s = .next (({ made with answering := none } : State).answered tag ([0x12, 0x00] ++ byteField s.newCallId ++
              named callShownStates shown ++ optNamed callCauses (made.answering.bind Prod.snd)))) ∧
          (unused → t.state ≠ .placed → exec i s =
            .next ((counted.reportCall id c none .ended .unreachable).answered tag
              [0x12, 0x00, BitVec.ofNat 8 id, 0x04, 0x00, 0x00])) ∧
          (unused → ∀ (h : Time) (e : EntryNo) (n : Fin 4) (k : SlotNo), t.state = .placed → t.call = none →
            t.lastHeard = some h → s.now < h + 150 → s.curEntry r = some e → s.freeChannel e = some n →
            s.trunk.freeSlot = some k → s.handOffs = [] →
            let rung := { c with
              state := .ringing, chanB := some ⟨e, n⟩, slot := some k, deadline := some (s.now + 300)
              lostB := some (h + 150) }
            exec i s = .next ((({ (counted.setTag r (some { t with call := some id })).setVoice ⟨e, n⟩ (some id) with
              calls := s.calls ++ [rung], trunk := { s.trunk with held := s.trunk.held ++ [⟨k, .call id, .priority⟩] } } :
                State).reportCall id rung none (.live .ringing) .connected).answered tag
              [0x12, 0x00, BitVec.ofNat 8 id, 0x01, 0x01])))

/-- END_CALL and the four limits of a call end it with their causes; a limit that does not run is no event. The end frees the
call's channels, gives up its slot or its request (`giveUp`: SlotRequest), clears its id from its tags, removes its record and
reports it; where PLACE_CALL is making the call its cause is noted (the model's field `answering`, log entry 63). With no request
waiting at the trunk, the whole next state. A heard party moves its deadline to 15 s on; it ends the call PARTY_LEFT when
it became OUT, and is handed over when its current call point changed and has a free channel. That the report of an ended call
shows no channel and no slot is the model's choice (log entry 11). -/
def Obligations.CallEnds : Prop :=
  (∀ (s : State) (tag : Byte) (id : Nat), s.Ready →
    (id = 0 ∨ 255 < id → exec (.endCall tag id) s = .next (s.answered tag [0x13, 0x03])) ∧
    (1 ≤ id → id ≤ 255 → s.callOf id = none → exec (.endCall tag id) s = .next (s.answered tag [0x13, 0x05])) ∧
    (1 ≤ id → id ≤ 255 → s.callOf id ≠ none →
      exec (.endCall tag id) s = .next ((s.csEnd id .hostEnd).answered tag [0x13, 0x00]))) ∧
  (∀ (s : State) (id : Nat) (i : Instr) (state : CallState) (cause : CallCause), s.slp.inReset = none →
    i = .setupExpiry id ∧ state = .setup ∧ cause = .noResource ∨
      i = .ringExpiry id ∧ state = .ringing ∧ cause = .noAnswer ∨
      i = .heldExpiry id ∧ state = .held ∧ cause = .preempted →
    ((∀ c, s.callOf id = some c → c.state ≠ state ∨ c.deadline = none) → exec i s = .next s.beginSending) ∧
    ∀ c t, s.callOf id = some c → c.state = state → c.deadline = some t →
      exec i s = .next ((s.reach t).csEnd id cause).beginSending) ∧
  (∀ (s : State) (r : Roster) (id : Nat) (c : Call), s.callOf id = some c →
    let later (p : Party) (x : Option Time) := if p = .tag r then some (s.now + 150) else x
    let moved := s.modCall id fun d => { d with lostA := later d.a d.lostA, lostB := later d.b d.lostB }
    s.csHeard r id false false = moved ∧ s.csHeard r id true true = moved.csEnd id .partyLeft ∧
    ((∀ e, s.curEntry r = some e → s.freeChannel e = none) → s.csHeard r id true false = moved) ∧
    ∀ (e : EntryNo) (n : Fin 4), s.curEntry r = some e → s.freeChannel e = some n →
      let onA := c.a = .tag r
      let shown := { c with
        lostA := later c.a c.lostA, lostB := later c.b c.lostB, chanA := if onA then some ⟨e, n⟩ else c.chanA
        chanB := if onA then c.chanB else some ⟨e, n⟩ }
      s.csHeard r id true false =
        (((moved.setVoice ⟨e, n⟩ (some id)).freeVoice (if onA then c.chanA else c.chanB)).modCall id fun d =>
          if d.a = .tag r then { d with chanA := some ⟨e, n⟩ } else { d with chanB := some ⟨e, n⟩ }).reportCall id shown
            (some c.state) (.live c.state) .handover) ∧
  (∀ (s : State) (id : Nat) (side : Side), s.slp.inReset = none →
    let lost (c : Call) := match side with | .a => c.lostA | .b => c.lostB
    ((∀ c, s.callOf id = some c → lost c = none) → exec (.partyLostExpiry id side) s = .next s.beginSending) ∧
    ∀ c t, s.callOf id = some c → lost c = some t →
      exec (.partyLostExpiry id side) s = .next ((s.reach t).csEnd id .partyLost).beginSending) ∧
  (∀ (s : State) (id : Nat) (c : Call) (prev : Option CallState) (cause : CallCause), s.callOf id = some c →
    let given := ((s.freeVoice c.chanA).freeVoice c.chanB).giveUp (.call id)
    let freed := (given.clearCall id c.a).clearCall id c.b
    s.csEnd id cause = s.csEndFrom id (some c.state) cause ∧
    s.csEndFrom id prev cause = ({ freed with
      calls := given.calls.filter fun d => d.id != id
      answering := given.answering.map fun p => if p.1 = id then (id, p.2.or (some cause)) else p } : State).reportCall id
        { c with chanA := none, chanB := none, slot := none } prev .ended cause) ∧
  ∀ (s : State) (id : Nat) (c : Call) (cause : CallCause), s.callOf id = some c → s.trunk.queue = [] →
    let freed := (((s.freeVoice c.chanA).freeVoice c.chanB).clearCall id c.a).clearCall id c.b
    s.csEnd id cause = ({ freed with
      trunk := { s.trunk with held := s.trunk.held.filter fun x => x.holder != .call id }
      calls := s.calls.filter fun d => d.id != id
      answering := s.answering.map fun p => if p.1 = id then (id, p.2.or (some cause)) else p } : State).reportCall id
        { c with chanA := none, chanB := none, slot := none } (some c.state) .ended cause

/-! ## Trunk (06_trunk_and_slot_arbiter.md) -/

/-- SET_TRUNK at the first check of R104 that fails, or accepted: the allotment is the slots listed, in ascending order, and each
slot that joins is granted to the head of the queue as R108 grants a freed slot (`slotFreed`, written out in SlotRequest). With an
empty queue, or while the trunk is not UP, nothing else changes; with one slot joining and a burst at the head of the queue that
wants it, the whole next state. -/
def Obligations.SetTrunk : Prop :=
  ∀ (s : State) (tag : Byte) (l : List Nat), s.Ready →
    let i := Instr.setTrunk tag l
    let inRange := l.Nodup ∧ 1 ≤ l.length ∧ l.length ≤ 24 ∧ ∀ n ∈ l, 8 ≤ n ∧ n ≤ 31
    let leaves := ∃ x ∈ s.trunk.held, x.slot ∈ s.trunk.allotment ∧ x.slot.val + 8 ∉ l
    let new := (List.finRange 24).filter fun k => k.val + 8 ∈ l
    let written := s.modTrunk fun t => { t with allotment := new }
    let joining := new.filter fun k => k ∉ s.trunk.allotment
    (¬inRange → exec i s = .next (s.answered tag [0x15, 0x03])) ∧
    (inRange → leaves → exec i s = .next (s.answered tag [0x15, 0x06])) ∧
    (inRange → ¬leaves →
      exec i s = .next ((written.forEach joining State.slotFreed).answered tag [0x15, 0x00]) ∧
      (s.trunk.queue = [] ∨ s.trunk.state ≠ .up → exec i s = .next (written.answered tag [0x15, 0x00])) ∧
      ∀ (k : SlotNo) (v : VehNo) (b : Burst) (cls : TrunkClass) (rest : List Waiting), s.trunk.state = .up → joining = [k] →
        s.trunk.queue = ⟨.burst v, cls⟩ :: rest → s.bursts.get v = some b → b.inProgress = true → b.forwarding = .pending →
        exec i s = .next (((written.modTrunk fun t => { t with
          queue := rest, held := t.held ++ [⟨k, .burst v, cls⟩] }).setBurst v (some { b with
            forwarding := .holding, slot := some k, state := .gathering, carried := false })).answered tag [0x15, 0x00]))

/-- The marks: the second good mark outside UP brings the trunk UP with a report; every mark in UP is a cycle boundary: the cycle that
has gone counts when its own mark was received, each burst that had a quarter in it having forwarded it, and the next one opens
with the next quarter of each burst that holds a slot; the fourth missed mark in a row takes an UP trunk DOWN: the slots are
revoked in ascending number, then the requests removed in queue order, each with its notice, then the TRUNK report; the allotment is kept,
and the trunk goes through DOWN to SYNC. A TRUNK_LOST or NO_TRUNK notice ends a call TRUNK_LOST, stops a burst's forwarding with that
cause, and lets a runner in SLOT_WAIT play. That a cycle opens with its mark, and what is carried in it, is read from R142 (log entry
12). -/
def Obligations.TrunkMarks : Prop :=
  (∀ s : State, s.slp.inReset = none →
    let x := s.trunk
    let fresh : Trunk := { x with state := .sync, marks := 0, misses := 0, held := [], queue := [] }
    let turned := s.turnCycle sendStart
    (x.state = .up → exec .goodMark s = .next (turned.modTrunk fun t => { t with misses := 0 }).beginSending) ∧
    (x.state = .up → x.misses < 3 →
      exec .missedMark s = .next (turned.modTrunk fun t => { t with misses := t.misses + 1 }).beginSending) ∧
    (x.state ≠ .up → x.marks = 0 →
      exec .goodMark s = .next (s.modTrunk fun t => { t with marks := 1, misses := 0 }).beginSending) ∧
    (x.state ≠ .up → 1 ≤ x.marks → exec .goodMark s =
      .next ((s.modTrunk fun t => { t with state := .up, marks := 0, misses := 0 }).report
        ⟨.safety, 0x8F, [0x00, 0x01, 0x00, 0x00]⟩).beginSending) ∧
    (x.state = .up → 3 ≤ x.misses →
      let slots := (List.finRange 24).filterMap fun k => x.held.find? fun y => y.slot == k
      let revoked := slots.foldl (fun t y => if y ∈ t.trunk.held then (t.modTrunk fun u => { u with
        held := u.held.filter fun w => w.slot != y.slot }).trunkLostNotice sendStart y.holder else t)
          (s.modTrunk fun t => { t with state := .down })
      let removed := x.queue.foldl (fun t w => if w ∈ t.trunk.queue then (t.modTrunk fun u => { u with
        queue := u.queue.filter fun y => y.holder != w.holder }).noTrunkNotice sendStart w.holder else t) revoked
      exec .missedMark s = .next ((removed.report ⟨.safety, 0x8F, [0x01, 0x02] ++ byteField slots.length ++
        byteField x.queue.length⟩).modTrunk fun t => { fresh with allotment := t.allotment }).beginSending ∧
      removed.trunk.allotment = x.allotment ∧
      (x.held = [] → x.queue = [] → exec .missedMark s =
        .next ((s.report ⟨.safety, 0x8F, [0x01, 0x02, 0x00, 0x00]⟩).modTrunk fun _ => fresh).beginSending)) ∧
    (x.state ≠ .up → x.misses < 3 →
      exec .missedMark s = .next (s.modTrunk fun t => { t with marks := 0, misses := t.misses + 1 }).beginSending) ∧
    (x.state ≠ .up → 3 ≤ x.misses → exec .missedMark s = .next (s.modTrunk fun t => { t with
      state := .sync, marks := 0, misses := 0 }).beginSending)) ∧
  (∀ s : State,
    let sends (b : Burst) : Bool := b.inProgress && b.forwarding == .holding && b.forwarded < b.received.length
    let gone (b : Burst) : Bool := sends b && b.carried
    let opened (t : State) : State := { t with bursts := t.bursts.map (Option.map fun b => { b with carried := sends b }) }
    let turned := s.turnCycle sendStart
    (1 ≤ s.trunk.misses ∨ (∀ v b, s.bursts.get v = some b → gone b = false) → turned = opened s) ∧
    ∀ (v : VehNo) (b : Burst), s.trunk.misses = 0 → s.bursts.get v = some b → gone b = true →
      (∀ w c, w ≠ v → s.bursts.get w = some c → gone c = false) →
      let counted := s.setBurst v (some { b with forwarded := b.forwarded + 1, carried := false })
      (b.gatherEnd = none ∨ b.forwarded + 1 < b.received.length → turned = opened counted) ∧
      (b.gatherEnd ≠ none → b.forwarded + 1 = b.received.length → turned = opened (counted.tgSettle sendStart v))) ∧
  ∀ s : State,
    let plays (r : RunnerNo) (k : Fin 128) := s.modRunner r fun y => { y with
      state := .stepping, slotWaitAt := none, countEnd := some (s.now + 10 * (s.steps.get k).count) }
    (∀ id, s.trunkLostNotice sendStart (.call id) = s.csEnd id .trunkLost ∧
      s.noTrunkNotice sendStart (.call id) = s.csEnd id .trunkLost) ∧
    (∀ r, s.trunkLostNotice sendStart (.runner r) = s ∧
      ((s.runners.get r).state ≠ .slotWait → s.noTrunkNotice sendStart (.runner r) = s) ∧
      ∀ k : Fin 128, (s.runners.get r).state = .slotWait → (s.runners.get r).current = some k.val →
        s.noTrunkNotice sendStart (.runner r) = plays r k) ∧
    ∀ v : VehNo,
      ((∀ b, s.bursts.get v = some b → b.inProgress = false) → s.trunkLostNotice sendStart (.burst v) = s ∧
        s.noTrunkNotice sendStart (.burst v) = s) ∧
      ∀ b, s.bursts.get v = some b → b.inProgress = true →
        let stopped (cause : StopCause) := s.setBurst v (some { b with
          forwarding := .stopped cause, slot := none, state := .gathering, carried := false })
        (b.gatherEnd = none → s.trunkLostNotice sendStart (.burst v) = stopped .trunkLost ∧
          s.noTrunkNotice sendStart (.burst v) = stopped .noTrunk) ∧
        (b.gatherEnd ≠ none →
          s.trunkLostNotice sendStart (.burst v) = (stopped .trunkLost).tgSettle sendStart v ∧
          s.noTrunkNotice sendStart (.burst v) = (stopped .noTrunk).tgSettle sendStart v)

/-- A request at the arbiter: NO_TRUNK outside UP, BUSY for a holder that holds or waits already, the lowest free slot of the
allotment, or else the slot of a victim of the lowest class the request may preempt, the latest granted among those (ALARM over
PRIORITY, TELEMETRY and ROUTINE, EMERGENCY over TELEMETRY and ROUTINE, PRIORITY over ROUTINE, the others over none); without a victim it queues after the last request of its own class or a higher one, while fewer than 16 wait. At a queue of 16 it is
refused NO_SLOT, or, when it ranks above the last entry, that entry is removed and its holder told NO_SLOT, and the request then
placed. A preempted call in ACTIVE is HELD for 30.0 s, one in RINGING ends, a burst is INTERRUPTED with forwarding PENDING, and each
asks again where it still wants a slot. A slot that becomes free goes to the head of the queue, which takes it as its state
says: a call in SETUP or HELD goes on, a burst forwards, a runner plays; a head that wants none is passed over (log entry 44). That the
starts which the holder's end brings wait for the requester's answer is the model's choice (log entry 38), and so
is that a victim asks again once the requester has its answer (log entry 48). -/
def Obligations.SlotRequest : Prop :=
  (∀ c d : TrunkClass, mayPreempt c d = true ↔ c = .alarm ∧ (d = .priority ∨ d = .telemetry ∨ d = .routine) ∨
    c = .emergency ∧ (d = .telemetry ∨ d = .routine) ∨ c = .priority ∧ d = .routine) ∧
  (classRank .alarm < classRank .emergency ∧ classRank .emergency < classRank .priority ∧
    classRank .priority < classRank .telemetry ∧ classRank .telemetry < classRank .routine) ∧
  (∀ (s : State) (h : Holder) (c : TrunkClass),
    let x := s.trunk
    let answer := s.requestSlot h c
    let free (k : SlotNo) := k ∈ x.allotment ∧ ∀ y ∈ x.held, y.slot ≠ k
    let known := (∃ y ∈ x.held, y.holder = h) ∨ ∃ w ∈ x.queue, w.holder = h
    (x.state ≠ .up → answer = (s, .noTrunk, none)) ∧
    (x.state = .up → known → answer = (s, .busy, none)) ∧
    (x.state = .up → ¬known → ∀ k, free k → (∀ j < k, ¬free j) →
      answer = (s.modTrunk fun t => { t with held := t.held ++ [⟨k, h, c⟩] }, .granted k, none)) ∧
    (x.state = .up → ¬known → (∀ k, ¬free k) →
      (∀ (before after : List HeldSlot) (y : HeldSlot), x.held = before ++ y :: after → mayPreempt c y.cls = true →
        (∀ w ∈ before ++ after, mayPreempt c w.cls = true → classRank w.cls ≤ classRank y.cls) →
        (∀ w ∈ after, mayPreempt c w.cls = true → classRank w.cls < classRank y.cls) →
        answer = (s.passSlot y h c, .granted y.slot, some y.holder)) ∧
      ((∀ y ∈ x.held, mayPreempt c y.cls = false) → x.queue.length < 16 →
        ∀ before after : List Waiting, x.queue = before ++ after → (∀ w ∈ before, classRank w.cls ≤ classRank c) →
          (∀ w ∈ after, classRank c < classRank w.cls) →
          answer = (s.modTrunk fun t => { t with queue := before ++ ⟨h, c⟩ :: after }, .queued, none)) ∧
      ((∀ y ∈ x.held, mayPreempt c y.cls = false) → 16 ≤ x.queue.length → ∀ (init : List Waiting) (last : Waiting),
        x.queue = init ++ [last] →
        (classRank last.cls ≤ classRank c → answer = (s, .noSlot, none)) ∧
        (classRank c < classRank last.cls →
          let told := (s.modTrunk fun t => { t with queue := init }).noSlotNotice deferStart last.holder
          answer = (told.modTrunk fun t => { t with queue := placeWaiting t.queue ⟨h, c⟩ }, .queued, none) ∧
          ∀ (v : VehNo) (b : Burst) (before after : List Waiting), last.holder = .burst v → s.bursts.get v = some b →
            b.inProgress = true → b.gatherEnd = none → init = before ++ after →
            (∀ w ∈ before, classRank w.cls ≤ classRank c) → (∀ w ∈ after, classRank c < classRank w.cls) →
            answer = ((s.setBurst v (some (b.stop .noSlot))).modTrunk fun t => { t with
              queue := before ++ ⟨h, c⟩ :: after }, .queued, none))))) ∧
  (∀ (s : State) (y : HeldSlot) (h : Holder) (c : TrunkClass),
    let taken := s.modTrunk fun t => { t with held := t.held.filter fun w => w.slot != y.slot }
    let after (told : State) := s.passSlot y h c = told.modTrunk fun t => { t with held := t.held ++ [⟨y.slot, h, c⟩] }
    (∀ r, y.holder = .runner r → after taken) ∧
    (∀ v b, y.holder = .burst v → s.bursts.get v = some b → after (taken.setBurst v (some { b with
      state := .interrupted, slot := none, forwarding := .pending, carried := false }))) ∧
    ∀ id d, y.holder = .call id → s.callOf id = some d →
      (d.state = .active →
        let waits (e : Call) : Call := { e with state := .held, slot := none, deadline := some (s.now + 300) }
        after ((taken.modCall id waits).reportCall id (waits d) (some .active) (.live .held) .slotPreempted)) ∧
      (d.state = .ringing → after (taken.csEnd id .preempted)) ∧
      (d.state = .setup ∨ d.state = .held → after taken)) ∧
  (∀ s : State, s.trunk.state = .up → s.trunk.freeSlot = none → s.trunk.queue.length < 16 →
    (∀ id d, s.callOf id = some d → d.state = .held → s.trunk.holds (.call id) = false → s.trunk.waitsFor (.call id) = false →
      s.requestAgain sendStart (some (.call id)) = (s.modTrunk fun t => { t with
        queue := placeWaiting t.queue ⟨.call id, d.cls.getD .routine⟩ }).modCall id fun e => { e with waiting := true }) ∧
    ∀ v b, s.bursts.get v = some b → b.inProgress = true → b.forwarding = .pending → s.trunk.holds (.burst v) = false →
      s.trunk.waitsFor (.burst v) = false →
      s.requestAgain sendStart (some (.burst v)) = s.modTrunk fun t => { t with
        queue := placeWaiting t.queue ⟨.burst v, .telemetry⟩ }) ∧
  (∀ (s : State) (h : Holder),
    s.withdraw h = s.modTrunk (fun t => { t with queue := t.queue.filter fun w => w.holder != h }) ∧
    s.giveUp h = (s.releaseSlot h).withdraw h ∧
    ((∀ y ∈ s.trunk.held, y.holder ≠ h) → s.releaseSlot h = s) ∧
    ∀ before y after, s.trunk.held = before ++ y :: after → y.holder = h → (∀ w ∈ before, w.holder ≠ h) →
      s.releaseSlot h = (s.modTrunk fun t => { t with held := t.held.filter fun w => w.holder != h }).slotFreed y.slot) ∧
  ∀ (s : State) (k : SlotNo),
    let after := s.slotFreed k
    (s.trunk.state ≠ .up ∨ k ∉ s.trunk.allotment ∨ s.trunk.queue = [] → after = s) ∧
    ∀ (w : Waiting) (rest : List Waiting), s.trunk.state = .up → k ∈ s.trunk.allotment → s.trunk.queue = w :: rest →
      let given := s.modTrunk fun t => { t with queue := rest, held := t.held ++ [⟨k, w.holder, w.cls⟩] }
      let passed := after = (s.modTrunk fun t => { t with queue := rest }).slotFreed k
      (∀ r, w.holder = .runner r →
        ((s.runners.get r).state ≠ .slotWait → passed) ∧
        ∀ j : Fin 128, (s.runners.get r).state = .slotWait → (s.runners.get r).current = some j.val →
          after = given.modRunner r fun y => { y with
            state := .stepping, slotWaitAt := none, countEnd := some (s.now + 10 * (s.steps.get j).count) }) ∧
      (∀ v, w.holder = .burst v →
        ((∀ b, s.bursts.get v = some b → b.inProgress = false ∨ b.forwarding ≠ .pending) → passed) ∧
        ∀ b, s.bursts.get v = some b → b.inProgress = true → b.forwarding = .pending → after = given.setBurst v (some { b with
          forwarding := .holding, slot := some k, state := .gathering, carried := false })) ∧
      ∀ id, w.holder = .call id →
        ((∀ d, s.callOf id = some d → d.state ≠ .setup ∧ d.state ≠ .held) → passed) ∧
        ∀ d, s.callOf id = some d →
          (d.state = .setup →
            let goes (e : Call) : Call := { e with
              state := if e.b = .surface then .active else .ringing, slot := some k, waiting := false
              deadline := if e.b = .surface then none else some (s.now + 300) }
            after = (given.modCall id goes).reportCall id (goes d) (some .setup) (.live (goes d).state) .connected) ∧
          (d.state = .held →
            let goes (e : Call) : Call := { e with state := .active, slot := some k, waiting := false, deadline := none }
            after = (given.modCall id goes).reportCall id (goes d) (some .held) (.live .active) .slotGranted)

/-! ## Haulage (07_haulage_vehicles_and_junctions.md) -/

/-- STOP_VEHICLE and RELEASE_VEHICLE: what they refuse, OK where nothing changes, and a HOST reason added or removed with its
VEHICLE report. A reason that joins an empty stop set stops the vehicle and aborts what it holds (`abortWhole`): nothing when
it holds nothing; a claim of one held leg gives its junction up, with its report. An emptied stop set lets a STOPPED vehicle
be IDLE. The same of every reason, TRIP and EVACUATION included (`addReason`, `removeReason`), and the abort whole: the junctions of
the legs not yet cleared lose their holder, every lamp STOP, the claim and the wait entry go, the vehicle is STOPPED or IDLE unless UNSEEN
or LOST, CLAIM_ABORTED is produced when something was given up, and then release processing takes those junctions (`releaseAll`:
HaulageExpiries). That the VEHICLE report stands before the abort is the model's order (log entry 20). -/
def Obligations.StopAndReleaseVehicle : Prop :=
  (∀ (s : State) (v : VehNo) (r : StopReason),
    let x := s.vehicles.get v
    let added := (s.modVehicle v fun y => { y with
      stop := y.stop.put r true
      state := if x.stop = {} ∧ y.state ≠ .unseen ∧ y.state ≠ .lost then .stopped else y.state }).reportVehicle v x.state
        .reasonAdded (some r)
    (x.stop.has r = true → s.addReason v r = s) ∧
    (x.stop.has r = false → s.removeReason v r = s ∧ (x.stop ≠ {} → s.addReason v r = added) ∧
      (x.stop = {} → s.addReason v r = added.abortWhole v .stop)) ∧
    (x.stop.has r = true → s.removeReason v r = (s.modVehicle v fun y => { y with
      stop := y.stop.put r false
      state := if y.stop.put r false = {} ∧ y.state = .stopped then .idle else y.state }).reportVehicle v x.state
        .reasonRemoved (some r))) ∧
  (∀ (s : State) (v : VehNo) (cause : AbortCause),
    let x := s.vehicles.get v
    let released := x.claim.elim [] fun c => (c.legs.filter fun l => !l.cleared).map Leg.junction
    let freed := released.foldl (fun t j => t.modJunction j fun y => { y with holder := .none, go := none }) s
    let gone := ({ freed with waits := s.waits.filter fun w => w.vehicle != v } : State).modVehicle v fun y => { y with
      claim := none
      state := if y.state = .unseen ∨ y.state = .lost then y.state else if y.stop = {} then .idle else .stopped }
    let nothing := x.claim = none ∧ ∀ w ∈ s.waits, w.vehicle ≠ v
    (nothing → s.abort v cause = (gone, [])) ∧
    (¬nothing → s.abort v cause = (gone.reportAborted v cause x.claim.isSome released, released)) ∧
    s.abortWhole v cause = (s.abort v cause).1.releaseAll (s.abort v cause).2) ∧
  ∀ (s : State) (tag : Byte), s.Ready →
    (∀ k : Nat, k = 0 ∨ 12 < k → exec (.stopVehicle tag k) s = .next (s.answered tag [0x19, 0x03]) ∧
      exec (.releaseVehicle tag k) s = .next (s.answered tag [0x1A, 0x03])) ∧
    ∀ v : VehNo,
      let x := s.vehicles.get v
      let stop := Instr.stopVehicle tag (number v)
      let release := Instr.releaseVehicle tag (number v)
      let stopped := (s.modVehicle v fun y => { y with
        state := if y.state = .unseen ∨ y.state = .lost then y.state else .stopped
        stop := { host := true } }).reportVehicle v x.state .reasonAdded (some .host)
      (x.configured = false → exec stop s = .next (s.answered tag [0x19, 0x05]) ∧
        exec release s = .next (s.answered tag [0x1A, 0x05])) ∧
      (x.configured = true →
        (x.stop.host = true → exec stop s = .next (s.answered tag [0x19, 0x00])) ∧
        (x.stop.host = false → exec release s = .next (s.answered tag [0x1A, 0x00])) ∧
        (x.stop.host = false → x.stop.trip = true ∨ x.stop.evacuation = true → exec stop s =
          .next (((s.modVehicle v fun y => { y with stop := { y.stop with host := true } }).reportVehicle v x.state
            .reasonAdded (some .host)).answered tag [0x19, 0x00])) ∧
        (x.stop = {} →
          exec stop s = .next ((stopped.abortWhole v .stop).answered tag [0x19, 0x00]) ∧
          (x.claim = none → (∀ w ∈ s.waits, w.vehicle ≠ v) → exec stop s = .next (stopped.answered tag [0x19, 0x00])) ∧
          ∀ (c : Claim) (l : Leg), x.claim = some c → c.legs = [l] → l.cleared = false → s.waits = [] →
            (s.junctions.get l.junction).walkPending = false → exec stop s =
              .next ((((stopped.modJunction l.junction fun j => { j with holder := .none, go := none }).modVehicle v
                fun y => { y with claim := none }).reportAborted v .stop true [l.junction]).answered tag [0x19, 0x00])) ∧
        (x.stop.host = true → exec release s =
          .next (((s.modVehicle v fun y => { y with
            stop := { y.stop with host := false }
            state := if x.stop.trip = false ∧ x.stop.evacuation = false ∧ x.state = .stopped then .idle else x.state
            }).reportVehicle v x.state .reasonRemoved (some .host)).answered tag [0x1A, 0x00])))

/-- SET_VEHICLE at the first check of R119 that fails, or accepted (`writeVehicle`). A vehicle that keeps its configured state,
tag id and kind takes the times and the first quarter alone, and its period timer starts again when the period changes; one
that is configured anew, with nothing of it left anywhere, is UNSEEN with its period timer running. A number outside its table and a
value outside its named list are BAD_VALUE. The write whole: the fields and the period timer; for a vehicle configured, unconfigured or given
another tag id, its list left, zone and last junction none, a burst that has its Q1 marked as moved, the summary of the zone left when a
channel rides on it (`recompute`: SamplesAndFaults), TRIP and EVACUATION removed and HOST too on unconfiguration (`removeReason`:
StopAndReleaseVehicle), UNSEEN without a lost timer; for another kind the TRIP reason matched (`matchTrip`: HaulageExpiries); then a
changed tag id ends gathering with VEHICLE_CHANGED, and an unconfiguration ends gathering, gives up the slot or the request, stops
forwarding with VEHICLE_CHANGED, and removes a record that is DONE (`tgSettle`: BurstStarts). That the summary stands before the
reasons (log entry 67) and the stop before the completion test (64) is the model's choice. -/
def Obligations.SetVehicle : Prop :=
  (∀ (s : State) (v : VehNo) (new : Vehicle),
    let old := s.vehicles.get v
    let wrote := s.modVehicle v fun x => { x with
      configured := new.configured, tagId := new.tagId, kind := new.kind, overstay := new.overstay, period := new.period
      firstQuarter := new.firstQuarter
      periodAt := if new.configured = false then none
        else if old.configured = false ∨ old.period ≠ new.period then some (s.now + 10 * new.period) else old.periodAt }
    let renews := old.configured ≠ new.configured ∨ old.tagId ≠ new.tagId
    let carried := ∃ c : ChanNo, (s.channels.get c).configured = true ∧ (s.channels.get c).source = some (.vehicle v)
    let unseen (u : State) (host : Bool) : State :=
      let w := (u.removeReason v .trip).removeReason v .evacuation
      (if host then w else w.removeReason v .host).modVehicle v fun x => { x with state := .unseen, lostAt := none }
    let away := wrote.modVehicle v fun x => { x with zone := none, lastJunction := none }
    let outOf (y : ZoneNo) := ((wrote.modZone y fun q => { q with vehicles := q.vehicles.filter fun w => w != v }).modVehicle v
      fun x => { x with zone := none, lastJunction := none }).modBurst v fun b =>
        if b.inProgress && b.q1.isSome then { b with zoneChanged := true } else b
    let after := s.writeVehicle v new
    let goes (kept : State) : Prop :=
      let m := if old.kind = new.kind then kept else kept.matchTrip v
      let ended (b : Burst) := m.setBurst v (some { b with gatherEnd := some .vehicleChanged, outstanding := none })
      (new.configured = true → ¬renews → after = m) ∧
      (new.configured = true → renews →
        ((∀ b, m.bursts.get v = some b → b.inProgress = false ∨ b.gatherEnd ≠ none) → after = m) ∧
        ∀ b, m.bursts.get v = some b → b.inProgress = true → b.gatherEnd = none →
          after = (ended b).tgSettle sendStart v) ∧
      (new.configured = false →
        (m.bursts.get v = none → after = m) ∧
        ∀ b, m.bursts.get v = some b →
          let broken := if b.gatherEnd = none then ended b else m
          (b.inProgress = false → after = m.setBurst v none) ∧
          (b.inProgress = true →
            (b.forwarding = .pending ∨ b.forwarding = .holding →
              after = (broken.giveUp (.burst v)).tgStop sendStart v .vehicleChanged) ∧
            (b.forwarding ≠ .pending → b.forwarding ≠ .holding → after = broken.tgSettle sendStart v)))
    (¬renews → goes wrote) ∧
    (renews →
      (s.listZone v = none → goes (unseen away new.configured)) ∧
      ∀ y, s.listZone v = some y →
        (¬carried → goes (unseen (outOf y) new.configured)) ∧
        (carried → goes (unseen ((outOf y).recompute sendStart y) new.configured)))) ∧
  (∀ (s : State) (v : VehNo) (cause : StopCause),
    ((∀ b, s.bursts.get v = some b → b.inProgress = false) → s.tgStop sendStart v cause = s) ∧
    ∀ b, s.bursts.get v = some b → b.inProgress = true → s.tgStop sendStart v cause = (s.setBurst v (some { b with
      forwarding := .stopped cause, slot := none, state := .gathering, carried := false })).tgSettle sendStart v) ∧
  (∀ (s : State) (tag : Byte) (f : VehicleFields), s.Ready →
    f.vehicle = 0 ∨ 12 < f.vehicle ∨ 1 < f.state ∨ 16777216 ≤ f.tagId ∨ 2 < f.kind ∨ f.overstay < 30 ∨ 600 < f.overstay ∨
      f.period < 2 ∨ 30 < f.period ∨ 3 < f.firstQuarter →
    exec (.setVehicle tag f) s = .next (s.answered tag [0x17, 0x03])) ∧
  ∀ (s : State) (tag : Byte) (v : VehNo) (cfg : Bool) (id over_ period : Nat) (k : VehicleKind) (q : QuarterNo), s.Ready →
    let old := s.vehicles.get v
    let i := Instr.setVehicle tag ⟨number v, if cfg then 0 else 1, id, vehicleKinds.idxOf k, over_, period, q.val⟩
    let fits := id < 16777216 ∧ (30 ≤ over_ ∧ over_ ≤ 600) ∧ 2 ≤ period ∧ period ≤ 30
    let taken := cfg = true ∧ ∃ w : VehNo, w ≠ v ∧ (s.vehicles.get w).configured = true ∧ (s.vehicles.get w).tagId = id
    let measured := cfg = false ∧ ∃ c : ChanNo, (s.channels.get c).configured = true ∧
      (s.channels.get c).source = some (.vehicle v)
    let claiming := (cfg = false ∨ old.tagId ≠ id) ∧ (old.claim ≠ none ∨ ∃ w ∈ s.waits, w.vehicle = v)
    let new : Vehicle := { configured := cfg, tagId := id, kind := k, overstay := over_, period := period, firstQuarter := q }
    (¬fits ∨ taken → exec i s = .next (s.answered tag [0x17, 0x03])) ∧
    (fits → ¬taken → measured ∨ claiming → exec i s = .next (s.answered tag [0x17, 0x06])) ∧
    (fits → ¬taken → ¬measured → ¬claiming →
      exec i s = .next ((s.writeVehicle v new).answered tag [0x17, 0x00]) ∧
      (old.configured = true → cfg = true → old.tagId = id → old.kind = k →
        exec i s = .next ((s.modVehicle v fun x => { x with
          overstay := over_, period := period, firstQuarter := q
          periodAt := if x.period = period then x.periodAt else some (s.now + 10 * period) }).answered tag [0x17, 0x00])) ∧
      (old.configured = false → cfg = true → s.listZone v = none → old.stop = {} → s.bursts.get v = none →
        exec i s = .next ((s.modVehicle v fun x => { x with
          configured := true, tagId := id, kind := k, overstay := over_, period := period, firstQuarter := q
          periodAt := some (s.now + 10 * period), state := .unseen, zone := none, lastJunction := none
          lostAt := none }).answered tag [0x17, 0x00])))

/-- SET_JUNCTION at the first check of R120 that fails, or accepted: every lamp STOP; IN_SERVICE when its beacon is ONLINE, FAILED
otherwise; an evacuation hold at once when its zone is ORDERED or CLEARED; FAILED when written UNCONFIGURED; no report. A number
outside its table and a value outside its named list are BAD_VALUE. That a junction written IN_SERVICE at once has had its first entry
(`fresh`) is the model's choice (log entry 66). -/
def Obligations.SetJunction : Prop :=
  (∀ (s : State) (tag : Byte) (f : JunctionFields), s.Ready →
    f.junction = 0 ∨ 24 < f.junction ∨ 1 < f.state ∨ f.zone = 0 ∨ 16 < f.zone ∨ f.spur = 0 ∨ 8 < f.spur ∨ f.address = 0 ∨
      31 < f.address ∨ f.branches < 2 ∨ 4 < f.branches ∨ f.walk < 5 ∨ 60 < f.walk →
    exec (.setJunction tag f) s = .next (s.answered tag [0x18, 0x03])) ∧
  ∀ (s : State) (tag : Byte) (j : JuncNo) (cfg : Bool) (z : ZoneNo) (r : DevRef) (branches walk : Nat), s.Ready →
    let old := s.junctions.get j
    let i := Instr.setJunction tag ⟨number j, if cfg then 0 else 1, number z, number r.spur, number r.addr, branches, walk⟩
    let fits := (2 ≤ branches ∧ branches ≤ 4) ∧ 5 ≤ walk ∧ walk ≤ 60
    let used := old.holder ≠ .none ∨ old.walkPending = true ∨
      (∃ v c l, (s.vehicles.get v).claim = some c ∧ l ∈ c.legs ∧ l.junction = j) ∨
      ∃ w ∈ s.waits, ∃ l ∈ w.legs, l.junction = j
    let missing := (s.zones.get z).configured = false ∨ ¬∃ e, s.deviceAt r = some e ∧ (s.devices.get e).kind = .beacon
    let taken := ∃ k : JuncNo, k ≠ j ∧ (s.junctions.get k).configured = true ∧ (s.junctions.get k).beacon = some r
    let base : Junction := { configured := cfg, zone := some z, beacon := some r, branches := branches, walk := walk }
    (¬fits → exec i s = .next (s.answered tag [0x18, 0x03])) ∧
    (fits → used → exec i s = .next (s.answered tag [0x18, 0x06])) ∧
    (fits → ¬used → cfg = false → exec i s = .next ((s.modJunction j fun _ => base).answered tag [0x18, 0x00])) ∧
    (fits → ¬used → cfg = true → missing → exec i s = .next (s.answered tag [0x18, 0x05])) ∧
    (fits → ¬used → cfg = true → ¬missing → taken → exec i s = .next (s.answered tag [0x18, 0x03])) ∧
    (fits → ¬used → cfg = true → ¬missing → ¬taken → ∀ e, s.deviceAt r = some e →
      exec i s = .next ((s.modJunction j fun _ => { base with
        state := if (s.devices.get e).state = .online then .inService else .failed
        fresh := (s.devices.get e).state != .online
        holder := if (s.zones.get z).evac = .none then .none else .evacuation }).answered tag [0x18, 0x00]))

/-- The timers of the haulage: a vehicle unread for 60 s is LOST; a wait entry ends 60 s after it joined, its vehicle IDLE unless
LOST; a claim that stands too long is reported once and kept; a walk's deadline frees the junction, and release processing
follows (`releaseAll`), with nothing to do when no walk pends there and nobody waits. A timer that does not run is no event. The
reads of a beacon: discarded when no junction names it, ROUTE_INVALID for an unknown vehicle; a known one has its position
updated, with a change of list, burst flag and reasons when its zone changes: the list left and the list joined; with an onboard channel
the summaries of both zones (`recompute`: SamplesAndFaults) and, when it qualifies, a demand at the new zone's output (`demand`: TripDemand);
then TRIP present as kind and view say, and EVACUATION as the zone's state says (`addReason`, `removeReason`: StopAndReleaseVehicle). An approach at the first case that applies: stop
set, claim, bad leg, LOADING, failed junction, grant, wait list. A clear frees the leg's junction and ends the claim at its last
leg. A walk takes a free junction or pends. Release processing: the pending walk first, then each wait entry in turn. That the
zone and the flag stand before the summaries, and TRIP is matched before EVACUATION, is the model's order (log entries 51, 59);
the single scan of R126 is followed where R130 reads otherwise (log entry 60), and grants a LOST vehicle too (log entry 26). -/
def Obligations.HaulageExpiries : Prop :=
  let granted (t : State) (v : VehNo) (legs : List Leg) : State :=
    (legs.foldl (fun u l => u.modJunction l.junction fun y => { y with holder := .claim v, go := some l.entry })
      ({ t with waits := t.waits.filter fun w => w.vehicle != v } : State)).modVehicle v fun y => { y with
        claim := some { legs := legs, granted := t.now, overstayAt := some (t.now + 10 * y.overstay) }, state := .claimed }
  let walked (t : State) (j : JuncNo) : State := t.modJunction j fun y => { y with
    holder := .walk, go := none, walkPending := false, walkAt := some (t.now + 10 * y.walk) }
  (∀ (s : State) (r : DevRef) (l : List Read),
    let names (j : JuncNo) := (s.junctions.get j).configured = true ∧ (s.junctions.get j).beacon = some r
    ((∀ j, ¬names j) → s.beaconReads r l = s) ∧
    ∀ j, names j → (∀ k < j, ¬names k) → s.beaconReads r l = l.foldl (fun t x => t.takeRead r j x) s) ∧
  (∀ (s : State) (r : DevRef) (j : JuncNo) (id : Nat) (legs : List RawLeg),
    let carries (v : VehNo) := (s.vehicles.get v).configured = true ∧ (s.vehicles.get v).tagId = id
    let unknown := s.reportRouteInvalid r id none .unknownVehicle
    ((∀ v, ¬carries v) → s.takeRead r j (.approach id legs) = unknown ∧ s.takeRead r j (.clear id) = unknown) ∧
    ∀ v, carries v → (∀ w, carries w → w = v) →
      s.takeRead r j (.approach id legs) = (s.updatePosition v j).approach v r legs ∧
      s.takeRead r j (.clear id) = (s.updatePosition v j).clear v j) ∧
  (∀ (s : State) (v : VehNo) (j : JuncNo) (z : ZoneNo), (s.junctions.get j).zone = some z →
    let x := s.vehicles.get v
    let holds := if x.stop ≠ {} then VehicleState.stopped else if x.claim ≠ none then .claimed
      else if ∃ w ∈ s.waits, w.vehicle = v then .claimWait else .idle
    let stamp (y : Vehicle) := { y with lastRead := some s.now, lastJunction := some j, lostAt := some (s.now + 600) }
    let read : State := match x.state with
      | .unseen => s.modVehicle v fun y => stamp { y with state := holds }
      | .lost => ((s.modVehicle v fun y => { y with state := holds }).reportVehicle v .lost .found none).modVehicle v stamp
      | _ => s.modVehicle v stamp
    let told := (read.modVehicle v fun y => { y with zone := some z }).modBurst v fun b =>
      if b.inProgress && b.q1.isSome then { b with zoneChanged := true } else b
    let joined (t : State) := t.modZone z fun y => { y with vehicles := y.vehicles ++ [v] }
    let clear := x.stop.trip = false ∧ x.stop.evacuation = false ∧ (s.zones.get z).evac = .none ∧
      (x.kind = .service ∨ isTripped (s.zones.get z).view = false)
    (x.zone = some z → s.updatePosition v j = read) ∧
    (x.zone ≠ some z →
      s.updatePosition v j = ((told.vehicleEnters sendStart v z).matchTrip v).matchEvacuation v ∧
      ((∀ c : ChanNo, (s.channels.get c).configured = true → (s.channels.get c).source ≠ some (.vehicle v)) → clear →
        (s.listZone v = none → s.updatePosition v j = joined told) ∧
        ∀ y, s.listZone v = some y → y ≠ z → s.updatePosition v j =
          joined (told.modZone y fun q => { q with vehicles := q.vehicles.filter fun w => w != v })))) ∧
  (∀ (s : State) (v : VehNo),
    let x := s.vehicles.get v
    let trips := x.kind ≠ .service ∧ ∃ z, x.zone = some z ∧ ((s.zones.get z).view = some .opening ∨
      (s.zones.get z).view = some .opened ∨ (s.zones.get z).view = some .unconfirmed)
    let evacuates := ∃ z, x.zone = some z ∧ (s.zones.get z).evac ≠ .none
    (trips → s.matchTrip v = s.addReason v .trip) ∧ (¬trips → s.matchTrip v = s.removeReason v .trip) ∧
    (evacuates → s.matchEvacuation v = s.addReason v .evacuation) ∧
    (¬evacuates → s.matchEvacuation v = s.removeReason v .evacuation)) ∧
  (∀ (s : State) (v : VehNo) (z : ZoneNo),
    let carries (c : ChanNo) := (s.channels.get c).configured = true ∧ (s.channels.get c).source = some (.vehicle v)
    let after := s.vehicleEnters sendStart v z
    let left := s.listZone v
    let moved := (left.elim s fun y => s.modZone y fun q => { q with vehicles := q.vehicles.filter fun w => w != v }).modZone z
      fun q => { q with vehicles := q.vehicles ++ [v] }
    (left = some z → after = s) ∧
    (left ≠ some z →
     ((∀ c, ¬carries c) → after = moved) ∧
     ∀ c, carries c → (∀ d < c, ¬carries d) →
        let summed := (left.elim moved fun y => moved.recompute sendStart y).recompute sendStart z
        let demands := (summed.channels.get c).qualifies = true
        (¬demands → after = summed) ∧
        (demands → (∀ y, summed.channelZone c = some y → (summed.zones.get y).configured = false ∨ (summed.zones.get y).trip = none) →
          after = summed) ∧
        (demands → ∀ y o, summed.channelZone c = some y → (summed.zones.get y).configured = true →
          (summed.zones.get y).trip = some o → after = sendStart [] (summed.demand o y c)))) ∧
  (∀ (s : State) (v : VehNo) (r : DevRef) (raw : List RawLeg),
    let x := s.vehicles.get v
    let after := s.approach v r raw
    let fits (l : RawLeg) (k : Leg) := number k.junction = l.junction ∧ k.entry = l.entry ∧ k.exit = l.exit ∧
      k.cleared = false ∧ (s.junctions.get k.junction).configured = true ∧
      (1 ≤ l.entry ∧ l.entry ≤ (s.junctions.get k.junction).branches) ∧
      1 ≤ l.exit ∧ l.exit ≤ (s.junctions.get k.junction).branches
    let invalid (c : RouteCause) := s.reportRouteInvalid r x.tagId (some v) c
    let named := (raw.map fun l => l.junction).Nodup
    (x.stop ≠ {} → after = s) ∧
    (x.stop = {} → ∀ c, x.claim = some c →
      let again := ∀ l ∈ raw, ∃ k ∈ c.legs, number k.junction = l.junction
      (again → after = s) ∧
      (¬again → after = s.reportRouteConflict v (c.legs.map fun k => k.junction) (raw.map fun l => l.junction))) ∧
    (x.stop = {} → x.claim = none →
      (¬named ∨ (∃ l ∈ raw, ∀ k, ¬fits l k) → after = invalid .badLeg) ∧
      ∀ legs, named → List.Forall₂ fits raw legs →
        let failed := ∃ l ∈ legs, (s.junctions.get l.junction).state = .failed
        let free := ∀ l ∈ legs, (s.junctions.get l.junction).isFree = true
        (s.slp.mode = .loading → after = invalid .loading) ∧
        (s.slp.mode = .run → failed → after = invalid .junctionFailed) ∧
        (s.slp.mode = .run → ¬failed → free → after = granted s v legs) ∧
        (s.slp.mode = .run → ¬failed → ¬free →
          (∀ w, s.waitOf v = some w → after = { s with
            waits := s.waits.map fun y => if y.vehicle = v then { y with legs := legs } else y }) ∧
          ((∀ w ∈ s.waits, w.vehicle ≠ v) →
            (s.waits.length < 8 → after = ({ s with waits := s.waits ++ [⟨v, legs, s.now⟩] } : State).modVehicle v fun y =>
              { y with state := .claimWait }) ∧
            (8 ≤ s.waits.length → after = s.reportWaitFull v legs))))) ∧
  (∀ (s : State) (v : VehNo) (j : JuncNo),
    let x := s.vehicles.get v
    let freed (t : State) := (t.modJunction j fun y => { y with holder := .none, go := none }).releaseAll [j]
    ((∀ c, x.claim = some c → ∀ l ∈ c.legs, l.junction = j → l.cleared = true) → s.clear v j = s) ∧
    ∀ c l, x.claim = some c → l ∈ c.legs → l.junction = j → l.cleared = false →
      let legs := c.legs.map fun k => if k.junction = j then { k with cleared := true } else k
      ((∀ k ∈ legs, k.cleared = true) →
        s.clear v j = freed (s.modVehicle v fun y => { y with claim := none, state := .idle })) ∧
      ((∃ k ∈ legs, k.cleared = false) →
        s.clear v j = freed (s.modVehicle v fun y => { y with claim := some { c with legs := legs } }))) ∧
  (∀ (s : State) (r : DevRef) (j : JuncNo),
    let x := s.junctions.get j
    let after := s.takeRead r j .walk
    (x.state = .failed ∨ x.holder = .evacuation ∨ x.holder = .walk → after = s) ∧
    (x.state = .inService → ∀ v, x.holder = .claim v → after = s.modJunction j fun y => { y with walkPending := true }) ∧
    (x.state = .inService → x.holder = .none → after = walked s j)) ∧
  (∀ (s : State) (l : List JuncNo),
    let waits (t : State) (j : JuncNo) : Bool := (t.junctions.get j).state == .inService && (t.junctions.get j).holder == .none &&
      (t.junctions.get j).walkPending
    let first := l.foldl (fun t j => if waits t j then walked t j else t) s
    s.releaseAll [] = s ∧
    (l ≠ [] → s.releaseAll l = first.waits.foldl (fun t w =>
      if w.legs.all fun k => (t.junctions.get k.junction).isFree then granted t w.vehicle w.legs else t) first) ∧
    (l ≠ [] → (∀ j ∈ l, (s.junctions.get j).walkPending = false) → s.releaseAll l = s.waits.foldl (fun t w =>
      if w.legs.all fun k => (t.junctions.get k.junction).isFree then granted t w.vehicle w.legs else t) s) ∧
    ∀ j, (s.junctions.get j).state = .inService → (s.junctions.get j).holder = .none →
      (s.junctions.get j).walkPending = true → s.waits = [] → s.releaseAll [j] = walked s j) ∧
  ∀ s : State, s.slp.inReset = none →
    (∀ v : VehNo,
      let x := s.vehicles.get v
      (x.lostAt = none → exec (.lostExpiry v) s = .next s.beginSending) ∧
      (∀ t, x.lostAt = some t → exec (.lostExpiry v) s =
        .next ((((s.reach t).modVehicle v fun y => { y with state := .lost, lostAt := none }).reportVehicle v x.state .lost
          none).beginSending)) ∧
      ((∀ w ∈ s.waits, w.vehicle ≠ v) → exec (.waitEntryExpiry v) s = .next s.beginSending) ∧
      (∀ w, s.waitOf v = some w → exec (.waitEntryExpiry v) s =
        .next (((({ s.reach (w.joined + 600) with waits := s.waits.filter fun y => y.vehicle != v } : State).modVehicle v
          fun y => { y with state := if y.state = .lost then .lost else .idle }).reportWaitExpired v
            w.legs).beginSending)) ∧
      ((∀ c, x.claim = some c → c.overstayAt = none) → exec (.overstayExpiry v) s = .next s.beginSending) ∧
      ∀ c t, x.claim = some c → c.overstayAt = some t → exec (.overstayExpiry v) s =
        .next ((((s.reach t).modVehicle v fun y => { y with
          claim := some { c with reported := true, overstayAt := none } }).reportOverstay v c.granted
            (c.legs.filter fun l => !l.cleared)).beginSending)) ∧
    ∀ j : JuncNo,
      let x := s.junctions.get j
      (x.walkAt = none → exec (.walkDeadline j) s = .next s.beginSending) ∧
      ∀ t, x.walkAt = some t → x.holder = .walk →
        let ended := (s.reach t).modJunction j fun y => { y with holder := .none, go := none, walkAt := none }
        exec (.walkDeadline j) s = .next (ended.releaseAll [j]).beginSending ∧
        (x.walkPending = false → s.waits = [] → exec (.walkDeadline j) s = .next ended.beginSending)

/-! ## Telemetry bursts (08_telemetry_bursts.md) -/

/-- BURST_NOW at the first check of R139 that fails, or accepted, and the period expiry: what each starts. A burst starts with its
first quarter fetched through the beacon of the vehicle's last junction, when that is in service, and with a slot asked for,
or forwarding STOPPED while the trunk is not UP; the expiry restarts the timer, stops a burst that only waits for a slot, and
starts nothing beside a burst in progress or for an UNSEEN or LOST vehicle. The answer of a fetch that no burst awaits is
discarded; a quarter or a miss is followed by the next fetch, or the same one again, through the beacon; the fourth quarter, NOT
HEARD, the third miss and a beacon that cannot be used end gathering, which completes the burst once forwarding has ended too.
A start request held back while the slot is asked for is taken then (log entry 5), and a fetch replaces a stale one of its
vehicle (log entry 24). Completion, whole: forwarding that had nothing left is FORWARDED; the slot is released or the request
withdrawn (`giveUp`: SlotRequest); the record is DONE with its Q1 outcome, NO_Q1, ZONE_CHANGED, NO_CHANNEL or ENTERED, and reported; the
record of an unconfigured vehicle goes; and at ENTERED the Q1 reading goes to the onboard channel as a sample (`sample`:
SamplesAndFaults). -/
def Obligations.BurstStarts : Prop :=
  (∀ (s : State) (tag : Byte), s.Ready →
    (∀ n m : Nat, n = 0 ∨ 12 < n ∨ 3 < m → exec (.burstNow tag n m) s = .next (s.answered tag [0x1D, 0x03])) ∧
    ∀ (v : VehNo) (q : QuarterNo),
      let x := s.vehicles.get v
      let i := Instr.burstNow tag (number v) q.val
      let busy := ∃ b, s.bursts.get v = some b ∧ b.inProgress = true
      let begun (u : State) (b : Burst) (r : DevRef) := (u.setBurst v (some { b with outstanding := some (q, r) })).modSpur r.spur
        fun p => { p with fetches := (p.fetches.filter fun g => g.vehicle != v) ++ [⟨v, x.tagId, q, r⟩] }
      (x.configured = false → exec i s = .next (s.answered tag [0x1D, 0x05])) ∧
      (x.configured = true → busy → exec i s = .next (s.answered tag [0x1D, 0x06])) ∧
      (x.configured = true → ¬busy → x.state = .unseen → exec i s = .next (s.answered tag [0x1D, 0x09])) ∧
      (x.configured = true → ¬busy → x.state ≠ .unseen →
        exec i s = .next ((s.tgStart sendStart v .host q).settle.answered tag [0x1D, 0x00]) ∧
        ∀ (j : JuncNo) (r : DevRef), s.handOffs = [] → x.lastJunction = some j → (s.junctions.get j).configured = true →
          (s.junctions.get j).state = .inService → (s.junctions.get j).beacon = some r →
          (s.trunk.state ≠ .up → exec i s =
            .next ((begun s { origin := .host, first := q, forwarding := .stopped .noTrunk } r).answered tag
              [0x1D, 0x00])) ∧
          (s.trunk.state = .up → s.trunk.holds (.burst v) = false → s.trunk.waitsFor (.burst v) = false →
            ∀ k, s.trunk.freeSlot = some k → exec i s =
              .next ((begun (s.modTrunk fun t => { t with held := t.held ++ [⟨k, .burst v, .telemetry⟩] })
                { origin := .host, first := q, forwarding := .holding, slot := some k } r).answered tag
                  [0x1D, 0x00])))) ∧
  (∀ (s : State) (f : Fetch) (a : FetchAnswer),
    let v := f.vehicle
    let x := s.vehicles.get v
    let after := s.tgAnswer sendStart f a
    let through (r : DevRef) := ∃ j, x.lastJunction = some j ∧ (s.junctions.get j).configured = true ∧
      (s.junctions.get j).state = .inService ∧ (s.junctions.get j).beacon = some r
    ((∀ b, s.bursts.get v = some b → b.inProgress = false ∨ b.outstanding ≠ some (f.quarter, f.beacon)) → after = s) ∧
    ∀ b, s.bursts.get v = some b → b.inProgress = true → b.outstanding = some (f.quarter, f.beacon) →
      let ends (c : Burst) (cause : GatherEnd) :=
        let e := { c with gatherEnd := some cause, outstanding := none }
        after = (s.setBurst v (some e)).tgSettle sendStart v ∧
        (e.forwarding = .pending ∨ e.forwarding = .holding → e.forwarded < e.received.length →
          after = s.setBurst v (some e))
      let goesOn (c : Burst) :=
        (∀ r, through r → b.gatherEnd = none → after =
          (s.setBurst v (some { c with outstanding := some (c.nextQuarter, r) })).modSpur r.spur fun p => { p with
            fetches := (p.fetches.filter fun g => g.vehicle != v) ++ [⟨v, x.tagId, c.nextQuarter, r⟩] }) ∧
        ((∀ r, ¬through r) → ends c .beaconFailed)
      (∀ q, a = .quarter q →
        let c := { b with
          misses := 0, received := b.received ++ [q], outstanding := none
          zoneAtQ1 := if quarterNo q = 1 then x.zone else b.zoneAtQ1 }
        (b.received.length = 3 → ends c .complete) ∧ (b.received.length ≠ 3 → goesOn c)) ∧
      (a = .notHeard → ends b .notHeard) ∧
      (a = .miss →
        let c := { b with misses := b.misses + 1, outstanding := none }
        (2 ≤ b.misses → ends c .beaconFailed) ∧ (b.misses < 2 → goesOn c))) ∧
  (∀ (s : State) (v : VehNo) (b : Burst), s.bursts.get v = some b → b.inProgress = true → b.gatherEnd ≠ none →
    let waits := b.forwarding = .pending ∨ b.forwarding = .holding
    (waits → b.received.length ≤ b.forwarded) →
    let c := { b with forwarding := if b.forwarding = .pending ∨ b.forwarding = .holding then .forwarded else b.forwarding }
    let freed := (s.setBurst v (some c)).giveUp (.burst v)
    let after := s.tgSettle sendStart v
    let ends (o : Q1Outcome) : State :=
      let d := { c with slot := none, state := .done, outstanding := none, outcome := some o }
      let told := (freed.setBurst v (some d)).reportBurst v d
      if (s.vehicles.get v).configured then told else told.setBurst v none
    let channel (k : ChanNo) := (s.channels.get k).configured = true ∧ (s.channels.get k).source = some (.vehicle v)
    (b.q1 = none → after = ends .noQ1) ∧
    (b.q1 ≠ none → b.zoneChanged = true → after = ends .zoneChanged) ∧
    (b.q1 ≠ none → b.zoneChanged = false → (∀ k, ¬channel k) → after = ends .noChannel) ∧
    (∀ raw st k, b.q1 = some (raw, st) → b.zoneChanged = false → channel k → (∀ m < k, ¬channel m) →
      after = (ends .entered).sample sendStart k st raw) ∧
    (∀ k, s.trunk.held = [⟨k, .burst v, .telemetry⟩] → s.trunk.queue = [] →
      freed = (s.setBurst v (some c)).modTrunk fun t => { t with held := [] })) ∧
  ∀ (s : State) (v : VehNo), s.slp.inReset = none →
    let x := s.vehicles.get v
    let i := Instr.periodExpiry v
    (x.periodAt = none → exec i s = .next s.beginSending) ∧
    ∀ t, x.periodAt = some t →
      let again := (s.reach t).modVehicle v fun y => { y with periodAt := some (max s.now t + 10 * y.period) }
      (∀ b, s.bursts.get v = some b → b.inProgress = true →
        (b.gatherEnd ≠ none → b.forwarding = .pending →
          exec i s = .next ((again.withdraw (.burst v)).tgStop sendStart v .period).settle.beginSending) ∧
        (b.gatherEnd = none ∨ b.forwarding ≠ .pending → s.handOffs = [] → exec i s = .next again.beginSending)) ∧
      ((∀ b, s.bursts.get v = some b → b.inProgress = false) →
        (x.state = .unseen ∨ x.state = .lost → s.handOffs = [] → exec i s = .next again.beginSending) ∧
        (x.state ≠ .unseen → x.state ≠ .lost →
          exec i s = .next (again.tgStart sendStart v .periodic x.firstQuarter).settle.beginSending))

/-! ## Refuge stations (09_refuge_stations.md) -/

/-- SET_STATION and REFUGE_RESET at the first check of R147 and R150 that fails, or accepted. A station written takes its
configuration; a change of panel renews door, headcount and panel link; a newly named inside channel in ALARM is a distress
(`writeStation`), and nothing more happens when neither inside channel is in ALARM. A reset makes the latched state STANDBY
and reports it. A panel's reply writes door and headcount; an open door or a count above 0 takes a STANDBY station into
ACTIVATED, a pressed button into DISTRESS or repeats it, and another change of the panel is reported alone. A channel that enters
ALARM is a distress at each station that names it. That a station in DISTRESS already has no REFUGE report of a SET_STATION is
read from R147 (log entry 53); that an open door is reported before a headcount is the model's choice (68). -/
def Obligations.Stations : Prop :=
  (∀ (s : State) (tag : Byte) (f : StationFields), s.Ready →
    f.station = 0 ∨ 4 < f.station ∨ 1 < f.state ∨ f.zone = 0 ∨ 16 < f.zone ∨ (∃ z ∈ f.served, z = 0 ∨ 16 < z) ∨ f.spur = 0 ∨
      8 < f.spur ∨ f.address = 0 ∨ 31 < f.address ∨ 32 < f.insideO2 ∨ 32 < f.insideCo ∨ 32 < f.onActivated ∨
      32 < f.onDistress →
    exec (.setStation tag f) s = .next (s.answered tag [0x1F, 0x03])) ∧
  (∀ (s : State) (n : StationNo) (before : Station) (doorOpen pressed : Bool) (count : Nat),
    let x := s.stations.get n
    let after := s.panelReply sendStart n before doorOpen count pressed
    let read := s.modStation n fun y => { y with door := if doorOpen then .opened else .closed, headcount := count }
    let activates := x.latched = .standby ∧ (doorOpen = true ∨ 0 < count)
    let same := before.door = (if doorOpen then .opened else .closed) ∧ before.headcount = count ∧ before.online = x.online
    let active := ((read.modStation n fun y => { y with latched := .activated }).reportRefuge n .standby
      (if doorOpen then .doorOpen else .headcount)).startStation sendStart n x.onActivated .refugeActivated
    let distressed (t : State) := t.modStation n fun y => { y with latched := .distress }
    (pressed = false →
      (activates → after = active) ∧
      (¬activates → same → after = read) ∧
      (¬activates → ¬same → after = read.reportRefuge n x.latched .panelChange)) ∧
    (pressed = true →
      (x.latched = .distress → after = (distressed read).reportRefuge n .distress .distressButton) ∧
      (¬activates → x.latched ≠ .distress → after = ((distressed read).reportRefuge n x.latched .distressButton).startStation
        sendStart n x.onDistress .refugeDistress) ∧
      (activates → after = active.distress sendStart n .distressButton))) ∧
  (∀ (s : State) (c : ChanNo) (prev new : Level),
    let named (n : StationNo) := (s.stations.get n).configured = true ∧
      ((s.stations.get n).insideO2 = some c ∨ (s.stations.get n).insideCo = some c)
    (new ≠ .alarm ∨ prev = .alarm ∨ (∀ n, ¬named n) → s.rfmChannel sendStart c prev new = s) ∧
    (new = .alarm → prev ≠ .alarm → ∀ n, named n → (∀ m, m ≠ n → ¬named m) →
      s.rfmChannel sendStart c prev new = s.distress sendStart n .insideAlarm)) ∧
  (∀ (s : State) (n : StationNo) (cause : RefugeCause),
    let x := s.stations.get n
    let entered := (s.modStation n fun y => { y with latched := .distress }).reportRefuge n x.latched cause
    (x.latched = .distress → s.distress sendStart n cause = entered) ∧
    (x.latched ≠ .distress → s.distress sendStart n cause =
      entered.startStation sendStart n x.onDistress .refugeDistress)) ∧
  (∀ (s : State) (tag : Byte) (n : StationNo) (cfg : Bool) (z : ZoneNo) (served : List ZoneNo) (r : DevRef)
      (o2 co : Option ChanNo) (act dis : Option ProgNo), s.Ready →
    let old := s.stations.get n
    let i := Instr.setStation tag ⟨number n, if cfg then 0 else 1, number z, served.map number, number r.spur, number r.addr,
      optNo o2, optNo co, optNo act, optNo dis⟩
    let bad := ¬(served.Nodup ∧ 1 ≤ served.length ∧ served.length ≤ 4) ∨
      s.slp.mode = .run ∧ ∃ p : ProgNo, (act = some p ∨ dis = some p) ∧ (s.programs.get p).defined = false
    let missing := (s.zones.get z).configured = false ∨ (∃ y ∈ served, (s.zones.get y).configured = false) ∨
      (¬∃ e, s.deviceAt r = some e ∧ (s.devices.get e).kind = .refugePanel) ∨
      ∃ c, (o2 = some c ∨ co = some c) ∧ (s.channels.get c).configured = false
    let unfit := (∃ m : StationNo, m ≠ n ∧ (s.stations.get m).configured = true ∧ (s.stations.get m).panel = some r) ∨
      (∃ c, o2 = some c ∧ (s.channels.get c).gas ≠ .o2) ∨ ∃ c, co = some c ∧ (s.channels.get c).gas ≠ .co
    let new : Station := { configured := cfg, zone := some z, served := served, panel := some r, insideO2 := o2
                           insideCo := co, onActivated := act, onDistress := dis }
    let quiet := ∀ c, o2 = some c ∨ co = some c → (s.channels.get c).level ≠ .alarm
    (bad → exec i s = .next (s.answered tag [0x1F, 0x03])) ∧
    (¬bad → cfg = false →
      (old.latched ≠ .standby → exec i s = .next (s.answered tag [0x1F, 0x06])) ∧
      (old.latched = .standby → exec i s = .next ((s.modStation n fun _ => new).answered tag [0x1F, 0x00]))) ∧
    (¬bad → cfg = true →
      (missing → exec i s = .next (s.answered tag [0x1F, 0x05])) ∧
      (¬missing → unfit → exec i s = .next (s.answered tag [0x1F, 0x03])) ∧
      (¬missing → ¬unfit →
        exec i s = .next ((s.writeStation n new).answered tag [0x1F, 0x00]) ∧
        (quiet → old.configured = true → old.panel = some r → exec i s = .next ((s.modStation n fun x => { new with
          door := x.door, headcount := x.headcount, latched := x.latched, online := x.online
          strobe := x.strobe }).answered tag [0x1F, 0x00])) ∧
        (quiet → old.configured = false ∨ old.panel ≠ some r → ∀ e, s.deviceAt r = some e →
          exec i s = .next ((s.modStation n fun x => { new with
            latched := x.latched, strobe := x.strobe, online := (s.devices.get e).state == .online }).answered tag
              [0x1F, 0x00]))))) ∧
  ∀ (s : State) (tag : Byte), s.Ready →
    (∀ a b : Nat, a = 0 ∨ 4 < a ∨ 15 < b → exec (.refugeReset tag a b) s = .next (s.answered tag [0x20, 0x03])) ∧
    ∀ (n : StationNo) (k : Key),
      let x := s.stations.get n
      let i := Instr.refugeReset tag (number n) k.val
      let locked := ∃ z, x.zone = some z ∧ (s.zones.get z).key ≠ 0 ∧ (s.zones.get z).key ≠ k
      let barred := x.door ≠ .closed ∨ 0 < x.headcount ∨
        ∃ c, (x.insideO2 = some c ∨ x.insideCo = some c) ∧ (s.channels.get c).level = .alarm
      (x.configured = false → exec i s = .next (s.answered tag [0x20, 0x05])) ∧
      (x.configured = true → x.latched = .standby → exec i s = .next (s.answered tag [0x20, 0x08])) ∧
      (x.configured = true → x.latched ≠ .standby → locked → exec i s = .next (s.answered tag [0x20, 0x04])) ∧
      (x.configured = true → x.latched ≠ .standby → ¬locked → barred → exec i s = .next (s.answered tag [0x20, 0x09])) ∧
      (x.configured = true → x.latched ≠ .standby → ¬locked → ¬barred → exec i s =
        .next (((s.modStation n fun y => { y with latched := .standby }).reportRefuge n x.latched .hostReset).answered tag
          [0x20, 0x00]))

/-! ## Alarm programs (10_alarm_programs.md) -/

/-- LOAD_STEPS and SET_PROGRAM at the first check of R154 and R155 that fails, or accepted: the steps from the first index on, and
the directory entry, take the values written, and nothing else changes. A runner at a step: the program check, then the
protection check, each of which suppresses the step and ends the program; a step that passes is booked and acts: SOUND and STROBE
join a driver set, ANNOUNCE asks for a slot or plays, WAIT counts, PAGE pages the zone's list, EVACUATE orders, TEST asks a
condition (a list not empty, a MISSING tag in it, a view OPENING, OPEN or UNCONFIRMED, evacuation CLEARED; none of an UNCONFIGURED zone),
REPORT marks, TRANSFER goes; after an untimed step the runner goes on, or ends the program, DATA_CHECK when a target
failed. That PAGE, EVACUATE and WAIT take item 0 alone is the model's reading (log entry 8), and that a pattern may stand with
another action, and is kept, its choice (log entry 35). -/
def Obligations.StepsAndPrograms : Prop :=
  (∀ (s : State) (tag : Byte) (first : Nat) (l : List StepFields), s.Ready →
    (∃ x ∈ l, 8 < x.action ∨ 16 < x.zone ∨ 1 < x.chain ∨ (∃ n, x.pattern = .present n ∧ 2 < n) ∨
      ∃ n, x.pattern = .other n) →
    exec (.loadSteps tag first l) s = .next (s.answered tag [0x22, 0x03])) ∧
  (conditions = [.occupied, .missing, .tripped, .evacCleared] ∧ ∀ (s : State) (z : ZoneNo),
    let x := s.zones.get z
    (x.configured = false → ∀ c, s.condition z c = false) ∧
    (x.configured = true →
      (s.condition z .occupied = true ↔ x.occupancy ≠ []) ∧
      (s.condition z .missing = true ↔ ∃ r ∈ x.occupancy, ∃ t, s.tags.get r = some t ∧ t.state = .missing) ∧
      (s.condition z .tripped = true ↔ x.view = some .opening ∨ x.view = some .opened ∨ x.view = some .unconfirmed) ∧
      (s.condition z .evacCleared = true ↔ x.evac = .cleared))) ∧
  (∀ (s : State) (r : RunnerNo) (i : Nat) (first : Bool), 128 ≤ i →
    s.atStep r i first = ((s.modRunner r fun y => { y with checks := { y.checks with program := true } }).endRun r
      .programCheck (some i) 0, Work.head)) ∧
  (∀ (s : State) (r : RunnerNo) (k : Fin 128) (first : Bool) (p : ProgNo) (own : ZoneNo),
    let st := s.steps.get k
    let x := s.runners.get r
    x.program = some p → x.zone = some own →
    let z := if st.zone = 0 then own else resolveZone own st.zone
    let a := st.action
    let timed := a = .sound ∨ a = .strobe ∨ a = .announce ∨ a = .wait
    let onZone := a = .announce ∨ a = .page ∨ a = .evacuate ∨ a = .test
    let bad := a = .transfer ∧ (first = true ∨ x.lastTransfer = true) ∨ timed ∧ st.count = 0 ∨ ¬timed ∧ 8 ≤ x.untimed
    let barred := onZone ∧ (s.zones.get z).key ≠ 0 ∧ ∃ q, x.key = some q ∧ q ≠ 0 ∧ q ≠ (s.zones.get z).key
    let after := s.atStep r k.val first
    let stops (reason : EndReason) (f : CheckFlags → CheckFlags) := after =
      ((s.modRunner r fun y => { y with checks := f y.checks }).endRun r reason (some k.val) 0, Work.head)
    (bad → stops .programCheck fun c => { c with program := true }) ∧
    (¬bad → barred → stops .protectionCheck fun c => { c with protection := true }) ∧
    (¬bad → ¬barred → ∀ fails : Bool,
      (fails = true ↔ a = .sound ∧ (∀ g : SigNo, number g = st.item → (s.signals.get g).fault = true) ∨
        a = .strobe ∧ (∀ n : StationNo, number n = st.item →
          (s.stations.get n).configured = false ∨ (s.stations.get n).online = false) ∨
        onZone ∧ (s.zones.get z).configured = false) →
      let took := s.modRunner r fun y => { y with
        current := some k.val, lastTaken := some k.val, untimed := if timed then 0 else y.untimed + 1
        lastTransfer := decide (a = .transfer), checks := { y.checks with data := y.checks.data || fails } }
      let counts (t : State) (unit : Nat) := after =
        (t.modRunner r fun y => { y with countEnd := some (s.now + unit * st.count) }, Work.rest)
      let plays (t : State) := after = (t.modRunner r fun y => { y with
        state := .stepping, slotWaitAt := none, countEnd := some (s.now + 10 * st.count) }, Work.rest)
      let goesOn (t : State) (skip : Bool) :=
        let next := if a = .transfer then some st.item else if st.chain then some (if skip then k.val + 2 else k.val + 1)
          else none
        let data := x.checks.data = true ∨ fails = true
        (data → after = (t.endRun r .dataCheck next 0, Work.head)) ∧
        (¬data → (∀ j, next = some j → after = (t, Work.step j false)) ∧
          (next = none → after = (t.endRun r .normal none 0, Work.head)))
      (a = .wait → counts took 1) ∧
      (a = .sound → ∀ g : SigNo, number g = st.item →
        counts (took.changeDrivers g (joinRunner r (st.pattern.getD .steady) (x.urgency.getD 0))) 5) ∧
      (a = .strobe → ∀ n : StationNo, number n = st.item →
        counts (took.modStation n fun y => { y with strobe := if r ∈ y.strobe then y.strobe else y.strobe ++ [r] }) 5) ∧
      (a = .announce →
        (s.trunk.state ≠ .up → plays took) ∧
        (s.trunk.state = .up → s.trunk.holds (.runner r) = false → s.trunk.waitsFor (.runner r) = false →
          (∀ c, s.trunk.freeSlot = some c →
            plays (took.modTrunk fun y => { y with held := y.held ++ [⟨c, .runner r, .alarm⟩] })) ∧
          (s.trunk.freeSlot = none → s.trunk.victim .alarm = none → s.trunk.queue.length < 16 →
            after = ((took.modTrunk fun y => { y with queue := placeWaiting y.queue ⟨.runner r, .alarm⟩ }).modRunner r
              fun y => { y with state := .slotWait, slotWaitAt := some (s.now + 100) }, Work.rest)))) ∧
      (a = .page →
        ((s.zones.get z).configured = true → goesOn ((s.zones.get z).occupancy.foldl (fun t q => t.modTag q fun y => { y with
          page := true }) took) false) ∧
        ((s.zones.get z).configured = false → goesOn took false)) ∧
      (a = .evacuate →
        ((s.zones.get z).configured = true → goesOn (took.orderEvac z (.stepOrder r)) false) ∧
        ((s.zones.get z).configured = false → goesOn took false)) ∧
      (a = .test → ∀ c, conditions[st.item]? = some c → goesOn took (!s.condition z c)) ∧
      (a = .report → goesOn (took.reportProgramMark r p own st.item) false) ∧
      (a = .transfer → goesOn took false))) ∧
  (∀ (s : State) (tag : Byte) (first : Nat) (steps : List Step), s.Ready →
    let i := Instr.loadSteps tag first (steps.map fun x => ⟨actions.idxOf x.action, x.zone, x.item,
      x.pattern.elim .absent fun p => .present (patterns.idxOf p), x.count, if x.chain then 0 else 1⟩)
    let fits (x : Step) := x.zone ≤ 16 ∧
      match x.action with
      | .sound => (1 ≤ x.item ∧ x.item ≤ 8) ∧ x.pattern ≠ none
      | .strobe => 1 ≤ x.item ∧ x.item ≤ 4
      | .announce => 1 ≤ x.item ∧ x.item ≤ 63
      | .test => x.item ≤ 3
      | .transfer => True
      | .report => True
      | .page => x.item = 0
      | .evacuate => x.item = 0
      | .wait => x.item = 0
    let good := 1 ≤ steps.length ∧ steps.length ≤ 32 ∧ first + steps.length ≤ 128 ∧ ∀ x ∈ steps, fits x
    let busy := ∃ r : RunnerNo, (s.runners.get r).state ≠ .idle
    (¬good → exec i s = .next (s.answered tag [0x22, 0x03])) ∧
    (good → busy → exec i s = .next (s.answered tag [0x22, 0x06])) ∧
    (good → ¬busy → ∃ v : Vector Step 128,
      exec i s = .next (({ s with steps := v } : State).answered tag [0x22, 0x00]) ∧
      ∀ k : Fin 128, (k.val < first ∨ first + steps.length ≤ k.val → v.get k = s.steps.get k) ∧
        ∀ n x, k.val = first + n → steps[n]? = some x → v.get k = x)) ∧
  ∀ (s : State) (tag : Byte), s.Ready →
    (∀ n d first u k : Nat, n = 0 ∨ 32 < n ∨ 1 < d ∨ 127 < first ∨ u = 0 ∨ 7 < u ∨ 15 < k →
      exec (.setProgram tag n d first u k) s = .next (s.answered tag [0x23, 0x03])) ∧
    ∀ (p : ProgNo) (d : Bool) (first u : Nat) (k : Key), first ≤ 127 → 1 ≤ u → u ≤ 7 →
      let i := Instr.setProgram tag (number p) (if d then 0 else 1) first u k.val
      let busy := ∃ r : RunnerNo, (s.runners.get r).state ≠ .idle ∧ (s.runners.get r).program = some p
      (busy → exec i s = .next (s.answered tag [0x23, 0x06])) ∧
      (¬busy → exec i s = .next (({ s with programs := s.programs.set p ⟨d, first, u, k⟩ } : State).answered tag
        [0x23, 0x00]))

/-- START_PROGRAM at the first check of R166 that fails, or taken by R156: merged with a run or a queued start of the same pair;
started on the lowest idle runner; with every runner running, in place of the least urgent run when its urgency is 7; queued
by urgency while fewer than 16 wait, in place of the last entry of a full queue when that is less urgent, which is dropped
DISPLACED; else dropped with FULL. A start whose first step is a WAIT rests at that step. A start request held back while the
runner works is taken after it (log entry 5); these clauses begin with none. The starts that other blocks send (`sendStart`) join the
requests held back, and settling takes them: one start of a binding, with none held back before, is dropped in LOADING and for a program
that is not DEFINED, merged, or started on the lowest idle runner. -/
def Obligations.StartProgram : Prop :=
  (∀ (s : State) (q : StartReq),
    let after := sendStart [q] s
    let runs (r : RunnerNo) := (s.runners.get r).state ≠ .idle
    let mine (r : RunnerNo) := runs r ∧ (s.runners.get r).program = some q.program ∧ (s.runners.get r).zone = some q.zone
    let queued := ∃ e ∈ s.startQueue, e.req.program = q.program ∧ e.req.zone = q.zone
    let x := s.programs.get q.program
    (∀ qs, sendStart qs s = ({ s with handOffs := s.handOffs ++ qs } : State).settle) ∧
    (s.handOffs = [] → s.settle = s ∧
      (s.slp.mode = .loading → after = s.reportDropped q .loading) ∧
      (s.slp.mode = .run → x.defined = false → after = s.reportDropped q .undefined) ∧
      (s.slp.mode = .run → x.defined = true →
        (∀ r, mine r → (∀ w < r, ¬mine w) → after = s.reportMerged q (some r)) ∧
        ((∀ r, ¬mine r) → queued → after = s.reportMerged q none) ∧
        ((∀ r, ¬mine r) → ¬queued → ∀ r, ¬runs r → (∀ w < r, runs w) → (s.startOn r q).handOffs = [] →
          after = s.startOn r q)))) ∧
  ∀ (s : State) (tag : Byte), s.Ready →
    (∀ n m : Nat, n = 0 ∨ 32 < n ∨ m = 0 ∨ 16 < m → exec (.startProgram tag n m) s = .next (s.answered tag [0x24, 0x03])) ∧
    ∀ (p : ProgNo) (z : ZoneNo),
      let i := Instr.startProgram tag (number p) (number z)
      let x := s.programs.get p
      let q : StartReq := ⟨p, z, .host⟩
      let runs (r : RunnerNo) := (s.runners.get r).state ≠ .idle
      let mine (r : RunnerNo) := runs r ∧ (s.runners.get r).program = some p ∧ (s.runners.get r).zone = some z
      let absent := x.defined = false ∨ (s.zones.get z).configured = false
      let queued := ∃ e ∈ s.startQueue, e.req.program = p ∧ e.req.zone = z
      let entry : QueuedStart := ⟨q, x.urgency, s.now⟩
      let on (t : State) (r : RunnerNo) := (t.startOn r q).settle.answered tag [0x24, 0x00, 0x00, BitVec.ofNat 8 (r.val + 1)]
      (s.slp.mode = .loading → exec i s = .next (s.answered tag [0x24, 0x08])) ∧
      (s.slp.mode = .run → absent → exec i s = .next (s.answered tag [0x24, 0x05])) ∧
      (s.slp.mode = .run → ¬absent → s.handOffs = [] →
        (∀ r, mine r → (∀ w < r, ¬mine w) →
          exec i s = .next ((s.reportMerged q (some r)).answered tag [0x24, 0x00, 0x02])) ∧
        ((∀ r, ¬mine r) → queued → exec i s = .next ((s.reportMerged q none).answered tag [0x24, 0x00, 0x02])) ∧
        ((∀ r, ¬mine r) → ¬queued →
          (∀ r, ¬runs r → (∀ w < r, runs w) →
            exec i s = .next (on s r) ∧
            ∀ (k : Fin 128) (st : Step), x.first = k.val → s.steps.get k = st → st.action = .wait → 0 < st.count →
              exec i s = .next ((({ s.modRunner r fun y => { y with
                state := .stepping, program := some p, zone := some z, cause := some .host, urgency := some x.urgency
                key := some x.key, startNo := some s.nextStart, current := some k.val
                countEnd := some (s.now + st.count), untimed := 0, lastTransfer := false, checks := {}
                slotWaitAt := none, lastTaken := some k.val } with nextStart := s.nextStart + 1 } :
                  State).reportProgramStart r q x.urgency).answered tag
                    [0x24, 0x00, 0x00, BitVec.ofNat 8 (r.val + 1)])) ∧
          ((∀ r, runs r) →
            (∀ (r : RunnerNo) (u n : RunnerNo → Nat), x.urgency = 7 →
              (∀ w, (s.runners.get w).urgency = some (u w) ∧ (s.runners.get w).startNo = some (n w)) → u r < 7 →
              (∀ w, w ≠ r → u r < u w ∨ u w = u r ∧ n w < n r) →
              exec i s = .next (on (s.cutShort r .preempted) r)) ∧
            (x.urgency ≠ 7 ∨ (∀ r, (s.runners.get r).urgency = some 7) →
              (s.startQueue.length < 16 → ∀ before after : List QueuedStart, s.startQueue = before ++ after →
                (∀ e ∈ before, x.urgency ≤ e.urgency) → (∀ e ∈ after, e.urgency < x.urgency) →
                exec i s = .next (({ s with startQueue := before ++ entry :: after } : State).answered tag
                  [0x24, 0x00, 0x01])) ∧
              (16 ≤ s.startQueue.length → (∀ e ∈ s.startQueue, x.urgency ≤ e.urgency) →
                exec i s = .next ((s.reportDropped q .queueFull).answered tag [0x24, 0x07])) ∧
              (16 ≤ s.startQueue.length → ∀ (before after : List QueuedStart) (last : QueuedStart),
                s.startQueue = before ++ after ++ [last] → last.urgency < x.urgency →
                (∀ e ∈ before, x.urgency ≤ e.urgency) → (∀ e ∈ after, e.urgency < x.urgency) →
                exec i s = .next ((({ s with startQueue := before ++ entry :: after } : State).reportDropped last.req
                  .displaced).answered tag [0x24, 0x00, 0x01]))))))

/-- What ends a run: the two cancels, refused or taken (a queued start is dropped with its report), the end of a step's count and
the slot wait. A run cut short leaves its driver sets, its slot and its request, and the runner is IDLE with its run-status
record. A runner that becomes free takes the head of the start queue: it leaves the queue and starts there, PROGRAM_START first, with its
first step; a head whose program is UNDEFINED is dropped with its report and the next one taken; with nothing queued the event ends
there. The runner's work is its steps and heads in turn (`atStep`: StepsAndPrograms), under a bound that is never met (log entry 5). A step whose count ends leaves its driver set or its slot, and the runner goes
on to the step chained to it, or ends its program, NORMAL or DATA_CHECK. The model's choices: what an idle runner keeps (log
entry 45), the order of the start requests held back (log entry 5), the layout of the status record (log entries 13, 70). A run
that is cut short ends with the step that would follow its own and with the units of its count still to run, a begun one whole (log
entry 13). -/
def Obligations.ProgramEnds : Prop :=
  (∀ (s : State) (r : RunnerNo),
    let begun (u : State) (q : StartReq) := ({ u.modRunner r fun y => { y with
      state := .stepping, program := some q.program, zone := some q.zone, cause := some q.cause
      urgency := some (s.programs.get q.program).urgency, key := some (s.programs.get q.program).key
      startNo := some s.nextStart, current := none, countEnd := none, untimed := 0, lastTransfer := false, checks := {}
      slotWaitAt := none, lastTaken := none } with nextStart := s.nextStart + 1 } : State).reportProgramStart r q
        (s.programs.get q.program).urgency
    let without (gone rest : List QueuedStart) := gone.foldl (fun t d => t.reportDropped d.req .undefined)
      ({ s with startQueue := rest } : State)
    (s.startQueue = [] → s.takeHead r = (s, Work.rest) ∧ s.run r .head = s) ∧
    (∀ q rest, s.startQueue = q :: rest →
      ((s.programs.get q.req.program).defined = false →
        s.takeHead r = (({ s with startQueue := rest } : State).reportDropped q.req .undefined, Work.head)) ∧
      ((s.programs.get q.req.program).defined = true →
        s.takeHead r = (begun { s with startQueue := rest } q.req, Work.step (s.programs.get q.req.program).first true))) ∧
    (∀ gone : List QueuedStart, gone.length ≤ 16 → (∀ d ∈ gone, (s.programs.get d.req.program).defined = false) →
      (s.startQueue = gone → s.run r .head = without gone []) ∧
      ∀ q rest, s.startQueue = gone ++ q :: rest → (s.programs.get q.req.program).defined = true →
        let x := s.programs.get q.req.program
        let on := begun (without gone rest) q.req
        (∃ n, 380 ≤ n ∧ s.run r .head = on.work r n (.step x.first true)) ∧
        ∀ k : Fin 128, x.first = k.val → (s.steps.get k).action = .wait → 0 < (s.steps.get k).count →
          s.run r .head = on.modRunner r fun y => { y with
            current := some k.val, lastTaken := some k.val, countEnd := some (s.now + (s.steps.get k).count) }) ∧
    (∀ n w, w ≠ Work.rest → s.work r (n + 1) w = (s.workOnce r w).1.work r n (s.workOnce r w).2) ∧
    (∀ n, s.work r n .rest = s) ∧ (∀ w, s.run r w = s.work r 400 w) ∧
    s.workOnce r .head = s.takeHead r ∧ ∀ i first, s.workOnce r (.step i first) = s.atStep r i first) ∧
  (∀ (s : State) (tag : Byte), s.Ready →
    (∀ k : Nat, k = 0 ∨ 4 < k → exec (.cancelProgramByRunner tag k) s = .next (s.answered tag [0x25, 0x03])) ∧
    (∀ n m : Nat, n = 0 ∨ 32 < n ∨ m = 0 ∨ 16 < m →
      exec (.cancelProgramByPair tag n m) s = .next (s.answered tag [0x25, 0x03])) ∧
    (∀ r : RunnerNo,
      let i := Instr.cancelProgramByRunner tag (number r)
      ((s.runners.get r).state = .idle → exec i s = .next (s.answered tag [0x25, 0x05])) ∧
      ((s.runners.get r).state ≠ .idle →
        exec i s = .next (((s.cutShort r .cancelled).run r .head).settle.answered tag [0x25, 0x00]) ∧
        (s.startQueue = [] → s.handOffs = [] → s.trunk.queue = [] →
          exec i s = .next ((s.cutShort r .cancelled).answered tag [0x25, 0x00])))) ∧
    ∀ (p : ProgNo) (z : ZoneNo),
      let i := Instr.cancelProgramByPair tag (number p) (number z)
      (∀ r, s.runnerOf p z = some r →
        exec i s = .next (((s.cutShort r .cancelled).run r .head).settle.answered tag [0x25, 0x00])) ∧
      (s.runnerOf p z = none → ∀ (before after : List QueuedStart) (e : QueuedStart), s.startQueue = before ++ e :: after →
        e.req.program = p → e.req.zone = z → (∀ y ∈ before ++ after, ¬(y.req.program = p ∧ y.req.zone = z)) →
        exec i s = .next ((({ s with startQueue := before ++ after } : State).reportDropped e.req .cancelled).answered tag
          [0x25, 0x00])) ∧
      (s.runnerOf p z = none → (∀ y ∈ s.startQueue, ¬(y.req.program = p ∧ y.req.zone = z)) →
        exec i s = .next (s.answered tag [0x25, 0x05]))) ∧
  (∀ (s : State) (r : RunnerNo), s.slp.inReset = none →
    let x := s.runners.get r
    (x.countEnd = none → exec (.stepCountEnd r) s = .next s.beginSending) ∧
    (x.state ≠ .slotWait ∨ x.slotWaitAt = none → exec (.slotWaitExpiry r) s = .next s.beginSending) ∧
    (∀ (k : Fin 128), x.current = some k.val →
      let st := s.steps.get k
      let spent := s.modRunner r fun y => { y with countEnd := none }
      let goesOn (t : State) :=
        let next := if st.chain then some (k.val + 1) else none
        (x.checks.data = true → s.countEnds r = ((t.endRun r .dataCheck next 0).run r .head).settle) ∧
        (x.checks.data = false → (st.chain = true → s.countEnds r = (t.run r (.step (k.val + 1) false)).settle) ∧
          (st.chain = false → s.countEnds r = ((t.endRun r .normal none 0).run r .head).settle))
      (st.action = .wait → goesOn spent) ∧
      (st.action = .sound → ∀ g : SigNo, number g = st.item → goesOn (spent.changeDrivers g (leaveRunner r))) ∧
      (st.action = .strobe → ∀ n : StationNo, number n = st.item →
        goesOn (spent.modStation n fun y => { y with strobe := y.strobe.filter fun q => q != r })) ∧
      (st.action = .announce → goesOn (spent.releaseSlot (.runner r)))) ∧
    (∀ t, x.countEnd = some t →
      exec (.stepCountEnd r) s = .next ((s.reach t).countEnds r).beginSending ∧
      ∀ (k : Fin 128), x.current = some k.val → (s.steps.get k).action = .wait → (s.steps.get k).chain = false →
        x.checks.data = false → s.startQueue = [] → s.handOffs = [] → s.trunk.queue = [] →
        exec (.stepCountEnd r) s =
          .next ((((s.reach t).modRunner r fun y => { y with countEnd := none }).endRun r .normal none 0).beginSending)) ∧
    ∀ t, x.state = .slotWait → x.slotWaitAt = some t →
      let flagged := (s.reach t).modRunner r fun y => { y with checks := { y.checks with slot := true } }
      exec (.slotWaitExpiry r) s = .next (((flagged.cutShort r .slotCheck).run r .head).settle).beginSending ∧
      (s.startQueue = [] → s.handOffs = [] → s.trunk.queue = [] →
        exec (.slotWaitExpiry r) s = .next (flagged.cutShort r .slotCheck).beginSending)) ∧
  (∀ (s : State) (r : RunnerNo) (reason : EndReason),
    let x := s.runners.get r
    (x.current = none → s.cutShort r reason = s.endRun r reason none 0) ∧
    ∀ k : Fin 128, x.current = some k.val →
      let st := s.steps.get k
      let next := if st.action = .transfer then some st.item else if st.chain then some (k.val + 1) else none
      let unit := if st.action = .sound ∨ st.action = .strobe then 5 else if st.action = .announce then 10 else 1
      (∀ t, x.countEnd = some t → s.cutShort r reason = s.endRun r reason next ((t - s.now + unit - 1) / unit)) ∧
      (x.countEnd = none → s.cutShort r reason =
        s.endRun r reason next (if x.state = .slotWait then st.count else 0))) ∧
  ∀ (s : State) (r : RunnerNo) (reason : EndReason) (next : Option Nat) (residual : Nat) (p : ProgNo) (z : ZoneNo)
      (c : StartCause),
    let x := s.runners.get r
    x.program = some p → x.zone = some z → x.cause = some c → s.trunk.queue = [] →
    let left := (s.leaveDrivers r).forEach (allOf 4) fun t n => t.leaveStrobe n r
    let status : RunStatus := ⟨p, z, c, reason, x.lastTaken, next, residual, x.checks⟩
    s.endRun r reason next residual =
      (({ left with trunk := { s.trunk with held := s.trunk.held.filter fun y => y.holder != .runner r } } :
        State).modRunner r fun _ =>
          { untimed := x.untimed, lastTransfer := x.lastTransfer, checks := x.checks, record := some status }).reportProgramEnd
            r status

/-! ## Spurs and field devices (11_spur_lines_and_field_devices.md) -/

/-- The end of a transaction: a reply at the first check of R171 that fails is a miss with that cause, a reply that passes is
good, the reply limit is a miss; without a transaction under way, or late, a reply is discarded, and so is a limit. The contents that fit a
transaction, with the range of each field. The states a miss or a good reply gives a device. A poll that ends leaves its commands with the
device, its contents go to their owner, and the spur goes on; a fetch is answered. The spur's next transaction: its oldest fetch after
a poll or an empty round, else the lowest address not yet passed whose device is polled, else the next round; an OFFLINE device is polled when
the counter is 0, which the end of an empty round moves too. A fetch whose beacon is OFFLINE or STANDBY goes without an answer, one whose
beacon entry was removed is answered MISS. A poll carries what the owners' state says as it is built: voice channels, the tags to ring and
to page, the message of the runner that plays in the zone with the highest urgency, the lower start number among equals. A device without a
poll for 2.0 s falls back: lamps at STOP, strobe off, a call point without ringing, pages and message, its voice channels kept. The model's
readings: `late` (log entry 62), LINE_BUSY and the moment a poll's commands stand (22, 23), the fetch list (24), what a device holds (73),
the order in a poll (33), lamps at STOP (34), the empty round (46), and that a miss which takes a beacon OFFLINE reaches the burst before the
answer MISS (61). -/
def Obligations.SpurTransactions : Prop :=
  (∀ (s : State) (e : EntryNo) (sent : PollCommands) (f : Fetch) (y : Contents),
    let fits : Prop := match (s.devices.get e).kind, y with
      | .gasHead, .gasHead _ n1 n2 n3 n4 => n1 ≤ 4095 ∧ n2 ≤ 4095 ∧ n3 ≤ 4095 ∧ n4 ≤ 4095
      | .callPoint, .callPoint l => l.length ≤ 16 ∧ ∀ h ∈ l, h.tagId < 16777216 ∧ h.strength ≤ 15 ∧
          ∀ dial, h.button = .call dial → dial ≤ 255
      | .beacon, .beacon l => l.length ≤ 4 ∧ ∀ x ∈ l, (∀ n, x = .clear n → n < 16777216) ∧
          ∀ n legs, x = .approach n legs → n < 16777216 ∧ (1 ≤ legs.length ∧ legs.length ≤ 3) ∧
            ∀ k ∈ legs, k.junction ≤ 255 ∧ k.entry ≤ 15 ∧ k.exit ≤ 15
      | .refugePanel, .panel _ count _ => count ≤ 60
      | _, _ => False
    let sound (q : Quarter) : Prop := match q with
      | .q0 spur address speed _ => (1 ≤ spur ∧ spur ≤ 8) ∧ (1 ≤ address ∧ address ≤ 31) ∧ speed ≤ 250
      | .q1 raw _ => raw ≤ 4095
      | .q2 _ _ level => level ≤ 100
      | .q3 codes operator => codes.length ≤ 4 ∧ (∀ c ∈ codes, 1 ≤ c ∧ c ≤ 255) ∧ ∀ n, operator = some n → n < 16777216
    (s.fitsTransaction (.poll e sent) y = true ↔ fits) ∧
    (s.fitsTransaction (.fetch e f) y = true ↔ y = .notHeard ∨ ∃ q, y = .quarter q ∧ quarterNo q = f.quarter ∧ sound q)) ∧
  (∀ (s : State) (z : ZoneNo),
    let plays (r : RunnerNo) (m : Nat) := (s.runners.get r).state = .stepping ∧ (s.runners.get r).countEnd ≠ none ∧
      ∃ (k : Fin 128) (own : ZoneNo), (s.runners.get r).current = some k.val ∧ (s.runners.get r).zone = some own ∧
        (s.steps.get k).action = .announce ∧ (s.steps.get k).item = m ∧
        (if (s.steps.get k).zone = 0 then own else resolveZone own (s.steps.get k).zone) = z
    let urgency (r : RunnerNo) := (s.runners.get r).urgency.getD 0
    let startNo (r : RunnerNo) := (s.runners.get r).startNo.getD 0
    ((s.zones.get z).configured = false ∨ (∀ r m, ¬plays r m) → s.messageFor z = none) ∧
    ((s.zones.get z).configured = true → ∀ r m, plays r m →
      (∀ q n, q ≠ r → plays q n → urgency q < urgency r ∨ urgency q = urgency r ∧ startNo r < startNo q) →
      s.messageFor z = some m)) ∧
  (∀ (s : State) (p : SpurNo) (e : EntryNo) (sent : PollCommands) (f : Fetch) (c : MissCause),
    let idle := s.modSpur p fun u => { u with underWay := none }
    let left := idle.modDevice e fun d => { d with held := some (sent, s.now) }
    s.endMiss p (.poll e sent) c = ((if c = .lineBusy then idle else left).deviceMiss e c).spurNext p true ∧
    s.endMiss p (.fetch e f) c = ((idle.deviceMiss e c).tgAnswer sendStart f .miss).spurNext p false ∧
    let d := s.devices.get e
    let good := left.deviceGood e
    let ends (y : Contents) (t : State) := s.endGood p (.poll e sent) y = t.spurNext p true
    (∀ st n1 n2 n3 n4, ends (.gasHead st n1 n2 n3 n4) (good.headReply sendStart d.ref st [n1, n2, n3, n4])) ∧
    (∀ heard z, d.zone = some z → ends (.callPoint heard) (good.heardList ⟨d.ref, z, d.exitGate⟩ heard)) ∧
    (∀ reads, ends (.beacon reads) (good.beaconReads d.ref reads)) ∧
    (∀ doorOpen count pressed n, s.panelStation d.ref = some n →
      ends (.panel doorOpen count pressed) (good.panelReply sendStart n (s.stations.get n) doorOpen count pressed)) ∧
    (∀ doorOpen count pressed, s.panelStation d.ref = none → ends (.panel doorOpen count pressed) good) ∧
    (∀ q, s.endGood p (.fetch e f) (.quarter q) =
      ((idle.deviceGood e).tgAnswer sendStart f (.quarter q)).spurNext p false) ∧
    s.endGood p (.fetch e f) .notHeard = ((idle.deviceGood e).tgAnswer sendStart f .notHeard).spurNext p false) ∧
  (∀ (s : State) (p : SpurNo) (mayFetch : Bool),
    let x := s.spurs.get p
    let after := s.spurNext p mayFetch
    let due (k n : Nat) (a : Fin 31) (e : EntryNo) := s.deviceAt ⟨p, a⟩ = some e ∧ n < number a ∧
      ((s.devices.get e).state = .suspect ∨ (s.devices.get e).state = .online ∨ (s.devices.get e).state = .offline ∧ k = 0)
    let lowest (k n : Nat) (a : Fin 31) (e : EntryNo) := due k n a e ∧ ∀ b < a, ∀ g, ¬due k n b g
    let nobody (k n : Nat) := ∀ a e, ¬due k n a e
    let polls (k : Nat) (a : Fin 31) (e : EntryNo) := after = s.modSpur p fun u => { u with
      counter := k, passed := number a, underWay := some (.poll e (s.buildPoll e)) }
    let rests (k : Nat) := after = s.modSpur p fun u => { u with counter := k, passed := 31, underWay := none }
    let next := (x.counter + 1) % 8
    (x.standby = true → after = s) ∧
    (x.standby = false → mayFetch = false ∨ x.fetches = [] →
      (∀ a e, lowest x.counter x.passed a e → polls x.counter a e) ∧
      (nobody x.counter x.passed → x.passed = 0 → rests x.counter) ∧
      (nobody x.counter x.passed → x.passed ≠ 0 →
        (∀ a e, lowest next 0 a e → polls next a e) ∧ (nobody next 0 → rests next))) ∧
    (x.standby = false → mayFetch = true → ∀ f rest, x.fetches = f :: rest →
      let up (u : State) (g : Fetch) (e : EntryNo) := u.deviceAt g.beacon = some e ∧ (u.devices.get e).kind = .beacon ∧
        ((u.devices.get e).state = .suspect ∨ (u.devices.get e).state = .online)
      let takes (u : State) (g : Fetch) (more : List Fetch) (e : EntryNo) := after = u.modSpur p fun y => { y with
        fetches := more, underWay := some (.fetch e g) }
      let left := s.modSpur p fun y => { y with fetches := rest }
      let told := left.tgAnswer sendStart f .miss
      (∀ e, up s f e → takes s f rest e) ∧
      (∀ e, s.deviceAt f.beacon = some e → (s.devices.get e).kind = .beacon →
        (s.devices.get e).state = .offline ∨ (s.devices.get e).state = .standby →
        (rest = [] → after = left.spurNext p false) ∧ ∀ g more d, rest = g :: more → up s g d → takes s g more d) ∧
      ((∀ e, s.deviceAt f.beacon = some e → (s.devices.get e).kind ≠ .beacon) →
        ((told.spurs.get p).fetches = [] → (told.spurs.get p).standby = false → after = told.spurNext p false) ∧
        ∀ g more e, (told.spurs.get p).fetches = g :: more → up told g e → takes told g more e))) ∧
  (∀ (s : State) (e : EntryNo),
    let d := s.devices.get e
    let built := s.buildPoll e
    (d.kind = .gasHead → built = .gasHead) ∧
    (d.kind = .callPoint →
      let rings := s.calls.filterMap fun c => match c.b with
        | .tag r => if c.state = .ringing ∧ c.chanB.map VoiceRef.entry = some e then (s.tags.get r).map fun t => t.id else none
        | _ => none
      let pages := ((List.finRange 64).filterMap fun r => (s.tags.get r).bind fun t =>
        if t.page = true ∧ t.cur = some d.ref then some t.id else none).take 16
      built = .callPoint ((List.finRange 4).map (s.voiceTag e)) rings pages (d.zone.bind s.messageFor) ∧
      ∀ k : Fin 4, ((s.voice.get e).get k = none → s.voiceTag e k = none) ∧
        ∀ id c, (s.voice.get e).get k = some id → s.callOf id = some c →
          s.voiceTag e k = match if c.chanA = some ⟨e, k⟩ then c.a else c.b with
            | .tag r => (s.tags.get r).map fun t => t.id
            | _ => none) ∧
    (d.kind = .beacon →
      (∀ j, s.beaconJunction d.ref = some j → built = .beacon ((List.range (s.junctions.get j).branches).map fun b =>
        (s.junctions.get j).go == some (b + 1))) ∧
      (s.beaconJunction d.ref = none → built = .beacon [false, false, false, false])) ∧
    (d.kind = .refugePanel →
      (∀ n, s.panelStation d.ref = some n → (s.stations.get n).configured = true → built = .panel
        (!(s.stations.get n).strobe.isEmpty || (s.stations.get n).served.any fun z => (s.zones.get z).evac != .none)) ∧
      (s.panelStation d.ref = none → built = .panel false)) ∧
    (d.held = none → s.deviceShows e = none) ∧
    ∀ c t, d.held = some (c, t) →
      (s.now < t + 20 → s.deviceShows e = some c) ∧
      (t + 20 ≤ s.now → s.deviceShows e = some (match c with
        | .gasHead => .gasHead
        | .callPoint voice _ _ _ => .callPoint voice [] [] none
        | .beacon go => .beacon (go.map fun _ => false)
        | .panel _ => .panel false))) ∧
  (∀ (s : State) (p : SpurNo) (busy : Bool) (y : DeviceReply), s.slp.inReset = none →
    let i := Instr.deviceReply p busy y
    let limit := Instr.replyLimitExpiry p busy
    let round := Instr.emptyRoundExpiry p
    let x := s.spurs.get p
    (x.underWay = none ∨ y.late = true → exec i s = .next s.beginSending) ∧
    (x.underWay = none → exec limit s = .next s.beginSending) ∧
    (∀ t, x.underWay = some t →
      exec limit s = .next (s.endMiss p t (if busy then .lineBusy else .noReply)).beginSending) ∧
    (∀ t, x.underWay = some t → y.late = false →
      let d := s.devices.get t.entry
      let miss (c : MissCause) := exec i s = .next (s.endMiss p t c).beginSending
      let unfit := y.kind ≠ d.kind ∨ s.fitsTransaction t y.contents = false
      (busy = true → miss .lineBusy) ∧
      (busy = false →
        (y.checkGood = false → miss .badCheck) ∧
        (y.checkGood = true → y.address ≠ number d.ref.addr → miss .wrongAddress) ∧
        (y.checkGood = true → y.address = number d.ref.addr → unfit → miss .wrongKind) ∧
        (y.checkGood = true → y.address = number d.ref.addr → ¬unfit →
          exec i s = .next (s.endGood p t y.contents).beginSending))) ∧
    (x.standby = true ∨ x.underWay ≠ none → exec round s = .next s.beginSending) ∧
    (x.standby = false → x.underWay = none →
      let turned := s.modSpur p fun u => { u with counter := (x.counter + 1) % 8, passed := 0 }
      let due (a : Fin 31) (e : EntryNo) := s.deviceAt ⟨p, a⟩ = some e ∧ ((s.devices.get e).state = .suspect ∨
        (s.devices.get e).state = .online ∨ (s.devices.get e).state = .offline ∧ (x.counter + 1) % 8 = 0)
      exec round s = .next (turned.spurNext p true).beginSending ∧
      (x.fetches = [] →
        (∀ a e, due a e → (∀ b < a, ∀ g, ¬due b g) → exec round s = .next (turned.modSpur p fun u => { u with
          passed := number a, underWay := some (.poll e (s.buildPoll e)) }).beginSending) ∧
        ((∀ a e, ¬due a e) → exec round s = .next (turned.modSpur p fun u => { u with passed := 31 }).beginSending)) ∧
      ∀ f rest e, x.fetches = f :: rest → s.deviceAt f.beacon = some e → (s.devices.get e).kind = .beacon →
        (s.devices.get e).state = .suspect ∨ (s.devices.get e).state = .online →
        exec round s = .next (turned.modSpur p fun u => { u with
          fetches := rest, underWay := some (.fetch e f) }).beginSending)) ∧
  ∀ (s : State) (e : EntryNo) (c : MissCause),
    let d := s.devices.get e
    let missed (new : DeviceState) (n : Nat) := s.modDevice e fun x => { x with state := new, misses := n, lastMiss := some c }
    (d.state = .suspect → d.misses < 2 → s.deviceMiss e c = missed .suspect (d.misses + 1)) ∧
    (d.state = .suspect → 2 ≤ d.misses →
      s.deviceMiss e c = ((missed .offline 3).reportDevice e .suspect (some c)).handDevice e) ∧
    (d.state = .online → s.deviceMiss e c = (missed .suspect 1).handDevice e) ∧
    (d.state = .offline → s.deviceMiss e c = missed .offline 3) ∧
    (d.state = .standby → s.deviceMiss e c = missed .standby d.misses) ∧
    (d.state = .online → s.deviceGood e = s.modDevice e fun x => { x with misses := 0 }) ∧
    (d.state ≠ .online → s.deviceGood e =
      ((s.modDevice e fun x => { x with state := .online, misses := 0 }).reportDevice e d.state none).handDevice e)

/-- SET_SPUR and SET_DEVICE at the first check of R174 and R175 that fails, or accepted: a spur that stands so already is answered
OK alone. A spur that enters standby ends what is under way and empties its fetch list; one that leaves it begins round 0 with its
lowest address; each of its devices in address order is STANDBY or SUSPECT with no miss, and a change is handed to its owner: a
gas head's channels take the fault, a beacon's junction fails or serves and the fetches through it end, a panel's link goes. A free
entry that is configured takes the record written, SUSPECT or STANDBY with its spur, and four free voice channels. An entry that is
removed or changes its kind, spur or address ends a call point's calls in ascending id with PARTY_LOST, frees its voice channels and
clears it at its tags, as a change of its zone or flag does too; a transaction with it ends without a miss. A number outside its table
and a value outside its named list are BAD_VALUE; the zone and the exit-gate flag count for a call point alone. The model's choices:
homes are checked for CONFIGURED requests alone (log entry 71), a changed entry's transaction ends (72), what the entry then holds
(73). -/
def Obligations.SetSpurAndDevice : Prop :=
  let devicesTo (s : State) (p : SpurNo) (new : DeviceState) : State := (s.pollList p).foldl (fun t e =>
    let y := t.modDevice e fun d => { d with state := new, misses := 0 }
    if (t.devices.get e).state = new then y else y.handDevice e) s
  (∀ (s : State) (e : EntryNo),
    let d := s.devices.get e
    let faults (cause : FaultCause) := ((List.finRange 4).filterMap (s.headChannel d.ref)).foldl (fun t c =>
      t.faultEvent sendStart c cause) s
    (d.kind = .gasHead →
      (d.state = .offline → s.handDevice e = faults .deviceOffline) ∧ (d.state = .standby → s.handDevice e = faults .standby) ∧
      (d.state = .online ∨ d.state = .suspect → s.handDevice e = s)) ∧
    (d.kind = .callPoint → s.handDevice e = s) ∧
    (d.kind = .beacon → s.handDevice e = (s.hlcBeacon d.ref d.state).tgBeacon sendStart d.ref d.state) ∧
    (d.kind = .refugePanel → s.handDevice e = s.rfmDevice d.ref d.state)) ∧
  (∀ (s : State) (r : DevRef) (new : DeviceState),
    let lost := new = .offline ∨ new = .standby
    let names (j : JuncNo) := (s.junctions.get j).configured = true ∧ (s.junctions.get j).beacon = some r
    let ends (y : Junction) : Junction := { y with
      holder := if y.holder = .walk then .none else y.holder, go := if y.holder = .walk then none else y.go
      walkAt := if y.holder = .walk then none else y.walkAt, walkPending := false }
    ((∀ j, ¬names j) → s.hlcBeacon r new = s) ∧
    (∀ j, names j → (∀ k < j, ¬names k) →
      let x := s.junctions.get j
      let failed := s.modJunction j fun y => { y with state := .failed }
      let serves := s.modJunction j fun y => { y with state := .inService, fresh := false }
      (new = .suspect ∨ (new = .online ∧ x.state = .inService) ∨ (lost ∧ x.state = .failed) → s.hlcBeacon r new = s) ∧
      (new = .online → x.state = .failed →
        s.hlcBeacon r new = (if x.fresh then serves else serves.reportJunction j).releaseAll [j]) ∧
      (lost → x.state = .inService →
        (∀ v, x.holder = .claim v →
          s.hlcBeacon r new = ((failed.abortWhole v .junctionFailed).modJunction j ends).reportJunction j) ∧
        ((∀ v, x.holder ≠ .claim v) → s.hlcBeacon r new = (failed.modJunction j ends).reportJunction j))) ∧
    (¬lost → s.tgBeacon sendStart r new = s) ∧
    (lost → s.tgBeacon sendStart r new = (List.finRange 12).foldl (fun t v =>
      match t.bursts.get v with
      | none => t
      | some b => if b.inProgress = true ∧ b.outstanding.map Prod.snd = some r then
          (t.setBurst v (some { b with gatherEnd := some .beaconFailed, outstanding := none })).tgSettle sendStart v else t) s) ∧
    ((∀ n, s.panelStation r ≠ some n) ∨ new = .suspect → s.rfmDevice r new = s) ∧
    ∀ n, s.panelStation r = some n →
      let x := s.stations.get n
      let off := s.modStation n fun y => { y with online := false, door := .unknown }
      (new = .online → s.rfmDevice r new = s.modStation n fun y => { y with online := true }) ∧
      (lost → x.online = false → x.door = .unknown → s.rfmDevice r new = off) ∧
      (lost → x.online = true ∨ x.door ≠ .unknown → s.rfmDevice r new = off.reportRefuge n x.latched .panelChange)) ∧
  (∀ (s : State) (e : EntryNo) (new : Device), (s.devices.get e).configured = true →
    let old := s.devices.get e
    let p := old.ref.spur
    let same : Bool := new.configured && old.kind == new.kind && old.ref == new.ref
    let cleared (t : State) : State := { t with tags := t.tags.map (Option.map fun x =>
      if x.cur = some old.ref then { x with cur := none, strength := 0, curHeard := none } else x) }
    let ids := (List.range 256).filter fun i => s.calls.any fun c => c.id == i &&
      ((c.chanA.any fun v => v.entry == e) || c.chanB.any fun v => v.entry == e)
    let ended := ids.foldl (fun t i => t.csEnd i .partyLost) s
    let freed : State := { ended with voice := ended.voice.set e (Vector.replicate 4 none) }
    let point := if old.kind = .callPoint then
      if same then (if old.zone ≠ new.zone ∨ old.exitGate ≠ new.exitGate then cleared s else s) else cleared freed else s
    let written := point.modDevice e fun _ =>
      if new.configured = false then {}
      else if same then { old with zone := new.zone, exitGate := new.exitGate }
      else { new with
        state := if (point.spurs.get new.ref.spur).standby then .standby else .suspect
        misses := 0, lastMiss := none, held := none }
    let moved : State := if new.configured then
      { written with voice := written.voice.set e (Vector.replicate 4 none) } else written
    let idle := moved.modSpur p fun u => { u with underWay := none }
    let work := (moved.spurs.get p).underWay
    (same = true → s.writeDevice e new = written) ∧
    (same = false →
      ((∀ c, work ≠ some (.poll e c)) → (∀ f, work ≠ some (.fetch e f)) → s.writeDevice e new = moved) ∧
      (∀ c, work = some (.poll e c) → s.writeDevice e new = idle.spurNext p true) ∧
      ∀ f, work = some (.fetch e f) → s.writeDevice e new = (idle.tgAnswer sendStart f .miss).spurNext p false)) ∧
  (∀ (s : State) (tag : Byte) (f : DeviceFields), s.Ready →
    f.entry = 0 ∨ 96 < f.entry ∨ 1 < f.state ∨ f.spur = 0 ∨ 8 < f.spur ∨ f.address = 0 ∨ 31 < f.address ∨ 3 < f.kind ∨
      f.kind = deviceKinds.idxOf .callPoint ∧ (f.zone = 0 ∨ 16 < f.zone ∨ 1 < f.exitGate) →
    exec (.setDevice tag f) s = .next (s.answered tag [0x2A, 0x03])) ∧
  (∀ (s : State) (tag : Byte), s.Ready →
    (∀ k : Nat, k = 0 ∨ 8 < k → exec (.setSpurStandby tag k) s = .next (s.answered tag [0x29, 0x03]) ∧
      exec (.setSpurActive tag k) s = .next (s.answered tag [0x29, 0x03])) ∧
    ∀ p : SpurNo,
      let x := s.spurs.get p
      let standby := Instr.setSpurStandby tag (number p)
      let active := Instr.setSpurActive tag (number p)
      (x.standby = true → exec standby s = .next (s.answered tag [0x29, 0x00]) ∧
        (let t := devicesTo (s.modSpur p fun u => { u with standby := false }) p .suspect
         let waits (e : EntryNo) := (t.devices.get e).state = .standby
         ((∀ e ∈ t.pollList p, waits e) → exec active s = .next ((t.modSpur p fun u => { u with
            counter := 0, passed := 31, underWay := none }).answered tag [0x29, 0x00])) ∧
          ∀ before e after, t.pollList p = before ++ e :: after → (∀ g ∈ before, waits g) → ¬waits e →
            exec active s = .next ((t.modSpur p fun u => { u with
              counter := 0, passed := number (t.devices.get e).ref.addr, underWay := some (.poll e (t.buildPoll e)) }).answered
                tag [0x29, 0x00])) ∧
        (s.pollList p = [] → exec active s = .next ((s.modSpur p fun u => { u with
          standby := false, counter := 0, passed := 31, underWay := none }).answered tag [0x29, 0x00]))) ∧
      (x.standby = false → exec active s = .next (s.answered tag [0x29, 0x00]) ∧
        exec standby s = .next ((devicesTo (s.modSpur p fun u => { u with
          standby := true, underWay := none, fetches := [] }) p .standby).answered tag [0x29, 0x00]) ∧
        (s.pollList p = [] → exec standby s = .next ((s.modSpur p fun u => { u with
          standby := true, underWay := none, fetches := [] }).answered tag [0x29, 0x00])))) ∧
  ∀ (s : State) (tag : Byte) (e : EntryNo) (cfg : Bool) (r : DevRef) (k : DeviceKind) (z : ZoneNo) (gate : Bool), s.Ready →
    let old := s.devices.get e
    let i := Instr.setDevice tag ⟨number e, if cfg then 0 else 1, number r.spur, number r.addr, deviceKinds.idxOf k, number z,
      if gate then 0 else 1⟩
    let new : Device := { configured := cfg, ref := r, kind := k, zone := if k = .callPoint then some z else none
                          exitGate := if k = .callPoint then gate else false }
    let live := s.slp.mode = .run ∧ (old.configured = true ∧ (s.spurs.get old.ref.spur).standby = false ∨
      (s.spurs.get r.spur).standby = false)
    let free := old.configured = false ∧ cfg = false
    let taken := cfg = true ∧ ∃ a : EntryNo, a ≠ e ∧ (s.devices.get a).configured = true ∧ (s.devices.get a).ref = r
    let bound := old.configured = true ∧ s.deviceNamed old = true ∧ (cfg = false ∨ old.kind ≠ k ∨ old.ref ≠ r)
    let homeless := cfg = true ∧ k = .callPoint ∧ (s.zones.get z).configured = false
    (live → exec i s = .next (s.answered tag [0x2A, 0x08])) ∧
    (¬live → free → exec i s = .next (s.answered tag [0x2A, 0x05])) ∧
    (¬live → ¬free → taken → exec i s = .next (s.answered tag [0x2A, 0x03])) ∧
    (¬live → ¬free → ¬taken → bound → exec i s = .next (s.answered tag [0x2A, 0x06])) ∧
    (¬live → ¬free → ¬taken → ¬bound → homeless → exec i s = .next (s.answered tag [0x2A, 0x05])) ∧
    (¬live → ¬free → ¬taken → ¬bound → ¬homeless →
      exec i s = .next ((s.writeDevice e new).answered tag [0x2A, 0x00]) ∧
      (old.configured = false → exec i s =
        .next ((({ s with voice := s.voice.set e (Vector.replicate 4 none) } : State).modDevice e fun _ => { new with
          state := if (s.spurs.get r.spur).standby then .standby else .suspect }).answered tag [0x2A, 0x00])))

/-! ## Modes and what every step keeps (12_supervisory_link_modes_and_resets.md) -/

/-- START_RUN: WRONG_MODE in RUN; refused with BAD_VALUE while some binding is wanting (R185), with the kind, the number and the
field of the first: zones, stations, channels, junctions, call points, in ascending number, and within one its programs, zones,
devices and channels in their order. Otherwise the mode is RUN, and each HELD output in turn goes to OPEN with cause START and has its
feedback tested (R59): when all were HELD, each stands OPEN, or UNCONFIRMED where power is still on. ENTER_LOADING: WRONG_MODE in
LOADING; otherwise, in this order, the mode is LOADING, every output goes to HELD, queued starts are dropped and runs cut short, waits
and claims are aborted and junctions released, and each spur outside standby ends its transaction (a fetch answered MISS), sends its
broadcast reset, at which its devices fall back, and begins anew with every device SUSPECT; the configuration stands. RESET is
answered OK, and the reset is due once that reply has gone. The bytes that name a field are open (log entry 6), what a device holds
is the model's (73), and the clause on idle runners takes a request queue without entries. -/
def Obligations.ModeRequests : Prop :=
  (∀ (t : State) (o : OutNo),
    let x := t.trips.get o
    let off := x.feedbackHigh = (x.sense == .offWhenHigh)
    let opened := t.moveTrip o .opened .start
    (x.state ≠ .held → t.startTrip o = t) ∧
    (x.state = .held → (off → t.startTrip o = opened) ∧ (¬off → t.startTrip o = opened.unconfirm o .feedbackOn))) ∧
  (∀ (t : State) (p : SpurNo),
    let x := t.spurs.get p
    let fallen (u : State) : State := (u.pollList p).foldl (fun y e => y.modDevice e fun d => { d with
      held := d.held.map fun (c, m) => (c.fallenBack, m) }) u
    let suspected (u : State) : State := (u.pollList p).foldl (fun y e =>
      let z := y.modDevice e fun d => { d with state := .suspect, misses := 0 }
      if (y.devices.get e).state = .suspect then z else z.handDevice e) u
    let sent (u : State) : State := suspected (fallen (u.modSpur p fun y => { y with
      counter := 0, broadcasts := y.broadcasts + 1 }))
    let idle := t.modSpur p fun y => { y with underWay := none }
    (x.standby = true → t.broadcast p = t) ∧
    (x.standby = false →
      (x.underWay = none → t.broadcast p = sent t) ∧
      (∀ e c, x.underWay = some (.poll e c) → t.broadcast p = (sent idle).spurNext p true) ∧
      ∀ e f, x.underWay = some (.fetch e f) →
        t.broadcast p = (sent (idle.tgAnswer sendStart f .miss)).spurNext p false)) ∧
  ∀ (s : State) (tag : Byte), s.Ready →
    let undefined (p : Option ProgNo) := ∃ q, p = some q ∧ (s.programs.get q).defined = false
    let dead (z : Option ZoneNo) := ∀ y, z = some y → (s.zones.get y).configured = false
    let missing (k : DeviceKind) (r : Option DevRef) := ∀ d e, r = some d → s.deviceAt d = some e → (s.devices.get e).kind ≠ k
    let closed (c : Option ChanNo) := ∃ k, c = some k ∧ (s.channels.get k).configured = false
    let zoneFails (n f : Nat) := ∃ z : ZoneNo, let x := s.zones.get z
      n = number z ∧ x.configured = true ∧ (f = 5 ∧ undefined x.onAlarm ∨ f = 6 ∧ undefined x.onFault ∨
        f = 7 ∧ undefined x.onTrip ∨ f = 8 ∧ undefined x.onEmergency)
    let stationFails (n f : Nat) := ∃ k : StationNo, let x := s.stations.get k
      n = number k ∧ x.configured = true ∧ (f = 9 ∧ undefined x.onActivated ∨ f = 10 ∧ undefined x.onDistress ∨
        f = 3 ∧ dead x.zone ∨ f = 4 ∧ (∃ z ∈ x.served, dead (some z)) ∨ f = 5 ∧ missing .refugePanel x.panel ∨
        f = 7 ∧ closed x.insideO2 ∨ f = 8 ∧ closed x.insideCo)
    let channelFails (n f : Nat) := ∃ c : ChanNo, let x := s.channels.get c
      n = number c ∧ x.configured = true ∧
        (f = 4 ∧ (∀ r k, x.source = some (.head r k) → missing .gasHead (some r)) ∧
          (∀ v, x.source = some (.vehicle v) → (s.vehicles.get v).configured = false) ∨
        f = 5 ∧ (∀ v, x.source ≠ some (.vehicle v)) ∧ dead x.zone)
    let junctionFails (n f : Nat) := ∃ j : JuncNo, let x := s.junctions.get j
      n = number j ∧ x.configured = true ∧ (f = 3 ∧ dead x.zone ∨ f = 4 ∧ missing .beacon x.beacon)
    let pointFails (n f : Nat) := ∃ e : EntryNo, let x := s.devices.get e
      n = number e ∧ x.configured = true ∧ x.kind = .callPoint ∧ f = 6 ∧ dead x.zone
    let fails (k n f : Nat) := k = 0 ∧ zoneFails n f ∨ k = 1 ∧ stationFails n f ∨ k = 2 ∧ channelFails n f ∨
      k = 3 ∧ junctionFails n f ∨ k = 4 ∧ pointFails n f
    let place (k f : Nat) := if k = 1 then [9, 10, 3, 4, 5, 7, 8].idxOf f else f
    let before (a b : Nat × Nat × Nat) := a.1 < b.1 ∨ a.1 = b.1 ∧
      (a.2.1 < b.2.1 ∨ a.2.1 = b.2.1 ∧ place a.1 a.2.2 < place b.1 b.2.2)
    (s.slp.mode = .run → exec (.startRun tag) s = .next (s.answered tag [0x2D, 0x08])) ∧
    (s.slp.mode = .loading → ∀ k n f, fails k n f → (∀ a b c, fails a b c → ¬before (a, b, c) (k, n, f)) →
      exec (.startRun tag) s =
        .next (s.answered tag [0x2D, 0x03, BitVec.ofNat 8 k, BitVec.ofNat 8 n, Config.bindingField f])) ∧
    (s.slp.mode = .loading → (∀ k n f, ¬fails k n f) →
      let t := ((List.finRange 6).foldl State.startTrip ({ s with slp := { s.slp with mode := .run } } : State)).settle
      exec (.startRun tag) s = .next (t.answered tag [0x2D, 0x00]) ∧
      (s.handOffs = [] → (∀ o : OutNo, (s.trips.get o).state = .held) → t.slp.mode = .run ∧ ∀ o : OutNo,
        let x := s.trips.get o
        let off := x.feedbackHigh = (x.sense == .offWhenHigh)
        (off → (t.trips.get o).state = .opened ∧ (t.trips.get o).lastCause = some .start) ∧
        (¬off → (t.trips.get o).state = .unconfirmed ∧ (t.trips.get o).lastCause = some .feedbackOn))) ∧
    (s.slp.mode = .loading → exec (.enterLoading tag) s = .next (s.answered tag [0x2E, 0x08])) ∧
    (s.slp.mode = .run →
      let held := (List.finRange 6).foldl (fun t o => if (t.trips.get o).state = .held then t else t.moveTrip o .held .loading)
        ({ s with slp := { s.slp with mode := .loading } } : State)
      let dropped : State := { held.startQueue.foldl (fun t q => t.reportDropped q.req .loading) held with startQueue := [] }
      let ended := (List.finRange 4).foldl (fun t r =>
        if (t.runners.get r).state = .idle then t else t.cutShort r .loading) dropped
      let waited := ended.waits.foldl (fun t w => (t.abort w.vehicle .loading).1) ended
      let aborted := ((List.finRange 12).filter fun v => (waited.vehicles.get v).claim.isSome).foldl
        (fun x v => ((x.1.abort v .loading).1, x.2 ++ (x.1.abort v .loading).2)) (waited, [])
      let t := (List.finRange 8).foldl State.broadcast (aborted.1.releaseAll aborted.2)
      exec (.enterLoading tag) s = .next (t.answered tag [0x2E, 0x00]) ∧ t.slp.mode = .loading ∧
        (∀ o : OutNo, (t.trips.get o).state = .held) ∧ t.configuration = s.configuration ∧
        t.startQueue = [] ∧ t.waits = [] ∧ (∀ v, (t.vehicles.get v).claim = none) ∧
        (s.trunk.queue = [] →
          (∀ r, let x := s.runners.get r; x.state ≠ .idle → x.program ≠ none ∧ x.zone ≠ none ∧ x.cause ≠ none) →
          ∀ r, (t.runners.get r).state = .idle) ∧
        ∀ p : SpurNo, (s.spurs.get p).standby = false → (t.spurs.get p).broadcasts = (s.spurs.get p).broadcasts + 1 ∧
          ∀ e ∈ s.pollList p, (t.devices.get e).state = .suspect ∧ (t.devices.get e).misses = 0) ∧
    exec (.reset tag) s = .next (({ s with slp := { s.slp with resetDue := true } } : State).answered tag [0x2F, 0x00])

/-- Every step keeps the bounds of the link, at most 2 frames in the receive buffer and at most 32 reports in the queue, keeps
every output HELD in LOADING, and keeps the large tables in agreement (`TablesAgree`): the occupancy lists and the tags, the
vehicles-present lists and the vehicles, held slots and request queue within the allotment, junction holders, claims and the
route wait list, calls with the tags and the voice channels that carry them, and a CLEARED zone's occupancy list empty. -/
def Obligations.EveryStepKeepsBoundsAndHeld : Prop :=
  ∀ s t : State, step s = .next t →
    (s.LinkBounded → t.LinkBounded) ∧ (s.HeldInLoading → t.HeldInLoading) ∧ (s.TablesAgree → t.TablesAgree)

/-- An event of the field, of a pin, of the trunk or of a timer changes no configuration, no mode, no cause set and no waiting
command: only a request, the end of a frame and a reset do. -/
def Obligations.FieldEventsKeepConfiguration : Prop :=
  ∀ (c : Instr) (s t : State), c.frame? = none →
    (∀ tag body, c ≠ .unknownRequestCode tag body ∧ c ≠ .malformedRequest tag body) → (∀ bs, c ≠ .frameReceived bs) →
    c ≠ .frameSent → c ≠ .powerUp → c ≠ .supplyDip → c ≠ .resetPinLow → c ≠ .resetEnd → exec c s = .next t →
    t.configuration = s.configuration ∧ t.slp.mode = s.slp.mode ∧ t.slp.causes = s.slp.causes ∧
      t.slp.retained = s.slp.retained ∧ t.slp.inReset = s.slp.inReset ∧ t.pending = s.pending
end

