-- ==== Sys2Proof/Laws/State.lean ====
section
/-! SUPPORT. Every update of one table, and the report and time operations, field by field (Machine/Ops.lean): what each changes
and that it leaves the rest; and what an entry of a table reads after an update. -/

namespace Sys2Proof.Machine

section modSlp
variable (s : State) (f : Slp → Slp)
@[simp] theorem State.modSlp_pending : (s.modSlp f).pending = s.pending := rfl
@[simp] theorem State.modSlp_now : (s.modSlp f).now = s.now := rfl
@[simp] theorem State.modSlp_slp : (s.modSlp f).slp = f s.slp := rfl
@[simp] theorem State.modSlp_zones : (s.modSlp f).zones = s.zones := rfl
@[simp] theorem State.modSlp_channels : (s.modSlp f).channels = s.channels := rfl
@[simp] theorem State.modSlp_trips : (s.modSlp f).trips = s.trips := rfl
@[simp] theorem State.modSlp_signals : (s.modSlp f).signals = s.signals := rfl
@[simp] theorem State.modSlp_tags : (s.modSlp f).tags = s.tags := rfl
@[simp] theorem State.modSlp_calls : (s.modSlp f).calls = s.calls := rfl
@[simp] theorem State.modSlp_nextCallId : (s.modSlp f).nextCallId = s.nextCallId := rfl
@[simp] theorem State.modSlp_nextCreation : (s.modSlp f).nextCreation = s.nextCreation := rfl
@[simp] theorem State.modSlp_voice : (s.modSlp f).voice = s.voice := rfl
@[simp] theorem State.modSlp_trunk : (s.modSlp f).trunk = s.trunk := rfl
@[simp] theorem State.modSlp_vehicles : (s.modSlp f).vehicles = s.vehicles := rfl
@[simp] theorem State.modSlp_junctions : (s.modSlp f).junctions = s.junctions := rfl
@[simp] theorem State.modSlp_waits : (s.modSlp f).waits = s.waits := rfl
@[simp] theorem State.modSlp_bursts : (s.modSlp f).bursts = s.bursts := rfl
@[simp] theorem State.modSlp_stations : (s.modSlp f).stations = s.stations := rfl
@[simp] theorem State.modSlp_steps : (s.modSlp f).steps = s.steps := rfl
@[simp] theorem State.modSlp_programs : (s.modSlp f).programs = s.programs := rfl
@[simp] theorem State.modSlp_runners : (s.modSlp f).runners = s.runners := rfl
@[simp] theorem State.modSlp_startQueue : (s.modSlp f).startQueue = s.startQueue := rfl
@[simp] theorem State.modSlp_nextStart : (s.modSlp f).nextStart = s.nextStart := rfl
@[simp] theorem State.modSlp_devices : (s.modSlp f).devices = s.devices := rfl
@[simp] theorem State.modSlp_spurs : (s.modSlp f).spurs = s.spurs := rfl
@[simp] theorem State.modSlp_handOffs : (s.modSlp f).handOffs = s.handOffs := rfl
@[simp] theorem State.modSlp_answering : (s.modSlp f).answering = s.answering := rfl
end modSlp

section modZone
variable (s : State) (z : ZoneNo) (f : Zone → Zone)
@[simp] theorem State.modZone_pending : (s.modZone z f).pending = s.pending := rfl
@[simp] theorem State.modZone_now : (s.modZone z f).now = s.now := rfl
@[simp] theorem State.modZone_slp : (s.modZone z f).slp = s.slp := rfl
@[simp] theorem State.modZone_zones : (s.modZone z f).zones = s.zones.set z (f (s.zones.get z)) := rfl
@[simp] theorem State.modZone_channels : (s.modZone z f).channels = s.channels := rfl
@[simp] theorem State.modZone_trips : (s.modZone z f).trips = s.trips := rfl
@[simp] theorem State.modZone_signals : (s.modZone z f).signals = s.signals := rfl
@[simp] theorem State.modZone_tags : (s.modZone z f).tags = s.tags := rfl
@[simp] theorem State.modZone_calls : (s.modZone z f).calls = s.calls := rfl
@[simp] theorem State.modZone_nextCallId : (s.modZone z f).nextCallId = s.nextCallId := rfl
@[simp] theorem State.modZone_nextCreation : (s.modZone z f).nextCreation = s.nextCreation := rfl
@[simp] theorem State.modZone_voice : (s.modZone z f).voice = s.voice := rfl
@[simp] theorem State.modZone_trunk : (s.modZone z f).trunk = s.trunk := rfl
@[simp] theorem State.modZone_vehicles : (s.modZone z f).vehicles = s.vehicles := rfl
@[simp] theorem State.modZone_junctions : (s.modZone z f).junctions = s.junctions := rfl
@[simp] theorem State.modZone_waits : (s.modZone z f).waits = s.waits := rfl
@[simp] theorem State.modZone_bursts : (s.modZone z f).bursts = s.bursts := rfl
@[simp] theorem State.modZone_stations : (s.modZone z f).stations = s.stations := rfl
@[simp] theorem State.modZone_steps : (s.modZone z f).steps = s.steps := rfl
@[simp] theorem State.modZone_programs : (s.modZone z f).programs = s.programs := rfl
@[simp] theorem State.modZone_runners : (s.modZone z f).runners = s.runners := rfl
@[simp] theorem State.modZone_startQueue : (s.modZone z f).startQueue = s.startQueue := rfl
@[simp] theorem State.modZone_nextStart : (s.modZone z f).nextStart = s.nextStart := rfl
@[simp] theorem State.modZone_devices : (s.modZone z f).devices = s.devices := rfl
@[simp] theorem State.modZone_spurs : (s.modZone z f).spurs = s.spurs := rfl
@[simp] theorem State.modZone_handOffs : (s.modZone z f).handOffs = s.handOffs := rfl
@[simp] theorem State.modZone_answering : (s.modZone z f).answering = s.answering := rfl
end modZone

section modChannel
variable (s : State) (c : ChanNo) (f : Channel → Channel)
@[simp] theorem State.modChannel_pending : (s.modChannel c f).pending = s.pending := rfl
@[simp] theorem State.modChannel_now : (s.modChannel c f).now = s.now := rfl
@[simp] theorem State.modChannel_slp : (s.modChannel c f).slp = s.slp := rfl
@[simp] theorem State.modChannel_zones : (s.modChannel c f).zones = s.zones := rfl
@[simp] theorem State.modChannel_channels : (s.modChannel c f).channels = s.channels.set c (f (s.channels.get c)) := rfl
@[simp] theorem State.modChannel_trips : (s.modChannel c f).trips = s.trips := rfl
@[simp] theorem State.modChannel_signals : (s.modChannel c f).signals = s.signals := rfl
@[simp] theorem State.modChannel_tags : (s.modChannel c f).tags = s.tags := rfl
@[simp] theorem State.modChannel_calls : (s.modChannel c f).calls = s.calls := rfl
@[simp] theorem State.modChannel_nextCallId : (s.modChannel c f).nextCallId = s.nextCallId := rfl
@[simp] theorem State.modChannel_nextCreation : (s.modChannel c f).nextCreation = s.nextCreation := rfl
@[simp] theorem State.modChannel_voice : (s.modChannel c f).voice = s.voice := rfl
@[simp] theorem State.modChannel_trunk : (s.modChannel c f).trunk = s.trunk := rfl
@[simp] theorem State.modChannel_vehicles : (s.modChannel c f).vehicles = s.vehicles := rfl
@[simp] theorem State.modChannel_junctions : (s.modChannel c f).junctions = s.junctions := rfl
@[simp] theorem State.modChannel_waits : (s.modChannel c f).waits = s.waits := rfl
@[simp] theorem State.modChannel_bursts : (s.modChannel c f).bursts = s.bursts := rfl
@[simp] theorem State.modChannel_stations : (s.modChannel c f).stations = s.stations := rfl
@[simp] theorem State.modChannel_steps : (s.modChannel c f).steps = s.steps := rfl
@[simp] theorem State.modChannel_programs : (s.modChannel c f).programs = s.programs := rfl
@[simp] theorem State.modChannel_runners : (s.modChannel c f).runners = s.runners := rfl
@[simp] theorem State.modChannel_startQueue : (s.modChannel c f).startQueue = s.startQueue := rfl
@[simp] theorem State.modChannel_nextStart : (s.modChannel c f).nextStart = s.nextStart := rfl
@[simp] theorem State.modChannel_devices : (s.modChannel c f).devices = s.devices := rfl
@[simp] theorem State.modChannel_spurs : (s.modChannel c f).spurs = s.spurs := rfl
@[simp] theorem State.modChannel_handOffs : (s.modChannel c f).handOffs = s.handOffs := rfl
@[simp] theorem State.modChannel_answering : (s.modChannel c f).answering = s.answering := rfl
end modChannel

section modTrip
variable (s : State) (o : OutNo) (f : Trip → Trip)
@[simp] theorem State.modTrip_pending : (s.modTrip o f).pending = s.pending := rfl
@[simp] theorem State.modTrip_now : (s.modTrip o f).now = s.now := rfl
@[simp] theorem State.modTrip_slp : (s.modTrip o f).slp = s.slp := rfl
@[simp] theorem State.modTrip_zones : (s.modTrip o f).zones = s.zones := rfl
@[simp] theorem State.modTrip_channels : (s.modTrip o f).channels = s.channels := rfl
@[simp] theorem State.modTrip_trips : (s.modTrip o f).trips = s.trips.set o (f (s.trips.get o)) := rfl
@[simp] theorem State.modTrip_signals : (s.modTrip o f).signals = s.signals := rfl
@[simp] theorem State.modTrip_tags : (s.modTrip o f).tags = s.tags := rfl
@[simp] theorem State.modTrip_calls : (s.modTrip o f).calls = s.calls := rfl
@[simp] theorem State.modTrip_nextCallId : (s.modTrip o f).nextCallId = s.nextCallId := rfl
@[simp] theorem State.modTrip_nextCreation : (s.modTrip o f).nextCreation = s.nextCreation := rfl
@[simp] theorem State.modTrip_voice : (s.modTrip o f).voice = s.voice := rfl
@[simp] theorem State.modTrip_trunk : (s.modTrip o f).trunk = s.trunk := rfl
@[simp] theorem State.modTrip_vehicles : (s.modTrip o f).vehicles = s.vehicles := rfl
@[simp] theorem State.modTrip_junctions : (s.modTrip o f).junctions = s.junctions := rfl
@[simp] theorem State.modTrip_waits : (s.modTrip o f).waits = s.waits := rfl
@[simp] theorem State.modTrip_bursts : (s.modTrip o f).bursts = s.bursts := rfl
@[simp] theorem State.modTrip_stations : (s.modTrip o f).stations = s.stations := rfl
@[simp] theorem State.modTrip_steps : (s.modTrip o f).steps = s.steps := rfl
@[simp] theorem State.modTrip_programs : (s.modTrip o f).programs = s.programs := rfl
@[simp] theorem State.modTrip_runners : (s.modTrip o f).runners = s.runners := rfl
@[simp] theorem State.modTrip_startQueue : (s.modTrip o f).startQueue = s.startQueue := rfl
@[simp] theorem State.modTrip_nextStart : (s.modTrip o f).nextStart = s.nextStart := rfl
@[simp] theorem State.modTrip_devices : (s.modTrip o f).devices = s.devices := rfl
@[simp] theorem State.modTrip_spurs : (s.modTrip o f).spurs = s.spurs := rfl
@[simp] theorem State.modTrip_handOffs : (s.modTrip o f).handOffs = s.handOffs := rfl
@[simp] theorem State.modTrip_answering : (s.modTrip o f).answering = s.answering := rfl
end modTrip

section modSignal
variable (s : State) (g : SigNo) (f : Signal → Signal)
@[simp] theorem State.modSignal_pending : (s.modSignal g f).pending = s.pending := rfl
@[simp] theorem State.modSignal_now : (s.modSignal g f).now = s.now := rfl
@[simp] theorem State.modSignal_slp : (s.modSignal g f).slp = s.slp := rfl
@[simp] theorem State.modSignal_zones : (s.modSignal g f).zones = s.zones := rfl
@[simp] theorem State.modSignal_channels : (s.modSignal g f).channels = s.channels := rfl
@[simp] theorem State.modSignal_trips : (s.modSignal g f).trips = s.trips := rfl
@[simp] theorem State.modSignal_signals : (s.modSignal g f).signals = s.signals.set g (f (s.signals.get g)) := rfl
@[simp] theorem State.modSignal_tags : (s.modSignal g f).tags = s.tags := rfl
@[simp] theorem State.modSignal_calls : (s.modSignal g f).calls = s.calls := rfl
@[simp] theorem State.modSignal_nextCallId : (s.modSignal g f).nextCallId = s.nextCallId := rfl
@[simp] theorem State.modSignal_nextCreation : (s.modSignal g f).nextCreation = s.nextCreation := rfl
@[simp] theorem State.modSignal_voice : (s.modSignal g f).voice = s.voice := rfl
@[simp] theorem State.modSignal_trunk : (s.modSignal g f).trunk = s.trunk := rfl
@[simp] theorem State.modSignal_vehicles : (s.modSignal g f).vehicles = s.vehicles := rfl
@[simp] theorem State.modSignal_junctions : (s.modSignal g f).junctions = s.junctions := rfl
@[simp] theorem State.modSignal_waits : (s.modSignal g f).waits = s.waits := rfl
@[simp] theorem State.modSignal_bursts : (s.modSignal g f).bursts = s.bursts := rfl
@[simp] theorem State.modSignal_stations : (s.modSignal g f).stations = s.stations := rfl
@[simp] theorem State.modSignal_steps : (s.modSignal g f).steps = s.steps := rfl
@[simp] theorem State.modSignal_programs : (s.modSignal g f).programs = s.programs := rfl
@[simp] theorem State.modSignal_runners : (s.modSignal g f).runners = s.runners := rfl
@[simp] theorem State.modSignal_startQueue : (s.modSignal g f).startQueue = s.startQueue := rfl
@[simp] theorem State.modSignal_nextStart : (s.modSignal g f).nextStart = s.nextStart := rfl
@[simp] theorem State.modSignal_devices : (s.modSignal g f).devices = s.devices := rfl
@[simp] theorem State.modSignal_spurs : (s.modSignal g f).spurs = s.spurs := rfl
@[simp] theorem State.modSignal_handOffs : (s.modSignal g f).handOffs = s.handOffs := rfl
@[simp] theorem State.modSignal_answering : (s.modSignal g f).answering = s.answering := rfl
end modSignal

section setTag
variable (s : State) (r : Roster) (t : Option Tag)
@[simp] theorem State.setTag_pending : (s.setTag r t).pending = s.pending := rfl
@[simp] theorem State.setTag_now : (s.setTag r t).now = s.now := rfl
@[simp] theorem State.setTag_slp : (s.setTag r t).slp = s.slp := rfl
@[simp] theorem State.setTag_zones : (s.setTag r t).zones = s.zones := rfl
@[simp] theorem State.setTag_channels : (s.setTag r t).channels = s.channels := rfl
@[simp] theorem State.setTag_trips : (s.setTag r t).trips = s.trips := rfl
@[simp] theorem State.setTag_signals : (s.setTag r t).signals = s.signals := rfl
@[simp] theorem State.setTag_tags : (s.setTag r t).tags = s.tags.set r t := rfl
@[simp] theorem State.setTag_calls : (s.setTag r t).calls = s.calls := rfl
@[simp] theorem State.setTag_nextCallId : (s.setTag r t).nextCallId = s.nextCallId := rfl
@[simp] theorem State.setTag_nextCreation : (s.setTag r t).nextCreation = s.nextCreation := rfl
@[simp] theorem State.setTag_voice : (s.setTag r t).voice = s.voice := rfl
@[simp] theorem State.setTag_trunk : (s.setTag r t).trunk = s.trunk := rfl
@[simp] theorem State.setTag_vehicles : (s.setTag r t).vehicles = s.vehicles := rfl
@[simp] theorem State.setTag_junctions : (s.setTag r t).junctions = s.junctions := rfl
@[simp] theorem State.setTag_waits : (s.setTag r t).waits = s.waits := rfl
@[simp] theorem State.setTag_bursts : (s.setTag r t).bursts = s.bursts := rfl
@[simp] theorem State.setTag_stations : (s.setTag r t).stations = s.stations := rfl
@[simp] theorem State.setTag_steps : (s.setTag r t).steps = s.steps := rfl
@[simp] theorem State.setTag_programs : (s.setTag r t).programs = s.programs := rfl
@[simp] theorem State.setTag_runners : (s.setTag r t).runners = s.runners := rfl
@[simp] theorem State.setTag_startQueue : (s.setTag r t).startQueue = s.startQueue := rfl
@[simp] theorem State.setTag_nextStart : (s.setTag r t).nextStart = s.nextStart := rfl
@[simp] theorem State.setTag_devices : (s.setTag r t).devices = s.devices := rfl
@[simp] theorem State.setTag_spurs : (s.setTag r t).spurs = s.spurs := rfl
@[simp] theorem State.setTag_handOffs : (s.setTag r t).handOffs = s.handOffs := rfl
@[simp] theorem State.setTag_answering : (s.setTag r t).answering = s.answering := rfl
end setTag

section modTag
variable (s : State) (r : Roster) (f : Tag → Tag)
@[simp] theorem State.modTag_pending : (s.modTag r f).pending = s.pending := rfl
@[simp] theorem State.modTag_now : (s.modTag r f).now = s.now := rfl
@[simp] theorem State.modTag_slp : (s.modTag r f).slp = s.slp := rfl
@[simp] theorem State.modTag_zones : (s.modTag r f).zones = s.zones := rfl
@[simp] theorem State.modTag_channels : (s.modTag r f).channels = s.channels := rfl
@[simp] theorem State.modTag_trips : (s.modTag r f).trips = s.trips := rfl
@[simp] theorem State.modTag_signals : (s.modTag r f).signals = s.signals := rfl
@[simp] theorem State.modTag_tags : (s.modTag r f).tags = s.tags.set r ((s.tags.get r).map f) := rfl
@[simp] theorem State.modTag_calls : (s.modTag r f).calls = s.calls := rfl
@[simp] theorem State.modTag_nextCallId : (s.modTag r f).nextCallId = s.nextCallId := rfl
@[simp] theorem State.modTag_nextCreation : (s.modTag r f).nextCreation = s.nextCreation := rfl
@[simp] theorem State.modTag_voice : (s.modTag r f).voice = s.voice := rfl
@[simp] theorem State.modTag_trunk : (s.modTag r f).trunk = s.trunk := rfl
@[simp] theorem State.modTag_vehicles : (s.modTag r f).vehicles = s.vehicles := rfl
@[simp] theorem State.modTag_junctions : (s.modTag r f).junctions = s.junctions := rfl
@[simp] theorem State.modTag_waits : (s.modTag r f).waits = s.waits := rfl
@[simp] theorem State.modTag_bursts : (s.modTag r f).bursts = s.bursts := rfl
@[simp] theorem State.modTag_stations : (s.modTag r f).stations = s.stations := rfl
@[simp] theorem State.modTag_steps : (s.modTag r f).steps = s.steps := rfl
@[simp] theorem State.modTag_programs : (s.modTag r f).programs = s.programs := rfl
@[simp] theorem State.modTag_runners : (s.modTag r f).runners = s.runners := rfl
@[simp] theorem State.modTag_startQueue : (s.modTag r f).startQueue = s.startQueue := rfl
@[simp] theorem State.modTag_nextStart : (s.modTag r f).nextStart = s.nextStart := rfl
@[simp] theorem State.modTag_devices : (s.modTag r f).devices = s.devices := rfl
@[simp] theorem State.modTag_spurs : (s.modTag r f).spurs = s.spurs := rfl
@[simp] theorem State.modTag_handOffs : (s.modTag r f).handOffs = s.handOffs := rfl
@[simp] theorem State.modTag_answering : (s.modTag r f).answering = s.answering := rfl
end modTag

section modCall
variable (s : State) (id : Nat) (f : Call → Call)
@[simp] theorem State.modCall_pending : (s.modCall id f).pending = s.pending := rfl
@[simp] theorem State.modCall_now : (s.modCall id f).now = s.now := rfl
@[simp] theorem State.modCall_slp : (s.modCall id f).slp = s.slp := rfl
@[simp] theorem State.modCall_zones : (s.modCall id f).zones = s.zones := rfl
@[simp] theorem State.modCall_channels : (s.modCall id f).channels = s.channels := rfl
@[simp] theorem State.modCall_trips : (s.modCall id f).trips = s.trips := rfl
@[simp] theorem State.modCall_signals : (s.modCall id f).signals = s.signals := rfl
@[simp] theorem State.modCall_tags : (s.modCall id f).tags = s.tags := rfl
@[simp] theorem State.modCall_calls : (s.modCall id f).calls = s.calls.map fun c => if c.id = id then f c else c := rfl
@[simp] theorem State.modCall_nextCallId : (s.modCall id f).nextCallId = s.nextCallId := rfl
@[simp] theorem State.modCall_nextCreation : (s.modCall id f).nextCreation = s.nextCreation := rfl
@[simp] theorem State.modCall_voice : (s.modCall id f).voice = s.voice := rfl
@[simp] theorem State.modCall_trunk : (s.modCall id f).trunk = s.trunk := rfl
@[simp] theorem State.modCall_vehicles : (s.modCall id f).vehicles = s.vehicles := rfl
@[simp] theorem State.modCall_junctions : (s.modCall id f).junctions = s.junctions := rfl
@[simp] theorem State.modCall_waits : (s.modCall id f).waits = s.waits := rfl
@[simp] theorem State.modCall_bursts : (s.modCall id f).bursts = s.bursts := rfl
@[simp] theorem State.modCall_stations : (s.modCall id f).stations = s.stations := rfl
@[simp] theorem State.modCall_steps : (s.modCall id f).steps = s.steps := rfl
@[simp] theorem State.modCall_programs : (s.modCall id f).programs = s.programs := rfl
@[simp] theorem State.modCall_runners : (s.modCall id f).runners = s.runners := rfl
@[simp] theorem State.modCall_startQueue : (s.modCall id f).startQueue = s.startQueue := rfl
@[simp] theorem State.modCall_nextStart : (s.modCall id f).nextStart = s.nextStart := rfl
@[simp] theorem State.modCall_devices : (s.modCall id f).devices = s.devices := rfl
@[simp] theorem State.modCall_spurs : (s.modCall id f).spurs = s.spurs := rfl
@[simp] theorem State.modCall_handOffs : (s.modCall id f).handOffs = s.handOffs := rfl
@[simp] theorem State.modCall_answering : (s.modCall id f).answering = s.answering := rfl
end modCall

section modTrunk
variable (s : State) (f : Trunk → Trunk)
@[simp] theorem State.modTrunk_pending : (s.modTrunk f).pending = s.pending := rfl
@[simp] theorem State.modTrunk_now : (s.modTrunk f).now = s.now := rfl
@[simp] theorem State.modTrunk_slp : (s.modTrunk f).slp = s.slp := rfl
@[simp] theorem State.modTrunk_zones : (s.modTrunk f).zones = s.zones := rfl
@[simp] theorem State.modTrunk_channels : (s.modTrunk f).channels = s.channels := rfl
@[simp] theorem State.modTrunk_trips : (s.modTrunk f).trips = s.trips := rfl
@[simp] theorem State.modTrunk_signals : (s.modTrunk f).signals = s.signals := rfl
@[simp] theorem State.modTrunk_tags : (s.modTrunk f).tags = s.tags := rfl
@[simp] theorem State.modTrunk_calls : (s.modTrunk f).calls = s.calls := rfl
@[simp] theorem State.modTrunk_nextCallId : (s.modTrunk f).nextCallId = s.nextCallId := rfl
@[simp] theorem State.modTrunk_nextCreation : (s.modTrunk f).nextCreation = s.nextCreation := rfl
@[simp] theorem State.modTrunk_voice : (s.modTrunk f).voice = s.voice := rfl
@[simp] theorem State.modTrunk_trunk : (s.modTrunk f).trunk = f s.trunk := rfl
@[simp] theorem State.modTrunk_vehicles : (s.modTrunk f).vehicles = s.vehicles := rfl
@[simp] theorem State.modTrunk_junctions : (s.modTrunk f).junctions = s.junctions := rfl
@[simp] theorem State.modTrunk_waits : (s.modTrunk f).waits = s.waits := rfl
@[simp] theorem State.modTrunk_bursts : (s.modTrunk f).bursts = s.bursts := rfl
@[simp] theorem State.modTrunk_stations : (s.modTrunk f).stations = s.stations := rfl
@[simp] theorem State.modTrunk_steps : (s.modTrunk f).steps = s.steps := rfl
@[simp] theorem State.modTrunk_programs : (s.modTrunk f).programs = s.programs := rfl
@[simp] theorem State.modTrunk_runners : (s.modTrunk f).runners = s.runners := rfl
@[simp] theorem State.modTrunk_startQueue : (s.modTrunk f).startQueue = s.startQueue := rfl
@[simp] theorem State.modTrunk_nextStart : (s.modTrunk f).nextStart = s.nextStart := rfl
@[simp] theorem State.modTrunk_devices : (s.modTrunk f).devices = s.devices := rfl
@[simp] theorem State.modTrunk_spurs : (s.modTrunk f).spurs = s.spurs := rfl
@[simp] theorem State.modTrunk_handOffs : (s.modTrunk f).handOffs = s.handOffs := rfl
@[simp] theorem State.modTrunk_answering : (s.modTrunk f).answering = s.answering := rfl
end modTrunk

section modVehicle
variable (s : State) (v : VehNo) (f : Vehicle → Vehicle)
@[simp] theorem State.modVehicle_pending : (s.modVehicle v f).pending = s.pending := rfl
@[simp] theorem State.modVehicle_now : (s.modVehicle v f).now = s.now := rfl
@[simp] theorem State.modVehicle_slp : (s.modVehicle v f).slp = s.slp := rfl
@[simp] theorem State.modVehicle_zones : (s.modVehicle v f).zones = s.zones := rfl
@[simp] theorem State.modVehicle_channels : (s.modVehicle v f).channels = s.channels := rfl
@[simp] theorem State.modVehicle_trips : (s.modVehicle v f).trips = s.trips := rfl
@[simp] theorem State.modVehicle_signals : (s.modVehicle v f).signals = s.signals := rfl
@[simp] theorem State.modVehicle_tags : (s.modVehicle v f).tags = s.tags := rfl
@[simp] theorem State.modVehicle_calls : (s.modVehicle v f).calls = s.calls := rfl
@[simp] theorem State.modVehicle_nextCallId : (s.modVehicle v f).nextCallId = s.nextCallId := rfl
@[simp] theorem State.modVehicle_nextCreation : (s.modVehicle v f).nextCreation = s.nextCreation := rfl
@[simp] theorem State.modVehicle_voice : (s.modVehicle v f).voice = s.voice := rfl
@[simp] theorem State.modVehicle_trunk : (s.modVehicle v f).trunk = s.trunk := rfl
@[simp] theorem State.modVehicle_vehicles : (s.modVehicle v f).vehicles = s.vehicles.set v (f (s.vehicles.get v)) := rfl
@[simp] theorem State.modVehicle_junctions : (s.modVehicle v f).junctions = s.junctions := rfl
@[simp] theorem State.modVehicle_waits : (s.modVehicle v f).waits = s.waits := rfl
@[simp] theorem State.modVehicle_bursts : (s.modVehicle v f).bursts = s.bursts := rfl
@[simp] theorem State.modVehicle_stations : (s.modVehicle v f).stations = s.stations := rfl
@[simp] theorem State.modVehicle_steps : (s.modVehicle v f).steps = s.steps := rfl
@[simp] theorem State.modVehicle_programs : (s.modVehicle v f).programs = s.programs := rfl
@[simp] theorem State.modVehicle_runners : (s.modVehicle v f).runners = s.runners := rfl
@[simp] theorem State.modVehicle_startQueue : (s.modVehicle v f).startQueue = s.startQueue := rfl
@[simp] theorem State.modVehicle_nextStart : (s.modVehicle v f).nextStart = s.nextStart := rfl
@[simp] theorem State.modVehicle_devices : (s.modVehicle v f).devices = s.devices := rfl
@[simp] theorem State.modVehicle_spurs : (s.modVehicle v f).spurs = s.spurs := rfl
@[simp] theorem State.modVehicle_handOffs : (s.modVehicle v f).handOffs = s.handOffs := rfl
@[simp] theorem State.modVehicle_answering : (s.modVehicle v f).answering = s.answering := rfl
end modVehicle

section modJunction
variable (s : State) (j : JuncNo) (f : Junction → Junction)
@[simp] theorem State.modJunction_pending : (s.modJunction j f).pending = s.pending := rfl
@[simp] theorem State.modJunction_now : (s.modJunction j f).now = s.now := rfl
@[simp] theorem State.modJunction_slp : (s.modJunction j f).slp = s.slp := rfl
@[simp] theorem State.modJunction_zones : (s.modJunction j f).zones = s.zones := rfl
@[simp] theorem State.modJunction_channels : (s.modJunction j f).channels = s.channels := rfl
@[simp] theorem State.modJunction_trips : (s.modJunction j f).trips = s.trips := rfl
@[simp] theorem State.modJunction_signals : (s.modJunction j f).signals = s.signals := rfl
@[simp] theorem State.modJunction_tags : (s.modJunction j f).tags = s.tags := rfl
@[simp] theorem State.modJunction_calls : (s.modJunction j f).calls = s.calls := rfl
@[simp] theorem State.modJunction_nextCallId : (s.modJunction j f).nextCallId = s.nextCallId := rfl
@[simp] theorem State.modJunction_nextCreation : (s.modJunction j f).nextCreation = s.nextCreation := rfl
@[simp] theorem State.modJunction_voice : (s.modJunction j f).voice = s.voice := rfl
@[simp] theorem State.modJunction_trunk : (s.modJunction j f).trunk = s.trunk := rfl
@[simp] theorem State.modJunction_vehicles : (s.modJunction j f).vehicles = s.vehicles := rfl
@[simp] theorem State.modJunction_junctions : (s.modJunction j f).junctions = s.junctions.set j (f (s.junctions.get j)) := rfl
@[simp] theorem State.modJunction_waits : (s.modJunction j f).waits = s.waits := rfl
@[simp] theorem State.modJunction_bursts : (s.modJunction j f).bursts = s.bursts := rfl
@[simp] theorem State.modJunction_stations : (s.modJunction j f).stations = s.stations := rfl
@[simp] theorem State.modJunction_steps : (s.modJunction j f).steps = s.steps := rfl
@[simp] theorem State.modJunction_programs : (s.modJunction j f).programs = s.programs := rfl
@[simp] theorem State.modJunction_runners : (s.modJunction j f).runners = s.runners := rfl
@[simp] theorem State.modJunction_startQueue : (s.modJunction j f).startQueue = s.startQueue := rfl
@[simp] theorem State.modJunction_nextStart : (s.modJunction j f).nextStart = s.nextStart := rfl
@[simp] theorem State.modJunction_devices : (s.modJunction j f).devices = s.devices := rfl
@[simp] theorem State.modJunction_spurs : (s.modJunction j f).spurs = s.spurs := rfl
@[simp] theorem State.modJunction_handOffs : (s.modJunction j f).handOffs = s.handOffs := rfl
@[simp] theorem State.modJunction_answering : (s.modJunction j f).answering = s.answering := rfl
end modJunction

section setBurst
variable (s : State) (v : VehNo) (b : Option Burst)
@[simp] theorem State.setBurst_pending : (s.setBurst v b).pending = s.pending := rfl
@[simp] theorem State.setBurst_now : (s.setBurst v b).now = s.now := rfl
@[simp] theorem State.setBurst_slp : (s.setBurst v b).slp = s.slp := rfl
@[simp] theorem State.setBurst_zones : (s.setBurst v b).zones = s.zones := rfl
@[simp] theorem State.setBurst_channels : (s.setBurst v b).channels = s.channels := rfl
@[simp] theorem State.setBurst_trips : (s.setBurst v b).trips = s.trips := rfl
@[simp] theorem State.setBurst_signals : (s.setBurst v b).signals = s.signals := rfl
@[simp] theorem State.setBurst_tags : (s.setBurst v b).tags = s.tags := rfl
@[simp] theorem State.setBurst_calls : (s.setBurst v b).calls = s.calls := rfl
@[simp] theorem State.setBurst_nextCallId : (s.setBurst v b).nextCallId = s.nextCallId := rfl
@[simp] theorem State.setBurst_nextCreation : (s.setBurst v b).nextCreation = s.nextCreation := rfl
@[simp] theorem State.setBurst_voice : (s.setBurst v b).voice = s.voice := rfl
@[simp] theorem State.setBurst_trunk : (s.setBurst v b).trunk = s.trunk := rfl
@[simp] theorem State.setBurst_vehicles : (s.setBurst v b).vehicles = s.vehicles := rfl
@[simp] theorem State.setBurst_junctions : (s.setBurst v b).junctions = s.junctions := rfl
@[simp] theorem State.setBurst_waits : (s.setBurst v b).waits = s.waits := rfl
@[simp] theorem State.setBurst_bursts : (s.setBurst v b).bursts = s.bursts.set v b := rfl
@[simp] theorem State.setBurst_stations : (s.setBurst v b).stations = s.stations := rfl
@[simp] theorem State.setBurst_steps : (s.setBurst v b).steps = s.steps := rfl
@[simp] theorem State.setBurst_programs : (s.setBurst v b).programs = s.programs := rfl
@[simp] theorem State.setBurst_runners : (s.setBurst v b).runners = s.runners := rfl
@[simp] theorem State.setBurst_startQueue : (s.setBurst v b).startQueue = s.startQueue := rfl
@[simp] theorem State.setBurst_nextStart : (s.setBurst v b).nextStart = s.nextStart := rfl
@[simp] theorem State.setBurst_devices : (s.setBurst v b).devices = s.devices := rfl
@[simp] theorem State.setBurst_spurs : (s.setBurst v b).spurs = s.spurs := rfl
@[simp] theorem State.setBurst_handOffs : (s.setBurst v b).handOffs = s.handOffs := rfl
@[simp] theorem State.setBurst_answering : (s.setBurst v b).answering = s.answering := rfl
end setBurst

section modStation
variable (s : State) (n : StationNo) (f : Station → Station)
@[simp] theorem State.modStation_pending : (s.modStation n f).pending = s.pending := rfl
@[simp] theorem State.modStation_now : (s.modStation n f).now = s.now := rfl
@[simp] theorem State.modStation_slp : (s.modStation n f).slp = s.slp := rfl
@[simp] theorem State.modStation_zones : (s.modStation n f).zones = s.zones := rfl
@[simp] theorem State.modStation_channels : (s.modStation n f).channels = s.channels := rfl
@[simp] theorem State.modStation_trips : (s.modStation n f).trips = s.trips := rfl
@[simp] theorem State.modStation_signals : (s.modStation n f).signals = s.signals := rfl
@[simp] theorem State.modStation_tags : (s.modStation n f).tags = s.tags := rfl
@[simp] theorem State.modStation_calls : (s.modStation n f).calls = s.calls := rfl
@[simp] theorem State.modStation_nextCallId : (s.modStation n f).nextCallId = s.nextCallId := rfl
@[simp] theorem State.modStation_nextCreation : (s.modStation n f).nextCreation = s.nextCreation := rfl
@[simp] theorem State.modStation_voice : (s.modStation n f).voice = s.voice := rfl
@[simp] theorem State.modStation_trunk : (s.modStation n f).trunk = s.trunk := rfl
@[simp] theorem State.modStation_vehicles : (s.modStation n f).vehicles = s.vehicles := rfl
@[simp] theorem State.modStation_junctions : (s.modStation n f).junctions = s.junctions := rfl
@[simp] theorem State.modStation_waits : (s.modStation n f).waits = s.waits := rfl
@[simp] theorem State.modStation_bursts : (s.modStation n f).bursts = s.bursts := rfl
@[simp] theorem State.modStation_stations : (s.modStation n f).stations = s.stations.set n (f (s.stations.get n)) := rfl
@[simp] theorem State.modStation_steps : (s.modStation n f).steps = s.steps := rfl
@[simp] theorem State.modStation_programs : (s.modStation n f).programs = s.programs := rfl
@[simp] theorem State.modStation_runners : (s.modStation n f).runners = s.runners := rfl
@[simp] theorem State.modStation_startQueue : (s.modStation n f).startQueue = s.startQueue := rfl
@[simp] theorem State.modStation_nextStart : (s.modStation n f).nextStart = s.nextStart := rfl
@[simp] theorem State.modStation_devices : (s.modStation n f).devices = s.devices := rfl
@[simp] theorem State.modStation_spurs : (s.modStation n f).spurs = s.spurs := rfl
@[simp] theorem State.modStation_handOffs : (s.modStation n f).handOffs = s.handOffs := rfl
@[simp] theorem State.modStation_answering : (s.modStation n f).answering = s.answering := rfl
end modStation

section modRunner
variable (s : State) (r : RunnerNo) (f : Runner → Runner)
@[simp] theorem State.modRunner_pending : (s.modRunner r f).pending = s.pending := rfl
@[simp] theorem State.modRunner_now : (s.modRunner r f).now = s.now := rfl
@[simp] theorem State.modRunner_slp : (s.modRunner r f).slp = s.slp := rfl
@[simp] theorem State.modRunner_zones : (s.modRunner r f).zones = s.zones := rfl
@[simp] theorem State.modRunner_channels : (s.modRunner r f).channels = s.channels := rfl
@[simp] theorem State.modRunner_trips : (s.modRunner r f).trips = s.trips := rfl
@[simp] theorem State.modRunner_signals : (s.modRunner r f).signals = s.signals := rfl
@[simp] theorem State.modRunner_tags : (s.modRunner r f).tags = s.tags := rfl
@[simp] theorem State.modRunner_calls : (s.modRunner r f).calls = s.calls := rfl
@[simp] theorem State.modRunner_nextCallId : (s.modRunner r f).nextCallId = s.nextCallId := rfl
@[simp] theorem State.modRunner_nextCreation : (s.modRunner r f).nextCreation = s.nextCreation := rfl
@[simp] theorem State.modRunner_voice : (s.modRunner r f).voice = s.voice := rfl
@[simp] theorem State.modRunner_trunk : (s.modRunner r f).trunk = s.trunk := rfl
@[simp] theorem State.modRunner_vehicles : (s.modRunner r f).vehicles = s.vehicles := rfl
@[simp] theorem State.modRunner_junctions : (s.modRunner r f).junctions = s.junctions := rfl
@[simp] theorem State.modRunner_waits : (s.modRunner r f).waits = s.waits := rfl
@[simp] theorem State.modRunner_bursts : (s.modRunner r f).bursts = s.bursts := rfl
@[simp] theorem State.modRunner_stations : (s.modRunner r f).stations = s.stations := rfl
@[simp] theorem State.modRunner_steps : (s.modRunner r f).steps = s.steps := rfl
@[simp] theorem State.modRunner_programs : (s.modRunner r f).programs = s.programs := rfl
@[simp] theorem State.modRunner_runners : (s.modRunner r f).runners = s.runners.set r (f (s.runners.get r)) := rfl
@[simp] theorem State.modRunner_startQueue : (s.modRunner r f).startQueue = s.startQueue := rfl
@[simp] theorem State.modRunner_nextStart : (s.modRunner r f).nextStart = s.nextStart := rfl
@[simp] theorem State.modRunner_devices : (s.modRunner r f).devices = s.devices := rfl
@[simp] theorem State.modRunner_spurs : (s.modRunner r f).spurs = s.spurs := rfl
@[simp] theorem State.modRunner_handOffs : (s.modRunner r f).handOffs = s.handOffs := rfl
@[simp] theorem State.modRunner_answering : (s.modRunner r f).answering = s.answering := rfl
end modRunner

section modDevice
variable (s : State) (e : EntryNo) (f : Device → Device)
@[simp] theorem State.modDevice_pending : (s.modDevice e f).pending = s.pending := rfl
@[simp] theorem State.modDevice_now : (s.modDevice e f).now = s.now := rfl
@[simp] theorem State.modDevice_slp : (s.modDevice e f).slp = s.slp := rfl
@[simp] theorem State.modDevice_zones : (s.modDevice e f).zones = s.zones := rfl
@[simp] theorem State.modDevice_channels : (s.modDevice e f).channels = s.channels := rfl
@[simp] theorem State.modDevice_trips : (s.modDevice e f).trips = s.trips := rfl
@[simp] theorem State.modDevice_signals : (s.modDevice e f).signals = s.signals := rfl
@[simp] theorem State.modDevice_tags : (s.modDevice e f).tags = s.tags := rfl
@[simp] theorem State.modDevice_calls : (s.modDevice e f).calls = s.calls := rfl
@[simp] theorem State.modDevice_nextCallId : (s.modDevice e f).nextCallId = s.nextCallId := rfl
@[simp] theorem State.modDevice_nextCreation : (s.modDevice e f).nextCreation = s.nextCreation := rfl
@[simp] theorem State.modDevice_voice : (s.modDevice e f).voice = s.voice := rfl
@[simp] theorem State.modDevice_trunk : (s.modDevice e f).trunk = s.trunk := rfl
@[simp] theorem State.modDevice_vehicles : (s.modDevice e f).vehicles = s.vehicles := rfl
@[simp] theorem State.modDevice_junctions : (s.modDevice e f).junctions = s.junctions := rfl
@[simp] theorem State.modDevice_waits : (s.modDevice e f).waits = s.waits := rfl
@[simp] theorem State.modDevice_bursts : (s.modDevice e f).bursts = s.bursts := rfl
@[simp] theorem State.modDevice_stations : (s.modDevice e f).stations = s.stations := rfl
@[simp] theorem State.modDevice_steps : (s.modDevice e f).steps = s.steps := rfl
@[simp] theorem State.modDevice_programs : (s.modDevice e f).programs = s.programs := rfl
@[simp] theorem State.modDevice_runners : (s.modDevice e f).runners = s.runners := rfl
@[simp] theorem State.modDevice_startQueue : (s.modDevice e f).startQueue = s.startQueue := rfl
@[simp] theorem State.modDevice_nextStart : (s.modDevice e f).nextStart = s.nextStart := rfl
@[simp] theorem State.modDevice_devices : (s.modDevice e f).devices = s.devices.set e (f (s.devices.get e)) := rfl
@[simp] theorem State.modDevice_spurs : (s.modDevice e f).spurs = s.spurs := rfl
@[simp] theorem State.modDevice_handOffs : (s.modDevice e f).handOffs = s.handOffs := rfl
@[simp] theorem State.modDevice_answering : (s.modDevice e f).answering = s.answering := rfl
end modDevice

section modSpur
variable (s : State) (p : SpurNo) (f : Spur → Spur)
@[simp] theorem State.modSpur_pending : (s.modSpur p f).pending = s.pending := rfl
@[simp] theorem State.modSpur_now : (s.modSpur p f).now = s.now := rfl
@[simp] theorem State.modSpur_slp : (s.modSpur p f).slp = s.slp := rfl
@[simp] theorem State.modSpur_zones : (s.modSpur p f).zones = s.zones := rfl
@[simp] theorem State.modSpur_channels : (s.modSpur p f).channels = s.channels := rfl
@[simp] theorem State.modSpur_trips : (s.modSpur p f).trips = s.trips := rfl
@[simp] theorem State.modSpur_signals : (s.modSpur p f).signals = s.signals := rfl
@[simp] theorem State.modSpur_tags : (s.modSpur p f).tags = s.tags := rfl
@[simp] theorem State.modSpur_calls : (s.modSpur p f).calls = s.calls := rfl
@[simp] theorem State.modSpur_nextCallId : (s.modSpur p f).nextCallId = s.nextCallId := rfl
@[simp] theorem State.modSpur_nextCreation : (s.modSpur p f).nextCreation = s.nextCreation := rfl
@[simp] theorem State.modSpur_voice : (s.modSpur p f).voice = s.voice := rfl
@[simp] theorem State.modSpur_trunk : (s.modSpur p f).trunk = s.trunk := rfl
@[simp] theorem State.modSpur_vehicles : (s.modSpur p f).vehicles = s.vehicles := rfl
@[simp] theorem State.modSpur_junctions : (s.modSpur p f).junctions = s.junctions := rfl
@[simp] theorem State.modSpur_waits : (s.modSpur p f).waits = s.waits := rfl
@[simp] theorem State.modSpur_bursts : (s.modSpur p f).bursts = s.bursts := rfl
@[simp] theorem State.modSpur_stations : (s.modSpur p f).stations = s.stations := rfl
@[simp] theorem State.modSpur_steps : (s.modSpur p f).steps = s.steps := rfl
@[simp] theorem State.modSpur_programs : (s.modSpur p f).programs = s.programs := rfl
@[simp] theorem State.modSpur_runners : (s.modSpur p f).runners = s.runners := rfl
@[simp] theorem State.modSpur_startQueue : (s.modSpur p f).startQueue = s.startQueue := rfl
@[simp] theorem State.modSpur_nextStart : (s.modSpur p f).nextStart = s.nextStart := rfl
@[simp] theorem State.modSpur_devices : (s.modSpur p f).devices = s.devices := rfl
@[simp] theorem State.modSpur_spurs : (s.modSpur p f).spurs = s.spurs.set p (f (s.spurs.get p)) := rfl
@[simp] theorem State.modSpur_handOffs : (s.modSpur p f).handOffs = s.handOffs := rfl
@[simp] theorem State.modSpur_answering : (s.modSpur p f).answering = s.answering := rfl
end modSpur

section setVoice
variable (s : State) (r : VoiceRef) (c : Option Nat)
@[simp] theorem State.setVoice_pending : (s.setVoice r c).pending = s.pending := rfl
@[simp] theorem State.setVoice_now : (s.setVoice r c).now = s.now := rfl
@[simp] theorem State.setVoice_slp : (s.setVoice r c).slp = s.slp := rfl
@[simp] theorem State.setVoice_zones : (s.setVoice r c).zones = s.zones := rfl
@[simp] theorem State.setVoice_channels : (s.setVoice r c).channels = s.channels := rfl
@[simp] theorem State.setVoice_trips : (s.setVoice r c).trips = s.trips := rfl
@[simp] theorem State.setVoice_signals : (s.setVoice r c).signals = s.signals := rfl
@[simp] theorem State.setVoice_tags : (s.setVoice r c).tags = s.tags := rfl
@[simp] theorem State.setVoice_calls : (s.setVoice r c).calls = s.calls := rfl
@[simp] theorem State.setVoice_nextCallId : (s.setVoice r c).nextCallId = s.nextCallId := rfl
@[simp] theorem State.setVoice_nextCreation : (s.setVoice r c).nextCreation = s.nextCreation := rfl
@[simp] theorem State.setVoice_voice : (s.setVoice r c).voice = s.voice.set r.entry ((s.voice.get r.entry).set r.chan c) := rfl
@[simp] theorem State.setVoice_trunk : (s.setVoice r c).trunk = s.trunk := rfl
@[simp] theorem State.setVoice_vehicles : (s.setVoice r c).vehicles = s.vehicles := rfl
@[simp] theorem State.setVoice_junctions : (s.setVoice r c).junctions = s.junctions := rfl
@[simp] theorem State.setVoice_waits : (s.setVoice r c).waits = s.waits := rfl
@[simp] theorem State.setVoice_bursts : (s.setVoice r c).bursts = s.bursts := rfl
@[simp] theorem State.setVoice_stations : (s.setVoice r c).stations = s.stations := rfl
@[simp] theorem State.setVoice_steps : (s.setVoice r c).steps = s.steps := rfl
@[simp] theorem State.setVoice_programs : (s.setVoice r c).programs = s.programs := rfl
@[simp] theorem State.setVoice_runners : (s.setVoice r c).runners = s.runners := rfl
@[simp] theorem State.setVoice_startQueue : (s.setVoice r c).startQueue = s.startQueue := rfl
@[simp] theorem State.setVoice_nextStart : (s.setVoice r c).nextStart = s.nextStart := rfl
@[simp] theorem State.setVoice_devices : (s.setVoice r c).devices = s.devices := rfl
@[simp] theorem State.setVoice_spurs : (s.setVoice r c).spurs = s.spurs := rfl
@[simp] theorem State.setVoice_handOffs : (s.setVoice r c).handOffs = s.handOffs := rfl
@[simp] theorem State.setVoice_answering : (s.setVoice r c).answering = s.answering := rfl
end setVoice

section report
variable (s : State) (r : Report)
@[simp] theorem State.report_pending : (s.report r).pending = s.pending := rfl
@[simp] theorem State.report_now : (s.report r).now = s.now := rfl
@[simp] theorem State.report_slp : (s.report r).slp = { s.slp with queue := (queueReport s.slp.queue s.slp.marker r).1, marker := (queueReport s.slp.queue s.slp.marker r).2 } := rfl
@[simp] theorem State.report_zones : (s.report r).zones = s.zones := rfl
@[simp] theorem State.report_channels : (s.report r).channels = s.channels := rfl
@[simp] theorem State.report_trips : (s.report r).trips = s.trips := rfl
@[simp] theorem State.report_signals : (s.report r).signals = s.signals := rfl
@[simp] theorem State.report_tags : (s.report r).tags = s.tags := rfl
@[simp] theorem State.report_calls : (s.report r).calls = s.calls := rfl
@[simp] theorem State.report_nextCallId : (s.report r).nextCallId = s.nextCallId := rfl
@[simp] theorem State.report_nextCreation : (s.report r).nextCreation = s.nextCreation := rfl
@[simp] theorem State.report_voice : (s.report r).voice = s.voice := rfl
@[simp] theorem State.report_trunk : (s.report r).trunk = s.trunk := rfl
@[simp] theorem State.report_vehicles : (s.report r).vehicles = s.vehicles := rfl
@[simp] theorem State.report_junctions : (s.report r).junctions = s.junctions := rfl
@[simp] theorem State.report_waits : (s.report r).waits = s.waits := rfl
@[simp] theorem State.report_bursts : (s.report r).bursts = s.bursts := rfl
@[simp] theorem State.report_stations : (s.report r).stations = s.stations := rfl
@[simp] theorem State.report_steps : (s.report r).steps = s.steps := rfl
@[simp] theorem State.report_programs : (s.report r).programs = s.programs := rfl
@[simp] theorem State.report_runners : (s.report r).runners = s.runners := rfl
@[simp] theorem State.report_startQueue : (s.report r).startQueue = s.startQueue := rfl
@[simp] theorem State.report_nextStart : (s.report r).nextStart = s.nextStart := rfl
@[simp] theorem State.report_devices : (s.report r).devices = s.devices := rfl
@[simp] theorem State.report_spurs : (s.report r).spurs = s.spurs := rfl
@[simp] theorem State.report_handOffs : (s.report r).handOffs = s.handOffs := rfl
@[simp] theorem State.report_answering : (s.report r).answering = s.answering := rfl
end report

section reach
variable (s : State) (t : Time)
@[simp] theorem State.reach_pending : (s.reach t).pending = s.pending := rfl
@[simp] theorem State.reach_now : (s.reach t).now = max s.now t := rfl
@[simp] theorem State.reach_slp : (s.reach t).slp = s.slp := rfl
@[simp] theorem State.reach_zones : (s.reach t).zones = s.zones := rfl
@[simp] theorem State.reach_channels : (s.reach t).channels = s.channels := rfl
@[simp] theorem State.reach_trips : (s.reach t).trips = s.trips := rfl
@[simp] theorem State.reach_signals : (s.reach t).signals = s.signals := rfl
@[simp] theorem State.reach_tags : (s.reach t).tags = s.tags := rfl
@[simp] theorem State.reach_calls : (s.reach t).calls = s.calls := rfl
@[simp] theorem State.reach_nextCallId : (s.reach t).nextCallId = s.nextCallId := rfl
@[simp] theorem State.reach_nextCreation : (s.reach t).nextCreation = s.nextCreation := rfl
@[simp] theorem State.reach_voice : (s.reach t).voice = s.voice := rfl
@[simp] theorem State.reach_trunk : (s.reach t).trunk = s.trunk := rfl
@[simp] theorem State.reach_vehicles : (s.reach t).vehicles = s.vehicles := rfl
@[simp] theorem State.reach_junctions : (s.reach t).junctions = s.junctions := rfl
@[simp] theorem State.reach_waits : (s.reach t).waits = s.waits := rfl
@[simp] theorem State.reach_bursts : (s.reach t).bursts = s.bursts := rfl
@[simp] theorem State.reach_stations : (s.reach t).stations = s.stations := rfl
@[simp] theorem State.reach_steps : (s.reach t).steps = s.steps := rfl
@[simp] theorem State.reach_programs : (s.reach t).programs = s.programs := rfl
@[simp] theorem State.reach_runners : (s.reach t).runners = s.runners := rfl
@[simp] theorem State.reach_startQueue : (s.reach t).startQueue = s.startQueue := rfl
@[simp] theorem State.reach_nextStart : (s.reach t).nextStart = s.nextStart := rfl
@[simp] theorem State.reach_devices : (s.reach t).devices = s.devices := rfl
@[simp] theorem State.reach_spurs : (s.reach t).spurs = s.spurs := rfl
@[simp] theorem State.reach_handOffs : (s.reach t).handOffs = s.handOffs := rfl
@[simp] theorem State.reach_answering : (s.reach t).answering = s.answering := rfl
end reach

/-! ## Entries of a table -/

/-- An entry after a write: the value written, or the entry as it stood. -/
@[simp] theorem get_set_entry {α : Type} {n : Nat} (v : Vector α n) (i j : Fin n) (a : α) :
    (v.set i a).get j = if i = j then a else v.get j := by
  simp only [Vector.get_eq_getElem, Vector.getElem_set, Fin.ext_iff]

/-- Writing back what an entry holds changes nothing. -/
@[simp] theorem set_get_self {α : Type} {n : Nat} (v : Vector α n) (i : Fin n) : v.set i (v.get i) = v := by
  apply Vector.ext; intro j hj; simp only [Vector.getElem_set, Vector.get_eq_getElem]; split
  · subst_vars; rfl
  · rfl

/-- Of two writes to one entry the later stands. -/
@[simp] theorem set_set_entry {α : Type} {n : Nat} (v : Vector α n) (i : Fin n) (a b : α) :
    (v.set i a).set i b = v.set i b := by
  apply Vector.ext; intro j hj; simp only [Vector.getElem_set]; split <;> rfl

/-- A replicated table reads its one value everywhere. -/
@[simp] theorem get_replicate_entry {α : Type} {n : Nat} (a : α) (i : Fin n) : (Vector.replicate n a).get i = a := by
  simp [Vector.get_eq_getElem]

/-- An entry of a table changed as a whole. -/
@[simp] theorem get_map_entry {α β : Type} {n : Nat} (f : α → β) (v : Vector α n) (i : Fin n) :
    (v.map f).get i = f (v.get i) := by
  simp [Vector.get_eq_getElem]

end Sys2Proof.Machine
end

