-- ==== Sys2Proof/Laws/Link.lean ====
section
/-! SUPPORT. The operations of the link, each said once: operands read back, the transmitter, the report queue, the taking of a
request on a ready link (Machine/Operands.lean, Ops.lean, Link.lean). -/

namespace Sys2Proof.Machine

/-! ## Operands -/

@[simp] theorem index?_number {n : Nat} (i : Fin n) : index? n (number i) = some i := by
  have h := i.isLt
  simp only [index?, number, Nat.le_add_left, true_and, Nat.add_sub_cancel]
  exact dif_pos h

theorem index?_eq_none {n k : Nat} : index? n k = none ↔ k = 0 ∨ n < k := by
  unfold index?; split <;> simp <;> omega

@[simp] theorem number_ne_zero {n : Nat} (i : Fin n) : number i ≠ 0 := Nat.succ_ne_zero _

@[simp] theorem optIndex?_number {n : Nat} (i : Fin n) : optIndex? n (number i) = some (some i) := by
  simp [optIndex?]

@[simp] theorem optIndex?_optNo {n : Nat} (i : Option (Fin n)) : optIndex? n (optNo i) = some i := by
  cases i <;> simp [optNo, optIndex?]

theorem optIndex?_eq_none {n k : Nat} : optIndex? n k = none ↔ n < k := by
  unfold optIndex?; split
  · simp; omega
  · simp [index?_eq_none]; omega

@[simp] theorem key?_val (k : Key) : key? k.val = some k := by
  have h := k.isLt
  simp [key?, h]

theorem key?_eq_none {k : Nat} : key? k = none ↔ 15 < k := by
  unfold key?; split <;> simp <;> omega

@[simp] theorem devRef?_number (r : DevRef) : devRef? (number r.spur) (number r.addr) = some r := by
  simp [devRef?]

/-! ## The transmitter (R183, R184) -/

@[simp] theorem State.beginSending_pending (s : State) : s.beginSending.pending = s.pending := rfl
@[simp] theorem State.beginSending_now (s : State) : s.beginSending.now = s.now := rfl

/-- A transmitter that sends leaves everything as it is. -/
theorem Slp.beginSending_busy {l : Slp} (h : l.sending.isSome) : l.beginSending = l := by simp [beginSending, h]

/-- A free transmitter begins the reply in the slot. -/
theorem Slp.beginSending_reply {l : Slp} {r : Reply} (h : l.sending = none) (hr : l.replySlot = some r) :
    l.beginSending = { l with replySlot := none, sending := some ⟨true, replyFrame r⟩ } := by simp [beginSending, h, hr]

/-- A free transmitter with no reply begins the oldest report, which carries the loss marker. -/
theorem Slp.beginSending_report {l : Slp} {r : Report} {q : List Report} (h : l.sending = none) (hr : l.replySlot = none)
    (hq : l.queue = r :: q) :
    l.beginSending = { l with queue := q, marker := .none, sending := some ⟨false, reportFrame l.marker r⟩ } := by
  simp [beginSending, h, hr, hq]

/-- A free transmitter with nothing to send stays free. -/
theorem Slp.beginSending_idle {l : Slp} (hr : l.replySlot = none) (hq : l.queue = []) : l.beginSending = l := by
  simp [beginSending, hr, hq]

/-! ## The report queue (R184) -/

/-- The queue never holds more than 32 reports. -/
theorem queueReport_length (q : List Report) (m : Marker) (r : Report) (h : q.length ≤ Config.reportQueueBound) :
    (queueReport q m r).1.length ≤ Config.reportQueueBound := by
  unfold queueReport
  by_cases hl : (q ++ [r]).length ≤ Config.reportQueueBound
  · simp only [hl, ↓reduceIte]
  · rw [if_neg hl]
    have hj : (q ++ [r]).length = q.length + 1 := by simp
    by_cases hr : hasRoutine (q ++ [r]) = true
    · rw [if_pos hr]
      obtain ⟨x, hx, hx'⟩ := List.any_eq_true.mp hr
      have := List.length_eraseP_of_mem (p := fun r : Report => r.cls == .routine) hx hx'
      dsimp only
      omega
    · rw [if_neg hr]
      have := List.length_tail (l := q ++ [r])
      dsimp only
      omega

/-! ## Taking a request on a ready link (R180 to R183) -/

/-- A request frame on a ready link is taken at once: the owner's answer is the next state, and its reply goes out. -/
theorem State.request_ready {s : State} (h : s.Ready) (tag : Byte) (r : Request) :
    s.request tag r = (s.handle r).state.answered tag (replyBody (requestCode r) (s.handle r)) := by
  obtain ⟨h1, h2, h3, h4⟩ := h
  have hunt : s.setReceiver .hunt = s := by simp only [State.setReceiver, State.modSlp, ← h2]
  have taken : (s.modSlp fun l => { l with buffer := [⟨tag, .request r⟩] }).modSlp (fun l => { l with buffer := [] }) = s := by
    simp only [State.modSlp, ← h3]
  have free : (s.modSlp fun l => { l with buffer := [⟨tag, .request r⟩] }).slp.replyPending = false := by
    simpa [Slp.replyPending] using h4
  have joins : (s.modSlp fun l => { l with buffer := l.buffer ++ [⟨tag, .request r⟩] })
      = s.modSlp fun l => { l with buffer := [⟨tag, .request r⟩] } := by simp [State.modSlp, h3]
  have room : s.slp.buffer.length < Config.receiveBufferBound := by simp [h3, Config.receiveBufferBound]
  simp only [State.request, State.event, h1, Option.isSome_none, Bool.false_eq_true, ↓reduceIte, hunt, State.submit, room,
    joins, State.takeRequest, free]
  simp only [State.modSlp_slp, State.answerContent, taken]
  rfl

end Sys2Proof.Machine
end

