-- ==== Sys2Proof/Laws/Standing.lean ====
section
/-! SUPPORT. What no block changes while it takes an input (Safety.lean, `State.standing`): one lemma for each operation of the
blocks, so that a statement about configuration, mode, time, the link's bounds or HELD outputs never unfolds one. -/

namespace Sys2Proof.Machine

/-! ## Tables -/

theorem map_set_entry {α β : Type} {n : Nat} (g : α → β) (v : Vector α n) (i : Fin n) (a : α) (h : g a = g (v.get i)) :
    (v.set i a).map g = v.map g := by
  apply Vector.ext; intro j hj
  simp only [Vector.getElem_map, Vector.getElem_set]
  split
  · next e => subst e; simpa [Vector.get_eq_getElem] using h
  · rfl

/-! ## When two records carry the same configuration -/

@[simp] theorem Zone.afterReset_eq (x y : Zone) : x.afterReset = y.afterReset ↔
    x.configured = y.configured ∧ x.key = y.key ∧ x.trip = y.trip ∧ x.onAlarm = y.onAlarm ∧ x.onFault = y.onFault ∧
      x.onTrip = y.onTrip ∧ x.onEmergency = y.onEmergency := by
  constructor
  · intro h
    simp only [Zone.afterReset, Zone.mk.injEq, true_and, and_true] at h
    grind
  · rintro ⟨h1, h2, h3, h4, h5, h6, h7⟩
    simp only [Zone.afterReset, h1, h2, h3, h4, h5, h6, h7]

@[simp] theorem Channel.afterReset_eq (x y : Channel) : x.afterReset = y.afterReset ↔
    x.configured = y.configured ∧ x.gas = y.gas ∧ x.source = y.source ∧ x.zone = y.zone ∧ x.zero = y.zero ∧
      x.span = y.span ∧ x.alert = y.alert ∧ x.alarm = y.alarm ∧ x.hysteresis = y.hysteresis ∧ x.filter = y.filter ∧
      x.rateInterval = y.rateInterval ∧ x.rise = y.rise ∧ x.stale = y.stale ∧ x.qualification = y.qualification ∧
      x.service = y.service := by
  constructor
  · intro h
    simp only [Channel.afterReset, Channel.cleared, Channel.mk.injEq, true_and, and_true] at h
    grind
  · rintro ⟨h1, h2, h3, h4, h5, h6, h7, h8, h9, h10, h11, h12, h13, h14, h15⟩
    simp only [Channel.afterReset, Channel.cleared, h1, h2, h3, h4, h5, h6, h7, h8, h9, h10, h11, h12, h13, h14, h15]

@[simp] theorem Tag.afterReset_eq (x y : Tag) : x.afterReset = y.afterReset ↔
    x.id = y.id ∧ x.absence = y.absence := by
  simp [Tag.afterReset]

@[simp] theorem Vehicle.afterReset_eq (x y : Vehicle) : x.afterReset = y.afterReset ↔
    x.configured = y.configured ∧ x.tagId = y.tagId ∧ x.kind = y.kind ∧ x.overstay = y.overstay ∧ x.period = y.period ∧
      x.firstQuarter = y.firstQuarter := by
  simp [Vehicle.afterReset]

@[simp] theorem Junction.afterReset_eq (x y : Junction) : x.afterReset = y.afterReset ↔
    x.configured = y.configured ∧ x.zone = y.zone ∧ x.beacon = y.beacon ∧ x.branches = y.branches ∧ x.walk = y.walk := by
  simp [Junction.afterReset]

@[simp] theorem Station.afterReset_eq (x y : Station) : x.afterReset = y.afterReset ↔
    x.configured = y.configured ∧ x.zone = y.zone ∧ x.served = y.served ∧ x.panel = y.panel ∧ x.insideO2 = y.insideO2 ∧
      x.insideCo = y.insideCo ∧ x.onActivated = y.onActivated ∧ x.onDistress = y.onDistress := by
  simp [Station.afterReset]

@[simp] theorem Device.settings_eq (x y : Device) : x.settings = y.settings ↔
    x.configured = y.configured ∧ x.ref = y.ref ∧ x.kind = y.kind ∧ x.zone = y.zone ∧ x.exitGate = y.exitGate := by
  simp [Device.settings]

@[simp] theorem Trip.settings_eq (x y : Trip) : x.settings = y.settings ↔
    x.mode = y.mode ∧ x.waitPending = y.waitPending ∧ x.confirm = y.confirm ∧ x.backup = y.backup ∧ x.warning = y.warning ∧ x.edge = y.edge
      ∧ x.sense = y.sense := by
  simp [Trip.settings]

/-! ## One update per table -/

section updates
variable (s : State)

theorem State.modZone_standing {z : ZoneNo} {f : Zone → Zone}
    (h : (f (s.zones.get z)).afterReset = (s.zones.get z).afterReset) : (s.modZone z f).standing = s.standing := by
  simp [standing, configuration, modZone, map_set_entry _ _ _ _ h]

theorem State.modChannel_standing {c : ChanNo} {f : Channel → Channel}
    (h : (f (s.channels.get c)).afterReset = (s.channels.get c).afterReset) :
    (s.modChannel c f).standing = s.standing := by
  simp [standing, configuration, modChannel, map_set_entry _ _ _ _ h]

theorem State.modTrip_standing {o : OutNo} {f : Trip → Trip}
    (h : (f (s.trips.get o)).settings = (s.trips.get o).settings)
    (hs : ((f (s.trips.get o)).state == .held) = ((s.trips.get o).state == .held)) :
    (s.modTrip o f).standing = s.standing := by
  simp [standing, configuration, modTrip, map_set_entry _ _ _ _ h,
    map_set_entry (fun t : Trip => t.state == .held) _ _ _ hs]

@[simp] theorem State.modSignal_standing {g : SigNo} {f : Signal → Signal} :
    (s.modSignal g f).standing = s.standing := (rfl)

theorem State.modTag_standing {r : Roster} {f : Tag → Tag} (h : ∀ t, (f t).afterReset = t.afterReset) :
    (s.modTag r f).standing = s.standing := by
  have e : ((s.tags.get r).map f).map Tag.afterReset = (s.tags.get r).map Tag.afterReset := by
    cases s.tags.get r <;> simp [h]
  simp [standing, configuration, modTag, map_set_entry _ _ _ _ e]

@[simp] theorem State.modCall_standing {id : Nat} {f : Call → Call} : (s.modCall id f).standing = s.standing := (rfl)

theorem State.modTrunk_standing {f : Trunk → Trunk} (h : (f s.trunk).allotment = s.trunk.allotment) :
    (s.modTrunk f).standing = s.standing := by
  simp [standing, configuration, modTrunk, h]

theorem State.modVehicle_standing {v : VehNo} {f : Vehicle → Vehicle}
    (h : (f (s.vehicles.get v)).afterReset = (s.vehicles.get v).afterReset) :
    (s.modVehicle v f).standing = s.standing := by
  simp [standing, configuration, modVehicle, map_set_entry _ _ _ _ h]

theorem State.modJunction_standing {j : JuncNo} {f : Junction → Junction}
    (h : (f (s.junctions.get j)).afterReset = (s.junctions.get j).afterReset) :
    (s.modJunction j f).standing = s.standing := by
  simp [standing, configuration, modJunction, map_set_entry _ _ _ _ h]

@[simp] theorem State.setBurst_standing {v : VehNo} {b : Option Burst} : (s.setBurst v b).standing = s.standing := (rfl)

theorem State.modStation_standing {n : StationNo} {f : Station → Station}
    (h : (f (s.stations.get n)).afterReset = (s.stations.get n).afterReset) :
    (s.modStation n f).standing = s.standing := by
  simp [standing, configuration, modStation, map_set_entry _ _ _ _ h]

@[simp] theorem State.modRunner_standing {r : RunnerNo} {f : Runner → Runner} : (s.modRunner r f).standing = s.standing := (rfl)

theorem State.modDevice_standing {e : EntryNo} {f : Device → Device}
    (h : (f (s.devices.get e)).settings = (s.devices.get e).settings) :
    (s.modDevice e f).standing = s.standing := by
  simp [standing, configuration, modDevice, map_set_entry _ _ _ _ h]

@[simp] theorem State.modSpur_standing {p : SpurNo} {f : Spur → Spur} : (s.modSpur p f).standing = s.standing := (rfl)
@[simp] theorem State.setVoice_standing {v : VoiceRef} {c : Option Nat} : (s.setVoice v c).standing = s.standing := (rfl)

/-- A report leaves the link's excess as it is: a queue within its bound stays within it (R184). -/
@[simp] theorem State.report_standing (r : Report) : (s.report r).standing = s.standing := by
  have h : (queueReport s.slp.queue s.slp.marker r).1.length - Config.reportQueueBound
      = s.slp.queue.length - Config.reportQueueBound := by
    unfold queueReport
    by_cases hl : (s.slp.queue ++ [r]).length ≤ Config.reportQueueBound
    · simp only [hl, ↓reduceIte]
      have : (s.slp.queue ++ [r]).length = s.slp.queue.length + 1 := by simp
      omega
    · rw [if_neg hl]
      have hj : (s.slp.queue ++ [r]).length = s.slp.queue.length + 1 := by simp
      by_cases hr : hasRoutine (s.slp.queue ++ [r]) = true
      · rw [if_pos hr]
        obtain ⟨x, hx, hx'⟩ := List.any_eq_true.mp hr
        have := List.length_eraseP_of_mem (p := fun r : Report => r.cls == .routine) hx hx'
        dsimp only
        omega
      · rw [if_neg hr]
        have := List.length_tail (l := s.slp.queue ++ [r])
        dsimp only
        omega
  simp only [standing, configuration, report, modSlp, h]

/-- A change carried out for one item after another keeps what each change keeps. -/
theorem State.forEach_standing {α : Type} {l : List α} {f : State → α → State} (h : ∀ t a, (f t a).standing = t.standing) :
    (s.forEach l f).standing = s.standing := by
  unfold State.forEach
  induction l generalizing s with
  | nil => rfl
  | cons a l ih => rw [List.foldl_cons, ih, h]

@[simp] theorem State.withWaits_standing (l : List WaitEntry) : ({ s with waits := l } : State).standing = s.standing := (rfl)
@[simp] theorem State.withCalls_standing (l : List Call) : ({ s with calls := l } : State).standing = s.standing := (rfl)
@[simp] theorem State.withQueue_standing (l : List QueuedStart) : ({ s with startQueue := l } : State).standing = s.standing := (rfl)
@[simp] theorem State.withAnswering_standing (a : Option (Nat × Option CallCause)) :
    ({ s with answering := a } : State).standing = s.standing := (rfl)
@[simp] theorem State.withHandOffs_standing (l : List StartReq) : ({ s with handOffs := l } : State).standing = s.standing := (rfl)
@[simp] theorem State.withNextStart_standing (n : Nat) : ({ s with nextStart := n } : State).standing = s.standing := (rfl)
@[simp] theorem State.withVoice_standing (v : Vector (Vector (Option Nat) 4) 96) :
    ({ s with voice := v } : State).standing = s.standing := (rfl)

end updates

/-- A fold keeps what each of its steps keeps. -/
theorem foldl_standing {α β : Type} (g : β → State) {f : β → α → β} (h : ∀ b a, (g (f b a)).standing = (g b).standing)
    (l : List α) (b : β) : (g (l.foldl f b)).standing = (g b).standing := by
  induction l generalizing b with
  | nil => rfl
  | cons a l ih => rw [List.foldl_cons, ih, h]

/-- A start request path that keeps the standing state. -/
def Starter.Quiet (st : Starter) : Prop := ∀ qs s, (st qs s).standing = s.standing

/-! ## Haulage Controller -/

section haulage
variable (s : State)

@[simp] theorem State.reportVehicle_standing {v p c r} : (s.reportVehicle v p c r).standing = s.standing := s.report_standing _
@[simp] theorem State.reportAborted_standing {v c b l} : (s.reportAborted v c b l).standing = s.standing := s.report_standing _
@[simp] theorem State.reportJunction_standing {j} : (s.reportJunction j).standing = s.standing := s.report_standing _
@[simp] theorem State.reportRouteInvalid_standing {b t v c} : (s.reportRouteInvalid b t v c).standing = s.standing :=
  s.report_standing _
@[simp] theorem State.reportRouteConflict_standing {v c r} : (s.reportRouteConflict v c r).standing = s.standing :=
  s.report_standing _
@[simp] theorem State.reportWaitFull_standing {v l} : (s.reportWaitFull v l).standing = s.standing := s.report_standing _
@[simp] theorem State.reportWaitExpired_standing {v l} : (s.reportWaitExpired v l).standing = s.standing := s.report_standing _
@[simp] theorem State.reportOverstay_standing {v g h} : (s.reportOverstay v g h).standing = s.standing := s.report_standing _

@[simp] theorem dropHolder_afterReset (j : Junction) : (dropHolder j).afterReset = j.afterReset := (rfl)
@[simp] theorem claimHolder_afterReset (v : VehNo) (l : Leg) (j : Junction) : (claimHolder v l j).afterReset = j.afterReset := (rfl)
@[simp] theorem walkHolder_afterReset (n : Time) (j : Junction) : (walkHolder n j).afterReset = j.afterReset := (rfl)
@[simp] theorem endWalk_afterReset (j : Junction) : (endWalk j).afterReset = j.afterReset := by unfold endWalk; split <;> rfl
@[simp] theorem evacHolder_afterReset (j : Junction) : (evacHolder j).afterReset = j.afterReset := endWalk_afterReset j
@[simp] theorem settled_afterReset (v : Vehicle) : (settled v).afterReset = v.afterReset := by unfold settled; split <;> rfl

@[simp] theorem State.grant_standing {v legs} : (s.grant v legs).standing = s.standing := by
  simp [grant, forEach_standing, modJunction_standing, modVehicle_standing]
@[simp] theorem State.releaseWalk_standing {j} : (s.releaseWalk j).standing = s.standing := by
  unfold releaseWalk; dsimp only; split <;> simp [modJunction_standing]
@[simp] theorem State.scanEntry_standing {w} : (s.scanEntry w).standing = s.standing := by unfold scanEntry; split <;> simp
@[simp] theorem State.releaseAll_standing {l} : (s.releaseAll l).standing = s.standing := by
  unfold releaseAll; split <;> simp [forEach_standing]
@[simp] theorem State.abort_standing {v c} : (s.abort v c).1.standing = s.standing := by
  unfold abort; dsimp only
  split <;> (try simp only [reportAborted_standing]) <;> rw [withWaits_standing] <;>
    simp [forEach_standing, modJunction_standing, modVehicle_standing]
@[simp] theorem State.abortWhole_standing {v c} : (s.abortWhole v c).standing = s.standing := by simp [abortWhole]
@[simp] theorem State.addReason_standing {v r} : (s.addReason v r).standing = s.standing := by
  unfold addReason; dsimp only
  split
  · rfl
  · split <;> simp [modVehicle_standing]
@[simp] theorem State.removeReason_standing {v r} : (s.removeReason v r).standing = s.standing := by
  unfold removeReason; dsimp only; split
  · simp only [reportVehicle_standing]
    exact s.modVehicle_standing (by split <;> simp)
  · rfl
@[simp] theorem State.matchReason_standing {v r p} : (s.matchReason v r p).standing = s.standing := by
  unfold matchReason; split <;> simp
@[simp] theorem State.matchTrip_standing {v} : (s.matchTrip v).standing = s.standing := by simp [matchTrip]
@[simp] theorem State.matchEvacuation_standing {v} : (s.matchEvacuation v).standing = s.standing := by simp [matchEvacuation]
@[simp] theorem State.hlcPowerView_standing {z p n} : (s.hlcPowerView z p n).standing = s.standing := by
  unfold hlcPowerView; simp only; split
  · simp [forEach_standing]
  · split <;> simp [forEach_standing]
@[simp] theorem State.abortForEvacuation_standing {acc j} : (State.abortForEvacuation acc j).1.standing = acc.1.standing := by
  unfold abortForEvacuation; split <;> simp
@[simp] theorem State.hlcEvacuate_standing {z} : (s.hlcEvacuate z).standing = s.standing := by
  simp [hlcEvacuate, forEach_standing, modJunction_standing,
    foldl_standing Prod.fst (fun b a => State.abortForEvacuation_standing (acc := b) (j := a))]
@[simp] theorem State.hlcLift_standing {z} : (s.hlcLift z).standing = s.standing := by
  simp [hlcLift, forEach_standing, modJunction_standing]
@[simp] theorem State.hlcEvacuation_standing {z p n} : (s.hlcEvacuation z p n).standing = s.standing := by
  unfold hlcEvacuation; split
  · simp
  · split <;> simp
@[simp] theorem State.failJunction_standing {j} : (s.failJunction j).standing = s.standing := by
  have h1 : (s.modJunction j fun x => { x with state := .failed }).standing = s.standing := s.modJunction_standing (by simp)
  unfold failJunction; dsimp only; simp only [reportJunction_standing]
  have h2 (x : Junction) := (Junction.afterReset_eq _ _).mp (endWalk_afterReset x)
  refine (modJunction_standing _ (by simpa using h2 _)).trans ?_
  split <;> simp [h1]
@[simp] theorem State.serveJunction_standing {j} : (s.serveJunction j).standing = s.standing := by
  have h1 : (s.modJunction j fun x => { x with state := .inService, fresh := false }).standing = s.standing :=
    s.modJunction_standing (by simp)
  unfold serveJunction; dsimp only; simp only [releaseAll_standing]; split <;> simp [h1]
@[simp] theorem State.hlcBeacon_standing {r n} : (s.hlcBeacon r n).standing = s.standing := by
  unfold hlcBeacon; split
  · rfl
  · split <;> simp
@[simp] theorem State.walkRead_standing {j} : (s.walkRead j).standing = s.standing := by
  unfold walkRead; simp only; split <;> simp [modJunction_standing]
@[simp] theorem State.walkEnds_standing {j} : (s.walkEnds j).standing = s.standing := by
  simp [walkEnds, modJunction_standing]
@[simp] theorem State.joinWait_standing {v l} : (s.joinWait v l).standing = s.standing := by
  unfold joinWait; split
  · rfl
  · split <;> simp [modVehicle_standing]
@[simp] theorem State.approach_standing {v b l} : (s.approach v b l).standing = s.standing := by
  unfold approach; simp only; split
  · rfl
  · split
    · split <;> simp
    · split
      · simp
      · split
        · simp
        · split
          · simp
          · split <;> simp
@[simp] theorem clearClaim_afterReset (j : JuncNo) (c : Claim) (x : Vehicle) : (clearClaim j c x).afterReset = x.afterReset := by
  unfold clearClaim; simp only; split <;> rfl
@[simp] theorem State.clear_standing {v j} : (s.clear v j).standing = s.standing := by
  unfold clear; split
  · split
    · simp only [releaseAll_standing]
      rw [modJunction_standing _ (dropHolder_afterReset _), modVehicle_standing _ (clearClaim_afterReset ..)]
    · rfl
  · rfl
@[simp] theorem State.loseVehicle_standing {v} : (s.loseVehicle v).standing = s.standing := by
  simp [loseVehicle, modVehicle_standing]
@[simp] theorem State.expireWait_standing {w} : (s.expireWait w).standing = s.standing := by
  simp [expireWait, modVehicle_standing]
@[simp] theorem State.overstay_standing {v c} : (s.overstay v c).standing = s.standing := by
  simp [overstay, modVehicle_standing]
@[simp] theorem State.abortClaims_standing : s.abortClaims.1.standing = s.standing := by
  unfold abortClaims
  exact foldl_standing Prod.fst (fun b a => by simp) _ (s, [])
@[simp] theorem State.hlcLoading_standing : s.hlcLoading.standing = s.standing := by
  simp [hlcLoading, forEach_standing]

end haulage

end Sys2Proof.Machine
end

