-- ==== Sys2Proof/Laws/StandingField.lean ====
section
/-! SUPPORT. The operations of the Zone Table, the Trip Control Unit, the Refuge Monitor and the Air Reading Unit keep the
standing state, given a start request path that does. -/

namespace Sys2Proof.Machine

/-! ## Zone Table -/

section zones
variable (s : State) {st : Starter}

@[simp] theorem State.startBound_standing (hst : st.Quiet) {p z c} : (s.startBound st p z c).standing = s.standing := by
  unfold startBound; split
  · exact hst _ _
  · rfl
theorem deferStart_quiet : deferStart.Quiet := fun _ _ => rfl
@[simp] theorem State.reportZone_standing {z a b} : (s.reportZone z a b).standing = s.standing := s.report_standing _
@[simp] theorem State.reportEvacuation_standing {z p c} : (s.reportEvacuation z p c).standing = s.standing :=
  s.report_standing _
@[simp] theorem State.startSummary_standing (hst : st.Quiet) {z p n} : (s.startSummary st z p n).standing = s.standing := by
  unfold startSummary; split
  · split <;> simp [hst]
  · split <;> simp [hst]
  · rfl
@[simp] theorem State.recompute_standing (hst : st.Quiet) {z} : (s.recompute st z).standing = s.standing := by
  unfold recompute; dsimp only; split <;> simp [hst, modZone_standing]
@[simp] theorem State.recomputeZones_standing (hst : st.Quiet) {a b} : (s.recomputeZones st a b).standing = s.standing := by
  unfold recomputeZones; dsimp only
  have h : (a.elim s (s.recompute st)).standing = s.standing := by cases a <;> simp [hst]
  split
  · exact h
  · cases b <;> simp [hst, h]
@[simp] theorem State.updateView_standing {z} : (s.updateView z).standing = s.standing := by
  unfold updateView; dsimp only; split <;> simp [modZone_standing]
@[simp] theorem State.followOutput_standing {z} : (s.followOutput z).standing = s.standing := by
  unfold followOutput; split <;> simp [deferStart_quiet]
@[simp] theorem State.outputChanged_standing {o} : (s.outputChanged o).standing = s.standing := by
  simp [outputChanged, forEach_standing]
@[simp] theorem State.setEvac_standing {z n c} : (s.setEvac z n c).standing = s.standing := by
  simp [setEvac, modZone_standing]
@[simp] theorem State.testEmpty_standing {z} : (s.testEmpty z).standing = s.standing := by unfold testEmpty; split <;> simp
@[simp] theorem State.testEntered_standing {z} : (s.testEntered z).standing = s.standing := by
  unfold testEntered; split <;> simp
@[simp] theorem State.orderEvac_standing {z c} : (s.orderEvac z c).standing = s.standing := by unfold orderEvac; split <;> simp
@[simp] theorem State.unplace_standing {r} : (s.unplace r).standing = s.standing := by
  unfold unplace; split <;> simp [modZone_standing]
@[simp] theorem State.place_standing {r z} : (s.place r z).standing = s.standing := by
  unfold place; split
  · rfl
  · cases s.tagZone r <;> simp [modZone_standing]
@[simp] theorem State.followOnboard_standing (hst : st.Quiet) {v a b} : (s.followOnboard st v a b).standing = s.standing := by
  unfold followOnboard; split <;> simp [hst]
@[simp] theorem State.enterZone_standing (hst : st.Quiet) {v z} : (s.enterZone st v z).standing = s.standing := by
  unfold enterZone; dsimp only; split
  · rfl
  · cases s.listZone v <;> simp [hst, modZone_standing]
@[simp] theorem State.leaveList_standing {v} : (s.leaveList v).standing = s.standing := by
  unfold leaveList; split <;> simp [modZone_standing]
@[simp] theorem State.emergencyIn_standing (hst : st.Quiet) {z} : (s.emergencyIn st z).standing = s.standing := by
  cases z <;> simp [emergencyIn, hst]

end zones

/-! ## Trip Control Unit -/

section outputs
variable (s : State)

/-- Whether an output is HELD is read from the standing state. -/
theorem State.held_of_standing {s t : State} (h : t.standing = s.standing) (o : OutNo) :
    ((t.trips.get o).state == .held) = ((s.trips.get o).state == .held) := by
  have := congrArg (fun x => x.held.get o) h
  simpa [standing, Vector.get_eq_getElem] using this

@[simp] theorem State.changeDrivers_standing {g f} : (s.changeDrivers g f).standing = s.standing := (rfl)
@[simp] theorem State.leaveDrivers_standing {r} : (s.leaveDrivers r).standing = s.standing := by
  simp [leaveDrivers, forEach_standing]
@[simp] theorem State.warn_standing {o p} : (s.warn o p).standing = s.standing := by
  unfold warn; split
  · rfl
  · dsimp only; split
    · rfl
    · split <;> simp
@[simp] theorem State.reportSignalFault_standing {g} : (s.reportSignalFault g).standing = s.standing := s.report_standing _
@[simp] theorem State.senseChange_standing {g b} : (s.senseChange g b).standing = s.standing := by
  unfold senseChange; split <;> simp
@[simp] theorem State.reportTrip_standing {o p c} : (s.reportTrip o p c).standing = s.standing := s.report_standing _
@[simp] theorem State.reportTripAbandoned_standing {o p} : (s.reportTripAbandoned o p).standing = s.standing :=
  s.report_standing _
@[simp] theorem State.reportCloseUnconfirmed_standing {o} : (s.reportCloseUnconfirmed o).standing = s.standing :=
  s.report_standing _

/-- A change of an output's state changes nothing of the standing state but whether that output is HELD. -/
theorem State.moveTrip_standing_set {o n c} :
    (s.moveTrip o n c).standing = { s.standing with held := s.standing.held.set o (n == .held) } := by
  have h1 : (s.modTrip o fun t => t.entered s.now n c).standing
      = { s.standing with held := s.standing.held.set o (n == .held) } := by
    have h := map_set_entry Trip.settings s.trips o ((s.trips.get o).entered s.now n c) (by simp [Trip.entered])
    simp only [standing, configuration, modTrip, h, Vector.map_set]
    rfl
  unfold moveTrip; dsimp only
  rw [outputChanged_standing, warn_standing, modTrip_standing, reportTrip_standing, h1]
  · split <;> simp
  · split <;> simp

/-- A change of an output's state keeps the standing state when it neither enters nor leaves HELD. -/
theorem State.moveTrip_standing {o n c} (h : ((s.trips.get o).state == .held) = (n == .held)) :
    (s.moveTrip o n c).standing = s.standing := by
  rw [moveTrip_standing_set, ← h]
  have : s.standing.held.set o ((s.trips.get o).state == .held) = s.standing.held := by
    apply Vector.ext; intro i hi
    simp only [standing, Vector.getElem_set, Vector.getElem_map, Vector.get_eq_getElem]
    split <;> simp_all
  simp only [this]

/-- An output whose state is known not to be HELD stays so through an operation that keeps the standing state. -/
theorem State.notHeld {s t : State} (h : t.standing = s.standing) {o : OutNo} (hs : (s.trips.get o).state ≠ .held) :
    (t.trips.get o).state ≠ .held := by
  have := held_of_standing h o
  intro e
  simp [e] at this
  exact hs this

theorem State.moveTrip_notHeld {o n c} (h : (s.trips.get o).state ≠ .held) (hn : n ≠ .held) :
    (s.moveTrip o n c).standing = s.standing := s.moveTrip_standing (by simp [h, hn])

theorem State.testOpening_standing {o} : (s.testOpening o).standing = s.standing := by
  unfold testOpening; split
  · next h => exact s.moveTrip_notHeld (by simp [h.1]) (by simp)
  · rfl
theorem State.openTrip_standing {o c} (h : (s.trips.get o).state ≠ .held) :
    (s.openTrip o c).standing = s.standing := by
  unfold openTrip; rw [testOpening_standing, s.moveTrip_notHeld h (by simp)]
@[simp] theorem State.tripNow_standing {o c} : (s.tripNow o c).standing = s.standing := by
  unfold tripNow; split
  · next h =>
    refine s.openTrip_standing ?_
    intro e; simp [tripClosed, e] at h
  · rfl
theorem State.unconfirm_standing {o c} (h : (s.trips.get o).state ≠ .held) :
    (s.unconfirm o c).standing = s.standing := by
  have h1 : (s.moveTrip o .unconfirmed c).standing = s.standing := s.moveTrip_notHeld h (by simp)
  unfold unconfirm; dsimp only
  cases ((s.moveTrip o .unconfirmed c).trips.get o).backup <;> simp [h1]
theorem State.endWait_standing {o} (h : (s.trips.get o).state ≠ .held) :
    (s.endWait o).standing = s.standing := by
  unfold endWait; split
  · exact s.openTrip_standing h
  · rw [reportTripAbandoned_standing, s.moveTrip_notHeld h (by simp)]
theorem State.startWait_standing {o z c} (h : (s.trips.get o).state ≠ .held) :
    (s.startWait o z c).standing = s.standing := by
  unfold startWait; dsimp only
  generalize hs : s.modTrip o _ = s1
  have h1 : s1.standing = s.standing := by subst hs; exact s.modTrip_standing (by simp) (by simp)
  have h2 : (s1.moveTrip o .waiting .demand).standing = s.standing :=
    (s1.moveTrip_notHeld (State.notHeld h1 h) (by simp)).trans h1
  split
  · exact (State.endWait_standing _ (State.notHeld h2 h)).trans h2
  · exact h2
@[simp] theorem State.demand_standing {o z c} : (s.demand o z c).standing = s.standing := by
  unfold demand; split
  · next h => split
              · exact s.openTrip_standing (by simp [h])
              · exact s.startWait_standing (by simp [h])
  · rfl
@[simp] theorem State.feedbackEvent_standing {o} : (s.feedbackEvent o).standing = s.standing := by
  unfold feedbackEvent; dsimp only; split
  · exact s.modTrip_standing (by simp) (by simp)
  · next h _ => exact s.moveTrip_notHeld (by simp [h]) (by simp)
  · next h _ => exact s.unconfirm_standing (by simp [h])
  · next h _ => exact s.moveTrip_notHeld (by simp [h]) (by simp)
  · rfl
theorem State.rereadFeedback_standing {o f} (h : (f (s.trips.get o)).settings = (s.trips.get o).settings)
    (hs : (f (s.trips.get o)).state = (s.trips.get o).state) : (s.rereadFeedback o f).standing = s.standing := by
  have h1 : (s.modTrip o f).standing = s.standing := s.modTrip_standing h (by rw [hs])
  unfold rereadFeedback; dsimp only; split <;> simp [h1]
theorem State.confirmEnds_standing {o} (h : (s.trips.get o).state ≠ .held) :
    (s.confirmEnds o).standing = s.standing := s.unconfirm_standing h
@[simp] theorem State.closeConfirmEnds_standing {o} : (s.closeConfirmEnds o).standing = s.standing := by
  simp [closeConfirmEnds, modTrip_standing]
@[simp] theorem State.manualLevel_standing {o b} : (s.manualLevel o b).standing = s.standing := by
  unfold manualLevel; split
  · rfl
  · dsimp only; split <;> simp [modTrip_standing]

/-- An output at START_RUN: it is not HELD afterwards, and nothing else of the standing state changes (R59). -/
theorem State.startTrip_standing {o} :
    (s.startTrip o).standing = { s.standing with held := s.standing.held.set o false } := by
  unfold startTrip; split
  · have h1 := s.moveTrip_standing_set (o := o) (n := .opened) (c := .start)
    have h2 : ((s.moveTrip o .opened .start).trips.get o).state ≠ .held := by
      have := congrArg (fun x => x.held.get o) h1
      intro e; simp [standing, Vector.get_eq_getElem] at this
      simp [Vector.get_eq_getElem, this] at e
    dsimp only; split
    · exact h1
    · exact (State.unconfirm_standing _ h2).trans h1
  · next h =>
    have : s.standing.held.set o false = s.standing.held := by
      apply Vector.ext; intro i hi
      simp only [standing, Vector.getElem_set, Vector.getElem_map]
      split
      · next e => subst e; simpa [Vector.get_eq_getElem] using h
      · rfl
    rw [this]

/-- START_RUN changes nothing of the standing state but which outputs are HELD. -/
theorem State.tcuStart_standing :
    (s.tcuStart).standing = { s.standing with held := (s.tcuStart).standing.held } := by
  have h : ∀ (l : List OutNo) (t : State), (t.forEach l fun t o => t.startTrip o).standing
      = { t.standing with held := (t.forEach l fun t o => t.startTrip o).standing.held } := by
    intro l
    induction l with
    | nil => intro t; rfl
    | cons o l ih =>
      intro t
      have := ih (t.startTrip o)
      simp only [forEach, List.foldl_cons] at this ⊢
      rw [this, startTrip_standing t]
  exact h _ s

/-- ENTER_LOADING at the outputs: every one is HELD, and nothing else of the standing state changes (R59). -/
theorem State.tcuLoading_standing :
    (s.tcuLoading).standing = { s.standing with held := Vector.replicate 6 true } := by
  have h1 : ∀ (t : State) (o : OutNo),
      (if (t.trips.get o).state = .held then t else t.moveTrip o .held .loading).standing
        = { t.standing with held := t.standing.held.set o true } := by
    intro t o; split
    · next h =>
      have : t.standing.held.set o true = t.standing.held := by
        apply Vector.ext; intro i hi
        simp only [standing, Vector.getElem_set, Vector.getElem_map]
        split
        · next e => subst e; rw [Vector.get_eq_getElem] at h; simp [h]
        · rfl
      rw [this]
    · exact t.moveTrip_standing_set
  have h : ∀ (l : List OutNo) (t : State),
      (t.forEach l fun t o => if (t.trips.get o).state = .held then t else t.moveTrip o .held .loading).standing
        = { t.standing with held := l.foldl (fun v (o : OutNo) => v.set o true) t.standing.held } := by
    intro l
    induction l with
    | nil => intro t; rfl
    | cons o l ih =>
      intro t
      have := ih (if (t.trips.get o).state = .held then t else t.moveTrip o .held .loading)
      simp only [forEach, List.foldl_cons] at this ⊢
      rw [this, h1]
  refine (h _ s).trans ?_
  have : (allOf 6).foldl (fun v (o : OutNo) => v.set o true) s.standing.held = Vector.replicate 6 true := by
    generalize s.standing.held = v
    apply Vector.ext; intro i hi
    have e : allOf 6 = [0, 1, 2, 3, 4, 5] := by decide
    rw [e]
    simp only [List.foldl_cons, List.foldl_nil, Vector.getElem_set, Vector.getElem_replicate]
    interval_cases i <;> simp
  simp only [this]

end outputs

/-! ## Refuge Monitor -/

section refuge
variable (s : State) {st : Starter}

@[simp] theorem State.reportRefuge_standing {n p c} : (s.reportRefuge n p c).standing = s.standing := s.report_standing _
@[simp] theorem State.startStation_standing (hst : st.Quiet) {n p c} : (s.startStation st n p c).standing = s.standing := by
  unfold startStation; cases (s.stations.get n).zone <;> simp [hst]
@[simp] theorem State.distress_standing (hst : st.Quiet) {n c} : (s.distress st n c).standing = s.standing := by
  unfold distress; dsimp only; split <;> simp [hst, modStation_standing]
@[simp] theorem State.rfmChannel_standing (hst : st.Quiet) {c p n} : (s.rfmChannel st c p n).standing = s.standing := by
  unfold rfmChannel; split <;> simp [hst, forEach_standing]
@[simp] theorem State.activate_standing (hst : st.Quiet) {n} : (s.activate st n).standing = s.standing := by
  simp [activate, hst, modStation_standing]
@[simp] theorem State.panelReply_standing (hst : st.Quiet) {n b d h p} : (s.panelReply st n b d h p).standing = s.standing := by
  unfold panelReply; dsimp only
  generalize hs : s.modStation n _ = s1
  have h1 : s1.standing = s.standing := by subst hs; exact s.modStation_standing (by simp)
  split
  · split <;> simp [hst, h1]
  · split
    · split <;> simp [hst, h1]
    · split <;> simp [hst, h1]
@[simp] theorem State.rfmDevice_standing {r n} : (s.rfmDevice r n).standing = s.standing := by
  unfold rfmDevice; split
  · rfl
  · dsimp only; split
    · rfl
    · simp [modStation_standing]
    · split <;> simp [modStation_standing]
@[simp] theorem State.joinStrobe_standing {n r} : (s.joinStrobe n r).standing = s.standing := by
  simp [joinStrobe, modStation_standing]
@[simp] theorem State.leaveStrobe_standing {n r} : (s.leaveStrobe n r).standing = s.standing := by
  simp [leaveStrobe, modStation_standing]
@[simp] theorem State.resetStation_standing {n} : (s.resetStation n).standing = s.standing := by
  simp [resetStation, modStation_standing]

end refuge

/-! ## Air Reading Unit -/

section air
variable (s : State) {st : Starter}

@[simp] theorem State.reportChannel_standing {c p} : (s.reportChannel c p).standing = s.standing := s.report_standing _
@[simp] theorem State.raiseDemand_standing (hst : st.Quiet) {c} : (s.raiseDemand st c).standing = s.standing := by
  unfold raiseDemand; split
  · rfl
  · next z _ =>
    cases s.zoneOutput z with
    | none => rfl
    | some o => exact (hst _ _).trans (s.demand_standing)
@[simp] theorem State.handOn_standing (hst : st.Quiet) {c b} : (s.handOn st c b).standing = s.standing := by
  have h : (((s.reportChannel c b.level).channelZone c).elim (s.reportChannel c b.level) fun z =>
      (s.reportChannel c b.level).recompute st z).standing = s.standing := by
    cases (s.reportChannel c b.level).channelZone c <;> simp [hst]
  unfold handOn; dsimp only; split <;> simp [hst, h]
@[simp] theorem State.faultEvent_standing (hst : st.Quiet) {c f} : (s.faultEvent st c f).standing = s.standing := by
  have h : (s.modChannel c (Channel.toFault f)).standing = s.standing := s.modChannel_standing (by simp [Channel.toFault])
  unfold faultEvent; dsimp only; split
  · rfl
  · split
    · split <;> simp [h]
    · simp [hst, h]
@[simp] theorem Channel.enter_afterReset (c : Channel) (n : Time) (v : Nat) (b : Bool) :
    (c.enter n v b).afterReset = c.afterReset := by
  have h1 : (c.enterFresh v).afterReset = c.afterReset := by simp [enterFresh]
  have h2 : (c.enterNext v).afterReset = c.afterReset := by
    have : ∀ d : Channel, d.checkRate.afterReset = d.afterReset := by
      intro d; unfold checkRate; split
      · split <;> simp
      · rfl
    have h3 := this { c with window := pushWindow c.filter c.window v, f := filtered (pushWindow c.filter c.window v) }
    rw [Channel.afterReset_eq] at h3 ⊢
    exact h3
  unfold enter; dsimp only
  split
  · simpa using h1
  · simpa using h2
@[simp] theorem State.validSample_standing (hst : st.Quiet) {c v b} : (s.validSample st c v b).standing = s.standing := by
  have h : (s.modChannel c fun y => y.enter s.now v b).standing = s.standing :=
    s.modChannel_standing (Channel.enter_afterReset ..)
  unfold validSample; dsimp only; split <;> simp [hst, h]
@[simp] theorem State.sample_standing (hst : st.Quiet) {c h r} : (s.sample st c h r).standing = s.standing := by
  unfold sample; dsimp only; split
  · rfl
  · split
    · simp [hst]
    · split <;> simp [hst]
@[simp] theorem State.headReply_standing (hst : st.Quiet) {r h l} : (s.headReply st r h l).standing = s.standing := by
  unfold headReply
  refine s.forEach_standing fun t a => ?_
  dsimp only
  cases t.headChannel r a.1 <;> simp [hst]
@[simp] theorem State.aruDevice_standing (hst : st.Quiet) {r n} : (s.aruDevice st r n).standing = s.standing := by
  unfold aruDevice; cases deviceFault n <;> simp [hst, forEach_standing]
@[simp] theorem State.onboardSample_standing (hst : st.Quiet) {v r h} : (s.onboardSample st v r h).standing = s.standing := by
  unfold onboardSample; cases s.onboardChannel v <;> simp [hst]
@[simp] theorem State.staleFault_standing (hst : st.Quiet) {c} : (s.staleFault st c).standing = s.standing := by
  simp [staleFault, hst]
@[simp] theorem State.vehicleEnters_standing (hst : st.Quiet) {v z} : (s.vehicleEnters st v z).standing = s.standing := by
  unfold vehicleEnters; dsimp only; split
  · split <;> simp [hst]
  · simp [hst]
@[simp] theorem State.gradeReset_standing (hst : st.Quiet) : (s.gradeReset st).standing = s.standing := by
  unfold gradeReset
  refine s.forEach_standing fun t c => ?_
  dsimp only
  have h : ((t.channelZone c).elim t fun z => t.recompute st z).standing = t.standing := by
    cases t.channelZone c <;> simp [hst]
  split <;> simp [hst, h]

end air

end Sys2Proof.Machine
end

