-- ==== Sys2Proof/Laws/StandingTrunk.lean ====
section
/-! SUPPORT. The operations of the trunk, of calls and bursts on it, and of the Alarm Program Unit keep the standing state; so
does the start of a program by a binding. -/

namespace Sys2Proof.Machine

/-! ## Holders, slots, and the end of a call -/

section trunk
variable (s : State)

@[simp] theorem State.reportCall_standing {i c p x k} : (s.reportCall i c p x k).standing = s.standing := s.report_standing _
@[simp] theorem State.reportCallNow_standing {i p k} : (s.reportCallNow i p k).standing = s.standing := by
  unfold reportCallNow; cases s.callOf i <;> simp
@[simp] theorem State.csGranted_standing {i k} : (s.csGranted i k).standing = s.standing := by
  unfold csGranted; split <;> simp
@[simp] theorem State.tgGranted_standing {v k} : (s.tgGranted v k).standing = s.standing := (rfl)
@[simp] theorem State.playStart_standing {r} : (s.playStart r).standing = s.standing := (rfl)
@[simp] theorem State.granted_standing {h k} : (s.granted h k).standing = s.standing := by unfold granted; split <;> simp
@[simp] theorem State.grantHead_standing {k q} : (s.grantHead k q).standing = s.standing := by
  induction q with
  | nil => simp [grantHead, modTrunk_standing]
  | cons w q ih => unfold grantHead; split
                   · simp [modTrunk_standing, Trunk.give]
                   · exact ih
@[simp] theorem State.slotFreed_standing {k} : (s.slotFreed k).standing = s.standing := by unfold slotFreed; split <;> simp
@[simp] theorem State.releaseSlot_standing {h} : (s.releaseSlot h).standing = s.standing := by
  unfold releaseSlot; split <;> simp [modTrunk_standing]
@[simp] theorem State.withdraw_standing {h} : (s.withdraw h).standing = s.standing := by simp [withdraw, modTrunk_standing]
@[simp] theorem State.giveUp_standing {h} : (s.giveUp h).standing = s.standing := by simp [giveUp]
@[simp] theorem State.clearCall_standing {i p} : (s.clearCall i p).standing = s.standing := by
  unfold clearCall; split
  · exact s.modTag_standing fun t => by split <;> simp
  · rfl
@[simp] theorem State.freeVoice_standing {v} : (s.freeVoice v).standing = s.standing := by cases v <;> simp [freeVoice]
@[simp] theorem State.dropCall_standing {i c} : (s.dropCall i c).standing = s.standing := (rfl)
@[simp] theorem State.csEndFrom_standing {i p c} : (s.csEndFrom i p c).standing = s.standing := by
  unfold csEndFrom; split
  · rfl
  · simp
@[simp] theorem State.csEnd_standing {i c} : (s.csEnd i c).standing = s.standing := by simp [csEnd]

end trunk

/-! ## Bursts -/

section bursts
variable (s : State) {st : Starter}

@[simp] theorem State.reportBurst_standing {v b} : (s.reportBurst v b).standing = s.standing := s.report_standing _
@[simp] theorem State.modBurst_standing {v f} : (s.modBurst v f).standing = s.standing := (rfl)
@[simp] theorem State.tgComplete_standing (hst : st.Quiet) {v b} : (s.tgComplete st v b).standing = s.standing := by
  unfold tgComplete; dsimp only; split <;> split <;> simp [hst]
@[simp] theorem State.tgSettle_standing (hst : st.Quiet) {v} : (s.tgSettle st v).standing = s.standing := by
  unfold tgSettle; split
  · rfl
  · split
    · dsimp only; split <;> split <;> simp [hst]
    · rfl
@[simp] theorem State.queueFetch_standing {f} : (s.queueFetch f).standing = s.standing := (rfl)
@[simp] theorem State.endGather_standing {v c} : (s.endGather v c).standing = s.standing := (rfl)
@[simp] theorem State.fetchNext_standing {v} : (s.fetchNext v).standing = s.standing := by unfold fetchNext; split <;> simp
@[simp] theorem State.takeQuarter_standing {v q} : (s.takeQuarter v q).standing = s.standing := by
  unfold takeQuarter; dsimp only; split <;> simp
@[simp] theorem State.takeMiss_standing {v} : (s.takeMiss v).standing = s.standing := by
  unfold takeMiss; dsimp only; split <;> simp
@[simp] theorem State.tgAnswer_standing (hst : st.Quiet) {f a} : (s.tgAnswer st f a).standing = s.standing := by
  unfold tgAnswer; split
  · cases a <;> simp [hst]
  · rfl
@[simp] theorem State.tgBeacon_standing (hst : st.Quiet) {r n} : (s.tgBeacon st r n).standing = s.standing := by
  unfold tgBeacon; split
  · refine s.forEach_standing fun t v => ?_
    split <;> simp [hst]
  · rfl
@[simp] theorem State.tgStop_standing (hst : st.Quiet) {v c} : (s.tgStop st v c).standing = s.standing := by
  unfold tgStop; split <;> simp [hst]
@[simp] theorem State.tgPreempted_standing {v} : (s.tgPreempted v).standing = s.standing := (rfl)
@[simp] theorem State.forwardCycle_standing (hst : st.Quiet) : (s.forwardCycle st).standing = s.standing := by
  unfold forwardCycle
  refine s.forEach_standing fun t v => ?_
  split <;> simp [hst]
@[simp] theorem State.turnCycle_standing (hst : st.Quiet) : (s.turnCycle st).standing = s.standing := by
  have h (t : State) : t.openCycle.standing = t.standing := rfl
  unfold turnCycle; rw [h]; split <;> simp [hst]
@[simp] theorem State.tgZoneChange_standing {v} : (s.tgZoneChange v).standing = s.standing := (rfl)
@[simp] theorem State.tgTagChanged_standing (hst : st.Quiet) {v} : (s.tgTagChanged st v).standing = s.standing := by
  unfold tgTagChanged; split <;> simp [hst]
@[simp] theorem State.tgUnconfigured_standing (hst : st.Quiet) {v} : (s.tgUnconfigured st v).standing = s.standing := by
  unfold tgUnconfigured; split
  · rfl
  · split
    · dsimp only; split <;> split <;> simp [hst]
    · rfl

end bursts

/-! ## The arbiter and the trunk -/

section arbiter
variable (s : State) {st : Starter}

@[simp] theorem State.preemptedNotice_standing {h} : (s.preemptedNotice h).standing = s.standing := by
  unfold preemptedNotice; split
  · split <;> simp
  · simp
  · rfl
@[simp] theorem State.noSlotNotice_standing (hst : st.Quiet) {h} : (s.noSlotNotice st h).standing = s.standing := by
  unfold noSlotNotice; split <;> simp [hst]
@[simp] theorem State.trunkLostNotice_standing (hst : st.Quiet) {h} : (s.trunkLostNotice st h).standing = s.standing := by
  unfold trunkLostNotice; split <;> simp [hst]
@[simp] theorem State.noTrunkNotice_standing (hst : st.Quiet) {h} : (s.noTrunkNotice st h).standing = s.standing := by
  unfold noTrunkNotice; split
  · simp
  · simp [hst]
  · split <;> simp
@[simp] theorem State.toQueue_standing {w} : (s.toQueue w).1.standing = s.standing := by
  unfold toQueue; dsimp only; split
  · simp [modTrunk_standing]
  · split
    · rfl
    · split <;> simp [deferStart_quiet, modTrunk_standing]
@[simp] theorem State.requestPlain_standing {h c} : (s.requestPlain h c).1.standing = s.standing := by
  unfold requestPlain; split
  · rfl
  · split
    · rfl
    · split <;> simp [modTrunk_standing, Trunk.give]
@[simp] theorem State.passSlot_standing {x h c} : (s.passSlot x h c).standing = s.standing := by
  simp [passSlot, modTrunk_standing, Trunk.give]
@[simp] theorem State.requestSlot_standing {h c} : (s.requestSlot h c).1.standing = s.standing := by
  unfold requestSlot; split
  · split <;> simp
  · simp
@[simp] theorem State.tgTake_standing (hst : st.Quiet) {v a} : (s.tgTake st v a).standing = s.standing := by
  unfold tgTake; split <;> simp [hst]
@[simp] theorem State.markWaiting_standing {i} : (s.markWaiting i).standing = s.standing := (rfl)
@[simp] theorem State.csTakeHeld_standing {i a} : (s.csTakeHeld i a).standing = s.standing := by
  unfold csTakeHeld; split <;> simp
@[simp] theorem State.requestAgain_standing (hst : st.Quiet) {h} : (s.requestAgain st h).standing = s.standing := by
  unfold requestAgain; split
  · split
    · split <;> simp
    · rfl
  · split <;> simp [hst]
  · rfl
@[simp] theorem State.reportTrunk_standing {a b c d} : (s.reportTrunk a b c d).standing = s.standing := s.report_standing _
@[simp] theorem State.revoke_standing (hst : st.Quiet) {x} : (s.revoke st x).standing = s.standing := by
  unfold revoke; split <;> simp [hst, modTrunk_standing]
@[simp] theorem State.removeRequest_standing (hst : st.Quiet) {w} : (s.removeRequest st w).standing = s.standing := by
  unfold removeRequest; split <;> simp [hst]
@[simp] theorem State.trunkDown_standing (hst : st.Quiet) : (s.trunkDown st).standing = s.standing := by
  simp [trunkDown, modTrunk_standing, forEach_standing, hst]
@[simp] theorem State.goodMark_standing (hst : st.Quiet) : (s.goodMark st).standing = s.standing := by
  unfold goodMark; split
  · simp [hst, modTrunk_standing]
  · split <;> simp [modTrunk_standing]
@[simp] theorem State.missedMark_standing (hst : st.Quiet) : (s.missedMark st).standing = s.standing := by
  unfold missedMark; split
  · split <;> simp [hst, modTrunk_standing]
  · split <;> simp [modTrunk_standing]
@[simp] theorem State.tgStart_standing (hst : st.Quiet) {v o f} : (s.tgStart st v o f).standing = s.standing := by
  unfold tgStart; dsimp only; split <;> simp [hst]
@[simp] theorem State.tgPeriod_standing (hst : st.Quiet) {v} : (s.tgPeriod st v).standing = s.standing := by
  have h : (s.modVehicle v fun x => { x with periodAt := some (s.now + 10 * x.period) }).standing = s.standing :=
    s.modVehicle_standing (by simp)
  unfold tgPeriod; dsimp only; split
  · simp [hst, h]
  · split
    · exact h
    · split <;> simp [hst, h]

end arbiter

/-! ## Alarm programs -/

section programs
variable (s : State)

@[simp] theorem State.reportProgramStart_standing {r q u} : (s.reportProgramStart r q u).standing = s.standing :=
  s.report_standing _
@[simp] theorem State.reportProgramEnd_standing {r x} : (s.reportProgramEnd r x).standing = s.standing := s.report_standing _
@[simp] theorem State.reportProgramMark_standing {r p z c} : (s.reportProgramMark r p z c).standing = s.standing :=
  s.report_standing _
@[simp] theorem State.reportMerged_standing {q r} : (s.reportMerged q r).standing = s.standing := s.report_standing _
@[simp] theorem State.reportDropped_standing {q r} : (s.reportDropped q r).standing = s.standing := s.report_standing _

@[simp] theorem State.endRun_standing {r x n i} : (s.endRun r x n i).standing = s.standing := by
  unfold endRun; dsimp only; split
  · simp [forEach_standing]
  · rfl
@[simp] theorem State.cutShort_standing {r x} : (s.cutShort r x).standing = s.standing := by simp [cutShort]

@[simp] theorem State.beginRun_standing {r q} : (s.beginRun r q).1.standing = s.standing := by
  unfold beginRun; dsimp only; rw [reportProgramStart_standing, withNextStart_standing, modRunner_standing]
@[simp] theorem State.takeHead_standing {r} : (s.takeHead r).1.standing = s.standing := by
  unfold takeHead; split
  · rfl
  · dsimp only; split <;> simp
@[simp] theorem State.startCount_standing {r st} : (s.startCount r st).standing = s.standing := (rfl)
@[simp] theorem State.apuTakeSlot_standing {r a} : (s.apuTakeSlot r a).standing = s.standing := by
  unfold apuTakeSlot; split <;> simp
@[simp] theorem State.announce_standing {r} : (s.announce r).standing = s.standing := by
  unfold announce; split <;> simp [deferStart_quiet]
@[simp] theorem State.pageZone_standing {z} : (s.pageZone z).standing = s.standing := by
  simp [pageZone, forEach_standing, modTag_standing]
@[simp] theorem State.act_standing {r p o u st} : (s.act r p o u st).1.standing = s.standing := by
  unfold act; dsimp only; split
  · cases index? 8 st.item <;> simp
  · cases index? 4 st.item <;> simp
  · simp
  · simp
  · simp
  · dsimp only; split <;> simp
  · rfl
  · rfl
  · simp
@[simp] theorem State.goOn_standing {r i st c} : (s.goOn r i st c).1.standing = s.standing := by
  unfold goOn; dsimp only; split
  · simp
  · split <;> simp
@[simp] theorem State.suppress_standing {r i x f} : (s.suppress r i x f).1.standing = s.standing := by simp [suppress]
@[simp] theorem State.takeStep_standing {r i st p o} : (s.takeStep r i st p o).1.standing = s.standing := by
  unfold takeStep; dsimp only; split <;> simp
@[simp] theorem State.atStep_standing {r i f} : (s.atStep r i f).1.standing = s.standing := by
  unfold atStep; dsimp only; split
  · split
    · simp
    · split <;> simp
  · simp
@[simp] theorem State.workOnce_standing {r w} : (s.workOnce r w).1.standing = s.standing := by
  unfold workOnce; split <;> simp
@[simp] theorem State.work_standing {r n w} : (s.work r n w).standing = s.standing := by
  induction n generalizing s w with
  | zero => rfl
  | succ n ih =>
    cases w with
    | rest => rfl
    | head => exact (ih (s.workOnce r .head).1).trans (workOnce_standing s)
    | step i f => exact (ih (s.workOnce r (.step i f)).1).trans (workOnce_standing s)
@[simp] theorem State.run_standing {r w} : (s.run r w).standing = s.standing := by simp [run]
@[simp] theorem State.queueStart_standing {q} : (s.queueStart q).1.standing = s.standing := by
  unfold queueStart; dsimp only; split
  · rfl
  · split
    · simp
    · split
      · simp only [withQueue_standing, reportDropped_standing]
      · simp
@[simp] theorem State.startOn_standing {r q} : (s.startOn r q).standing = s.standing := by simp [startOn]
@[simp] theorem State.placeRequest_standing {q} : (s.placeRequest q).1.standing = s.standing := by
  unfold placeRequest; split
  · simp
  · split <;> simp
@[simp] theorem State.apuTake_standing {q} : (s.apuTake q).1.standing = s.standing := by
  unfold apuTake; split
  · simp
  · split
    · simp
    · split
      · simp
      · split <;> simp
@[simp] theorem State.drain_standing {n} : (State.drain n s).standing = s.standing := by
  induction n generalizing s with
  | zero => rfl
  | succ n ih =>
    unfold drain; split
    · rfl
    · rw [ih, apuTake_standing, withHandOffs_standing]
@[simp] theorem State.settle_standing : s.settle.standing = s.standing := by simp [settle]

/-- The start of a program by a binding keeps the standing state. -/
@[simp] theorem sendStart_quiet : sendStart.Quiet := fun q s => by simp [sendStart]

@[simp] theorem State.endAction_standing {r st} : (s.endAction r st).standing = s.standing := by
  unfold endAction; split
  · cases index? 8 st.item <;> simp
  · cases index? 4 st.item <;> simp
  · simp
  · rfl
@[simp] theorem State.countEnds_standing {r} : (s.countEnds r).standing = s.standing := by
  unfold countEnds; split
  · rfl
  · split <;> simp
@[simp] theorem State.slotCheck_standing {r} : (s.slotCheck r).standing = s.standing := by simp [slotCheck]
@[simp] theorem State.cancelRun_standing {r} : (s.cancelRun r).standing = s.standing := by simp [cancelRun]
@[simp] theorem State.cancelQueued_standing {p z} : (s.cancelQueued p z).standing = s.standing := by
  unfold cancelQueued; split
  · rfl
  · simp
@[simp] theorem State.apuLoading_standing : s.apuLoading.standing = s.standing := by
  unfold apuLoading; dsimp only
  rw [forEach_standing, withQueue_standing, forEach_standing]
  · simp
  · intro t r; split <;> simp

end programs

end Sys2Proof.Machine
end

