-- ==== Sys2Proof/Laws/StandingSpur.lean ====
section
/-! SUPPORT. The operations of the Call Switch, the Tag Tracker, the beacon reads and the Spur Controllers keep the standing
state. -/

namespace Sys2Proof.Machine

/-! ## Call Switch -/

section calls
variable (s : State)

theorem State.takeFor_standing {i p x} (h : s.takeFor i p = some x) : x.1.standing = s.standing := by
  unfold takeFor at h; split at h
  · simp only [Option.bind_eq_bind, Option.bind_eq_some_iff, Option.pure_def, Option.some.injEq] at h
    obtain ⟨e, -, k, -, rfl⟩ := h
    simp
  · cases h; rfl
theorem State.takeBoth_standing {i a b t} (h : s.takeBoth i a b = some t) : t.standing = s.standing := by
  unfold takeBoth at h
  simp only [Option.bind_eq_bind, Option.bind_eq_some_iff, Option.pure_def, Option.some.injEq, Prod.exists] at h
  obtain ⟨s1, va, h1, s2, vb, h2, rfl⟩ := h
  simpa using (takeFor_standing _ h2).trans (takeFor_standing _ h1)
@[simp] theorem State.writeCall_standing {i p} : (s.writeCall i p).standing = s.standing := by
  unfold writeCall; split
  · exact s.modTag_standing fun t => by simp
  · rfl
@[simp] theorem State.newCall_standing {k a b c} : (s.newCall k a b c).1.standing = s.standing := by
  unfold newCall; dsimp only; rw [writeCall_standing]; rfl
@[simp] theorem State.connectNew_standing {i k} : (s.connectNew i k).standing = s.standing := by simp [connectNew]
@[simp] theorem State.csTakeNew_standing {i a} : (s.csTakeNew i a).standing = s.standing := by
  unfold csTakeNew; split <;> simp
@[simp] theorem State.askSlot_standing {i c} : (s.askSlot i c).standing = s.standing := by
  unfold askSlot; split <;> simp
theorem State.evictChannel_standing {a t} (h : s.evictChannel a = some t) : t.standing = s.standing := by
  unfold evictChannel at h; split at h
  · simp only [Option.bind_eq_bind, Option.bind_eq_some_iff, Option.pure_def, Option.some.injEq] at h
    obtain ⟨e, -, c, -, rfl⟩ := h
    simp
  · cases h
theorem State.takeChannels_standing {i k a b t} (h : s.takeChannels i k a b = some t) : t.standing = s.standing := by
  unfold takeChannels at h; split at h
  · next h1 => cases h; exact s.takeBoth_standing h1
  · split at h
    · rw [Option.bind_eq_some_iff] at h
      obtain ⟨u, h1, h2⟩ := h
      exact (u.takeBoth_standing h2).trans (s.evictChannel_standing h1)
    · cases h
@[simp] theorem State.makeCall_standing {k a b c} : (s.makeCall k a b c).standing = s.standing := by
  unfold makeCall; dsimp only; split
  · simp
  · split
    · simp
    · next h => simpa using takeChannels_standing _ h
@[simp] theorem State.refuseCall_standing {k a b c x} : (s.refuseCall k a b c x).standing = s.standing := by simp [refuseCall]
@[simp] theorem State.csCallKey_standing {r d} : (s.csCallKey r d).standing = s.standing := by
  unfold csCallKey; dsimp only; split
  · simp
  · split <;> simp
@[simp] theorem State.admitEmergency_standing {r} : (s.admitEmergency r).standing = s.standing := by
  unfold admitEmergency; dsimp only; split
  · split <;> simp
  · simp
@[simp] theorem State.csEmergencyKey_standing {r} : (s.csEmergencyKey r).standing = s.standing := by
  unfold csEmergencyKey; split
  · simp
  · split <;> simp
@[simp] theorem State.csAnswerKey_standing {r i} : (s.csAnswerKey r i).1.standing = s.standing := by
  unfold csAnswerKey; split
  · split <;> simp
  · rfl
@[simp] theorem State.moveDeadline_standing {i r} : (s.moveDeadline i r).standing = s.standing := (rfl)
@[simp] theorem State.handOver_standing {i r} : (s.handOver i r).standing = s.standing := by
  unfold handOver; split <;> simp
@[simp] theorem State.csHeard_standing {r i a b} : (s.csHeard r i a b).standing = s.standing := by
  unfold csHeard; dsimp only; split
  · simp
  · split <;> simp
@[simp] theorem State.csPointRemoved_standing {e} : (s.csPointRemoved e).standing = s.standing := by
  unfold csPointRemoved; dsimp only; rw [withVoice_standing, forEach_standing]; simp

end calls

/-! ## Tag Tracker -/

section tags
variable (s : State)

@[simp] theorem State.reportTagMove_standing {r b x z p c} : (s.reportTagMove r b x z p c).standing = s.standing :=
  s.report_standing _
@[simp] theorem State.reportTagMissing_standing {r b f z p} : (s.reportTagMissing r b f z p).standing = s.standing :=
  s.report_standing _
@[simp] theorem State.reportTagEmergency_standing {r p a} : (s.reportTagEmergency r p a).standing = s.standing :=
  s.report_standing _
@[simp] theorem State.reportPageAck_standing {r p} : (s.reportPageAck r p).standing = s.standing := s.report_standing _
@[simp] theorem State.reportUnknownTag_standing {p l} : (s.reportUnknownTag p l).standing = s.standing := s.report_standing _
@[simp] theorem State.heardAtGate_standing {r t p} : (s.heardAtGate r t p).1.standing = s.standing := by
  unfold heardAtGate; split
  · simp [modTag_standing]
  · dsimp only; split <;> simp [modTag_standing, Tag.outAt]
@[simp] theorem State.heardAnew_standing {r t p x} : (s.heardAnew r t p x).1.standing = s.standing := by
  unfold heardAnew; dsimp only; rw [place_standing]; split <;> simp [modTag_standing, Tag.at]
@[simp] theorem State.heardIn_standing {r t p x} : (s.heardIn r t p x).1.standing = s.standing := by
  unfold heardIn; split
  · simp [modTag_standing, Tag.at]
  · split
    · simp [modTag_standing, Tag.at]
    · simp [modTag_standing, Tag.keptAt]
@[simp] theorem State.placeHeard_standing {r t p x} : (s.placeHeard r t p x).1.standing = s.standing := by
  unfold placeHeard; split
  · simp
  · split <;> simp
@[simp] theorem State.acknowledge_standing {r p} : (s.acknowledge r p).standing = s.standing := by
  unfold acknowledge; split <;> simp [modTag_standing]
@[simp] theorem State.emergencyButton_standing {r p} : (s.emergencyButton r p).standing = s.standing := by
  unfold emergencyButton; dsimp only; rw [emergencyIn_standing _ sendStart_quiet]; split <;> simp [modTag_standing]
@[simp] theorem State.takeButton_standing {r p b} : (s.takeButton r p b).standing = s.standing := by
  unfold takeButton; dsimp only; split
  · rfl
  · split <;> simp
  · simp
  · split
    · simp
    · split <;> simp
  · cases (s.tags.get r).bind fun t => t.call <;> simp
@[simp] theorem State.heardEntry_standing {r p h} : (s.heardEntry r p h).standing = s.standing := by
  unfold heardEntry; split
  · rfl
  · next t _ =>
    dsimp only; rw [takeButton_standing]
    cases ((s.placeHeard r t p h.strength).1.tags.get r).bind fun t => t.call <;> simp
@[simp] theorem State.heardOne_standing {p acc h} : (State.heardOne p acc h).1.standing = acc.1.standing := by
  unfold heardOne; split <;> simp
@[simp] theorem State.heardList_standing {p l} : (s.heardList p l).standing = s.standing := by
  have h : (l.foldl (State.heardOne p) (s, [])).1.standing = s.standing :=
    foldl_standing Prod.fst (fun b a => State.heardOne_standing (acc := b) (h := a)) l (s, [])
  unfold heardList; dsimp only; split <;> simp [h]
@[simp] theorem State.absent_standing {r} : (s.absent r).standing = s.standing := by
  unfold absent; split <;> simp [modTag_standing]
@[simp] theorem State.ttPointCleared_standing {p} : (s.ttPointCleared p).standing = s.standing := by
  have h : (s.tags.map fun x => x.map fun t =>
      if t.cur = some p then { t with cur := none, strength := 0, curHeard := none } else t).map (Option.map Tag.afterReset)
      = s.tags.map (Option.map Tag.afterReset) := by
    apply Vector.ext; intro i hi
    simp only [Vector.getElem_map]
    cases s.tags[i] with
    | none => rfl
    | some t => simp only [Option.map_some]; split <;> rfl
  simp only [standing, configuration, ttPointCleared, h]

end tags

/-! ## Beacon reads -/

section reads
variable (s : State)

@[simp] theorem State.wake_standing {v} : (s.wake v).standing = s.standing := by
  unfold wake; split <;> simp [modVehicle_standing]
@[simp] theorem State.stampRead_standing {v j} : (s.stampRead v j).standing = s.standing := by
  simp [stampRead, modVehicle_standing]
@[simp] theorem State.moveVehicle_standing {v z} : (s.moveVehicle v z).standing = s.standing := by
  unfold moveVehicle; split <;> simp [modVehicle_standing]
@[simp] theorem State.updatePosition_standing {v j} : (s.updatePosition v j).standing = s.standing := by
  unfold updatePosition; dsimp only
  cases (((s.wake v).stampRead v j).junctions.get j).zone <;> simp
theorem State.knownRead_standing {b j i f} (h : ∀ t v, (f t v).standing = t.standing) :
    (s.knownRead b j i f).standing = s.standing := by
  unfold knownRead; split <;> simp [h]
@[simp] theorem State.takeRead_standing {b j r} : (s.takeRead b j r).standing = s.standing := by
  unfold takeRead; split <;> simp [knownRead_standing]
@[simp] theorem State.beaconReads_standing {b l} : (s.beaconReads b l).standing = s.standing := by
  unfold beaconReads; cases s.beaconJunction b <;> simp [forEach_standing]

end reads

/-! ## Spur Controllers -/

section spurs
variable (s : State)

@[simp] theorem State.reportDevice_standing {e p c} : (s.reportDevice e p c).standing = s.standing := s.report_standing _
@[simp] theorem State.beginPoll_standing {p e} : (s.beginPoll p e).standing = s.standing := (rfl)
@[simp] theorem State.beginRound_standing {p} : (s.beginRound p).standing = s.standing := by
  unfold beginRound; dsimp only; split <;> simp
@[simp] theorem State.endRound_standing {p} : (s.endRound p).standing = s.standing := (rfl)
@[simp] theorem State.pollOn_standing {p} : (s.pollOn p).standing = s.standing := by
  unfold pollOn; split
  · simp
  · split <;> simp
@[simp] theorem State.takeFetch_standing {p n} : (s.takeFetch p n).1.standing = s.standing := by
  induction n generalizing s with
  | zero => rfl
  | succ n ih =>
    unfold takeFetch; split
    · rfl
    · dsimp only; split
      · simp [ih]
      · split <;> simp [ih]
@[simp] theorem State.spurNext_standing {p m} : (s.spurNext p m).standing = s.standing := by
  unfold spurNext; split
  · rfl
  · dsimp only; split <;> split <;> simp
@[simp] theorem State.handDevice_standing {e} : (s.handDevice e).standing = s.standing := by
  unfold handDevice; dsimp only; split <;> simp
@[simp] theorem State.deviceTo_standing {e n m c} : (s.deviceTo e n m c).standing = s.standing := by
  unfold deviceTo; dsimp only; split
  · simp [modDevice_standing]
  · split <;> simp [modDevice_standing]
@[simp] theorem State.deviceGood_standing {e} : (s.deviceGood e).standing = s.standing := by simp [deviceGood]
@[simp] theorem State.deviceMiss_standing {e c} : (s.deviceMiss e c).standing = s.standing := by
  unfold deviceMiss; dsimp only; split
  · split <;> simp [modDevice_standing]
  · simp [modDevice_standing]
  · simp [modDevice_standing]
  · simp [modDevice_standing]
@[simp] theorem State.handContents_standing {t b c} : (s.handContents t b c).standing = s.standing := by
  unfold handContents; split
  · simp
  · next e _ _ => dsimp only; cases (s.devices.get e).zone <;> simp
  · simp
  · cases b <;> simp
  · simp
  · simp
  · rfl
@[simp] theorem State.pollSent_standing {t} : (s.pollSent t).standing = s.standing := by
  unfold pollSent; split
  · simp [modDevice_standing]
  · rfl
@[simp] theorem State.endMiss_standing {p t c} : (s.endMiss p t c).standing = s.standing := by
  unfold endMiss; dsimp only; rw [spurNext_standing]; split <;> split <;> simp
@[simp] theorem State.endGood_standing {p t c} : (s.endGood p t c).standing = s.standing := by simp [endGood]
@[simp] theorem State.dropTransaction_standing {p} : (s.dropTransaction p).standing = s.standing := by
  unfold dropTransaction; split
  · rfl
  · dsimp only; split <;> simp
@[simp] theorem State.spurReply_standing {p b r} : (s.spurReply p b r).standing = s.standing := by
  unfold spurReply; split
  · split <;> simp
  · rfl
@[simp] theorem State.spurNoReply_standing {p b} : (s.spurNoReply p b).standing = s.standing := by
  unfold spurNoReply; split <;> simp
@[simp] theorem State.emptyRoundEnds_standing {p} : (s.emptyRoundEnds p).standing = s.standing := by
  unfold emptyRoundEnds; dsimp only; split <;> simp
@[simp] theorem State.devicesTo_standing {p n} : (s.devicesTo p n).standing = s.standing := by
  simp [devicesTo, forEach_standing]
@[simp] theorem State.enterStandby_standing {p} : (s.enterStandby p).standing = s.standing := by simp [enterStandby]
@[simp] theorem State.leaveStandby_standing {p} : (s.leaveStandby p).standing = s.standing := by simp [leaveStandby]
@[simp] theorem State.fallBack_standing {p} : (s.fallBack p).standing = s.standing := by
  simp [fallBack, forEach_standing, modDevice_standing]
@[simp] theorem State.broadcast_standing {p} : (s.broadcast p).standing = s.standing := by
  unfold broadcast; split
  · rfl
  · dsimp only
    cases (s.spurs.get p).underWay <;> simp
@[simp] theorem State.spursLoading_standing : s.spursLoading.standing = s.standing := by
  simp [spursLoading, forEach_standing]
@[simp] theorem State.pointChanged_standing {e o n} : (s.pointChanged e o n).standing = s.standing := by
  unfold pointChanged; split
  · split
    · simp
    · split <;> simp
  · rfl

end spurs

end Sys2Proof.Machine
end

