-- ==== Sys2Proof/Laws/Requests.lean ====
section
/-! SUPPORT. What a request leaves of the link and of the HELD outputs, whatever it writes: one lemma for each request, and the
three requests of the link itself. -/

namespace Sys2Proof.Machine

/-- The link but for its report queue and loss marker, how far the queue exceeds its bound, and which outputs are HELD. -/
def State.traffic (s : State) : Slp × Nat × Vector Bool 6 := (s.standing.link, s.standing.excess, s.standing.held)

theorem State.traffic_of_standing {s t : State} (h : t.standing = s.standing) : t.traffic = s.traffic := by
  simp [traffic, h]

/-- A record whose link and outputs are those of another has its traffic. -/
theorem State.traffic_of_eq {s t : State} (h : t.slp = s.slp) (ht : t.trips = s.trips) : t.traffic = s.traffic := by
  simp [traffic, standing, h, ht]

section writes
variable (s : State)

@[simp] theorem State.modZone_traffic {z f} : (s.modZone z f).traffic = s.traffic := traffic_of_eq rfl rfl
@[simp] theorem State.modChannel_traffic {c f} : (s.modChannel c f).traffic = s.traffic := traffic_of_eq rfl rfl
@[simp] theorem State.modTag_traffic {r f} : (s.modTag r f).traffic = s.traffic := traffic_of_eq rfl rfl
@[simp] theorem State.setTag_traffic {r t} : (s.setTag r t).traffic = s.traffic := traffic_of_eq rfl rfl
@[simp] theorem State.modTrunk_traffic {f} : (s.modTrunk f).traffic = s.traffic := traffic_of_eq rfl rfl
@[simp] theorem State.modVehicle_traffic {v f} : (s.modVehicle v f).traffic = s.traffic := traffic_of_eq rfl rfl
@[simp] theorem State.modJunction_traffic {j f} : (s.modJunction j f).traffic = s.traffic := traffic_of_eq rfl rfl
@[simp] theorem State.modStation_traffic {n f} : (s.modStation n f).traffic = s.traffic := traffic_of_eq rfl rfl
@[simp] theorem State.modDevice_traffic {e f} : (s.modDevice e f).traffic = s.traffic := traffic_of_eq rfl rfl
@[simp] theorem State.withSteps_traffic (v : Vector Step 128) : ({ s with steps := v } : State).traffic = s.traffic := (rfl)
@[simp] theorem State.withPrograms_traffic (v : Vector Program 32) :
    ({ s with programs := v } : State).traffic = s.traffic := (rfl)

/-! ## The writes of each block -/

@[simp] theorem State.updateView_traffic {z} : (s.updateView z).traffic = s.traffic :=
  traffic_of_standing s.updateView_standing
@[simp] theorem State.writeZone_traffic {z n} : (s.writeZone z n).traffic = s.traffic := by
  unfold writeZone; dsimp only; split
  · simp
  · split <;> simp
@[simp] theorem State.writeChannel_traffic {c n} : (s.writeChannel sendStart c n).traffic = s.traffic := by
  unfold writeChannel; dsimp only
  generalize hs : s.modChannel c _ = s1
  have h1 : s1.traffic = s.traffic := by subst hs; simp
  have h2 : ∀ a b, (s1.recomputeZones sendStart a b).traffic = s.traffic := fun a b =>
    (traffic_of_standing (s1.recomputeZones_standing sendStart_quiet)).trans h1
  split
  · exact (traffic_of_standing (State.raiseDemand_standing _ sendStart_quiet)).trans (by split <;> simp [h1, h2])
  · split <;> simp [h1, h2]
@[simp] theorem State.takeOut_traffic {c} : (s.takeOut sendStart c).traffic = s.traffic := by
  unfold takeOut; dsimp only; split
  · exact (traffic_of_standing (State.reportChannel_standing _)).trans (by simp)
  · exact (traffic_of_standing (State.handOn_standing _ sendStart_quiet)).trans (by simp)
@[simp] theorem State.takeIn_traffic {c} : (s.takeIn c).traffic = s.traffic :=
  (traffic_of_standing (State.reportChannel_standing _)).trans (by simp)
theorem State.modTrip_traffic {o f} (h : (f (s.trips.get o)).state = (s.trips.get o).state) :
    (s.modTrip o f).traffic = s.traffic := by
  have : (s.trips.set o (f (s.trips.get o))).map (fun t => t.state == .held) = s.trips.map fun t => t.state == .held :=
    map_set_entry (fun t : Trip => t.state == .held) _ _ _ (by simp [h])
  simp [traffic, standing, modTrip, this]
@[simp] theorem State.writeTrip_traffic {o n} : (s.rereadFeedback o fun x => x.written n).traffic = s.traffic := by
  have h : (s.modTrip o fun x => x.written n).traffic = s.traffic := s.modTrip_traffic rfl
  unfold rereadFeedback; dsimp only; split
  · exact h
  · exact (traffic_of_standing (State.feedbackEvent_standing _)).trans h
@[simp] theorem State.settle_traffic : s.settle.traffic = s.traffic := traffic_of_standing s.settle_standing
theorem State.restoreTrip_traffic {o} (h : (s.trips.get o).state ≠ .held) :
    (s.restoreTrip o).traffic = s.traffic := by
  unfold restoreTrip
  rw [modTrip_traffic]
  · exact traffic_of_standing (s.moveTrip_notHeld h (by simp))
  · split <;> rfl
@[simp] theorem State.removeTag_traffic {r t} : (s.removeTag r t).traffic = s.traffic := by
  unfold removeTag; dsimp only; rw [setTag_traffic]; split
  · exact traffic_of_standing (by simp)
  · rfl
@[simp] theorem State.setAllotment_traffic {l} : (s.setAllotment l).traffic = s.traffic := by
  unfold setAllotment; dsimp only
  exact (traffic_of_standing (State.forEach_standing _ fun t k => t.slotFreed_standing)).trans (by simp)
@[simp] theorem State.leaveZone_standing {v} : (s.leaveZone v).standing = s.standing := by
  unfold leaveZone; dsimp only; split <;> simp [modVehicle_standing]
@[simp] theorem State.renewVehicle_standing {v b} : (s.renewVehicle v b).standing = s.standing := by
  unfold renewVehicle; dsimp only
  rw [modVehicle_standing _ (by simp)]
  split <;> simp
@[simp] theorem State.writeVehicle_traffic {v n} : (s.writeVehicle v n).traffic = s.traffic := by
  unfold writeVehicle; dsimp only
  generalize hs : s.modVehicle v _ = s1
  have h1 : s1.traffic = s.traffic := by subst hs; simp
  refine (traffic_of_standing (t := _) (s := s1) ?_).trans h1
  split <;> split <;> split <;> simp
@[simp] theorem State.newInside_standing {n a b} : (s.newInside n a b).standing = s.standing := by
  unfold newInside; split <;> simp
@[simp] theorem State.writeStation_traffic {n x} : (s.writeStation n x).traffic = s.traffic := by
  unfold writeStation; dsimp only; split
  · simp
  · exact (traffic_of_standing ((State.newInside_standing _).trans (State.newInside_standing _))).trans (by simp)
@[simp] theorem State.writeDevice_traffic {e n} : (s.writeDevice e n).traffic = s.traffic := by
  unfold writeDevice; dsimp only
  generalize hs : (s.pointChanged e (s.devices.get e) n).modDevice e _ = s2
  have h2 : s2.traffic = s.traffic := by
    subst hs; rw [modDevice_traffic]; exact traffic_of_standing (by simp)
  have h3 : ∀ v : Vector (Vector (Option Nat) 4) 96, ({ s2 with voice := v } : State).traffic = s.traffic :=
    fun v => (traffic_of_eq rfl rfl).trans h2
  have h4 : ∀ (t : State) (p : SpurNo) (b : Bool), t.traffic = s.traffic →
      ((t.dropTransaction p).spurNext p b).traffic = s.traffic :=
    fun t p b h => (traffic_of_standing (by simp)).trans h
  split <;> split <;> first | exact h2 | exact h3 _ | exact h4 _ _ _ h2

/-! ## The requests -/

@[simp] theorem State.refuse_traffic {x} : (s.refuse x).state.traffic = s.traffic := rfl
@[simp] theorem State.accept_state : s.accept.state = s := rfl
@[simp] theorem State.reply_state {b} : (s.reply b).state = s := rfl
@[simp] theorem State.refuse_state {x} : (s.refuse x).state = s := rfl

theorem State.doSetZone_traffic {f} : (s.doSetZone f).state.traffic = s.traffic := by
  unfold doSetZone; split
  · rfl
  · dsimp only; split
    · rfl
    · split
      · rfl
      · split
        · rfl
        · simp
theorem State.doOrderEvacuation_traffic {z} : (s.doOrderEvacuation z).state.traffic = s.traffic := by
  unfold doOrderEvacuation; split
  · rfl
  · split
    · exact traffic_of_standing (by simp)
    · rfl
theorem State.doLiftEvacuation_traffic {z k} : (s.doLiftEvacuation z k).state.traffic = s.traffic := by
  unfold doLiftEvacuation; split
  · split_ifs <;> first | rfl | exact traffic_of_standing (by simp)
  · rfl
theorem State.doSetChannel_traffic {f} : (s.doSetChannel f).state.traffic = s.traffic := by
  unfold doSetChannel; split
  · rfl
  · split_ifs <;> simp
theorem State.doSetService_traffic {c v} : (s.doSetService c v).state.traffic = s.traffic := by
  unfold doSetService; split
  · dsimp only; split_ifs
    · rfl
    · rfl
    · split <;> simp
  · rfl
theorem State.doSetTrip_traffic {f} : (s.doSetTrip f).state.traffic = s.traffic := by
  unfold doSetTrip; split
  · rfl
  · dsimp only; split_ifs <;> simp
theorem State.doTrip_traffic {o} : (s.doTrip o).state.traffic = s.traffic := by
  unfold doTrip; split
  · rfl
  · split
    · rfl
    · exact traffic_of_standing (by simp)
theorem State.doRestore_traffic {o k} : (s.doRestore o k).state.traffic = s.traffic := by
  unfold doRestore; split
  · split_ifs with h
    · rfl
    · rfl
    · rfl
    · refine State.restoreTrip_traffic _ ?_
      intro e; simp [e] at h
  · rfl
theorem State.doEnrollTag_traffic {r t a} : (s.doEnrollTag r t a).state.traffic = s.traffic := by
  unfold doEnrollTag; split
  · rfl
  · split
    · rfl
    · split
      · rfl
      · split
        · rfl
        · unfold enroll; split
          · simp
          · split <;> simp
theorem State.withTag_traffic {r f} (h : ∀ r t, (f r t).state.traffic = s.traffic) :
    (s.withTag r f).state.traffic = s.traffic := by
  unfold withTag; split
  · rfl
  · next r _ => cases s.tags.get r <;> simp [h]
theorem State.doRemoveTag_traffic {r} : (s.doRemoveTag r).state.traffic = s.traffic :=
  s.withTag_traffic fun r t => by split <;> simp
theorem State.doPageTag_traffic {r a} : (s.doPageTag r a).state.traffic = s.traffic := by
  unfold doPageTag; split
  · split
    · rfl
    · split <;> simp
  · rfl
theorem State.doAckTag_traffic {r} : (s.doAckTag r).state.traffic = s.traffic := s.withTag_traffic fun r t => by simp
theorem State.doPlaceCall_traffic {r} : (s.doPlaceCall r).state.traffic = s.traffic :=
  s.withTag_traffic fun r t => by
    split
    · rfl
    · split
      · rfl
      · exact traffic_of_standing (by simp)
theorem State.doEndCall_traffic {i} : (s.doEndCall i).state.traffic = s.traffic := by
  unfold doEndCall; split_ifs <;> first | rfl | exact traffic_of_standing (by simp)
theorem State.doSetTrunk_traffic {l} : (s.doSetTrunk l).state.traffic = s.traffic := by
  unfold doSetTrunk; split
  · rfl
  · split <;> simp
theorem State.doSetVehicle_traffic {f} : (s.doSetVehicle f).state.traffic = s.traffic := by
  unfold doSetVehicle; split
  · rfl
  · dsimp only; split_ifs <;> simp
theorem State.withVehicle_traffic {v f} (h : ∀ v, (f v).state.traffic = s.traffic) :
    (s.withVehicle v f).state.traffic = s.traffic := by
  unfold withVehicle; split
  · rfl
  · split <;> simp [h]
theorem State.doStopVehicle_traffic {v} : (s.doStopVehicle v).state.traffic = s.traffic :=
  s.withVehicle_traffic fun v => traffic_of_standing (by simp)
theorem State.doReleaseVehicle_traffic {v} : (s.doReleaseVehicle v).state.traffic = s.traffic :=
  s.withVehicle_traffic fun v => traffic_of_standing (by simp)
theorem State.doSetJunction_traffic {f} : (s.doSetJunction f).state.traffic = s.traffic := by
  unfold doSetJunction; split
  · rfl
  · split_ifs <;> simp
theorem State.doBurstNow_traffic {v q} : (s.doBurstNow v q).state.traffic = s.traffic := by
  unfold doBurstNow; split
  · split_ifs <;> first | rfl | exact traffic_of_standing (by simp)
  · rfl
theorem State.doSetStation_traffic {f} : (s.doSetStation f).state.traffic = s.traffic := by
  unfold doSetStation; split
  · rfl
  · split_ifs <;> simp
theorem State.doRefugeReset_traffic {n k} : (s.doRefugeReset n k).state.traffic = s.traffic := by
  unfold doRefugeReset; split
  · dsimp only; split_ifs <;> first | rfl | exact traffic_of_standing (by simp)
  · rfl
theorem State.doLoadSteps_traffic {i l} : (s.doLoadSteps i l).state.traffic = s.traffic := by
  unfold doLoadSteps; split
  · rfl
  · split
    · rfl
    · split <;> simp
theorem State.doSetProgram_traffic {p d i u k} : (s.doSetProgram p d i u k).state.traffic = s.traffic := by
  unfold doSetProgram; split
  · rfl
  · split <;> simp
theorem State.startAnswer_state {s : State} {o : StartOutcome} : (startAnswer s o).state = s := by cases o <;> rfl
theorem State.doStartProgram_traffic {p z} : (s.doStartProgram p z).state.traffic = s.traffic := by
  unfold doStartProgram; split
  · split
    · rfl
    · split
      · rfl
      · dsimp only; rw [startAnswer_state]; exact traffic_of_standing (by simp)
  · rfl
theorem State.doCancelRunner_traffic {r} : (s.doCancelRunner r).state.traffic = s.traffic := by
  unfold doCancelRunner; split
  · rfl
  · split
    · exact traffic_of_standing (by simp)
    · rfl
theorem State.doCancelPair_traffic {p z} : (s.doCancelPair p z).state.traffic = s.traffic := by
  unfold doCancelPair; split
  · split
    · exact traffic_of_standing (by simp)
    · split
      · exact traffic_of_standing (by simp)
      · rfl
  · rfl
theorem State.doSetSpur_traffic {p v} : (s.doSetSpur p v).state.traffic = s.traffic := by
  unfold doSetSpur; split
  · split_ifs <;> first | rfl | exact traffic_of_standing (by simp)
  · rfl
theorem State.doSetDevice_traffic {f} : (s.doSetDevice f).state.traffic = s.traffic := by
  unfold doSetDevice; split
  · rfl
  · dsimp only; split_ifs <;> simp

/-- A read changes nothing. -/
theorem State.handle_read {r : Request} (h : r.isRead = true) : (s.handle r).state = s := by
  cases r <;> simp [Request.isRead] at h <;> simp only [handle]
  case readTrunk => rfl
  case readStatus => rfl
  case readCall i => unfold doReadCall; split_ifs <;> first | rfl | (split <;> rfl)
  case readJunction j => unfold doReadJunction; split <;> rfl
  case readRunner j => unfold doReadRunner; split <;> rfl
  case readSteps => unfold doReadSteps; split_ifs <;> rfl
  case readZone => unfold doReadZone; split <;> rfl
  case readChannel => unfold doReadChannel; split <;> rfl
  case readTrip => unfold doReadTrip; split <;> rfl
  case readSignal => unfold doReadSignal; split <;> rfl
  case readTag => unfold doReadTag; split <;> rfl
  case readVehicle => unfold doReadVehicle; split <;> rfl
  case readBurst => unfold doReadBurst; split <;> rfl
  case readStation => unfold doReadStation; split <;> rfl
  case readProgram => unfold doReadProgram; split <;> rfl
  case readDevice => unfold doReadDevice; split <;> rfl
  case readSpur => unfold doReadSpur; split <;> rfl

/-- The requests that change the mode or the link itself. -/
def Request.isPart : Request → Bool
  | .startRun | .enterLoading | .reset => true
  | _ => false

/-- Every other request leaves the link and the HELD outputs. -/
theorem State.handle_traffic {r : Request} (h : Request.isPart r = false) : (s.handle r).state.traffic = s.traffic := by
  by_cases hr : r.isRead = true
  · rw [s.handle_read hr]
  · cases r <;> simp [Request.isRead] at hr <;> simp [Request.isPart] at h <;> simp only [handle]
    case setZone => exact s.doSetZone_traffic
    case orderEvacuation => exact s.doOrderEvacuation_traffic
    case liftEvacuation => exact s.doLiftEvacuation_traffic
    case setChannel => exact s.doSetChannel_traffic
    case setService => exact s.doSetService_traffic
    case setTrip => exact s.doSetTrip_traffic
    case trip => exact s.doTrip_traffic
    case restore => exact s.doRestore_traffic
    case enrollTag => exact s.doEnrollTag_traffic
    case removeTag => exact s.doRemoveTag_traffic
    case pageTag => exact s.doPageTag_traffic
    case ackTag => exact s.doAckTag_traffic
    case placeCall => exact s.doPlaceCall_traffic
    case endCall => exact s.doEndCall_traffic
    case setTrunk => exact s.doSetTrunk_traffic
    case setVehicle => exact s.doSetVehicle_traffic
    case setJunction => exact s.doSetJunction_traffic
    case stopVehicle => exact s.doStopVehicle_traffic
    case releaseVehicle => exact s.doReleaseVehicle_traffic
    case burstNow => exact s.doBurstNow_traffic
    case setStation => exact s.doSetStation_traffic
    case refugeReset => exact s.doRefugeReset_traffic
    case loadSteps => exact s.doLoadSteps_traffic
    case setProgram => exact s.doSetProgram_traffic
    case startProgram => exact s.doStartProgram_traffic
    case cancelRunner => exact s.doCancelRunner_traffic
    case cancelPair => exact s.doCancelPair_traffic
    case cancelOther => rfl
    case setSpur => exact s.doSetSpur_traffic
    case setDevice => exact s.doSetDevice_traffic

/-- An accepted START_RUN: mode RUN, the rest of the link as it was (R185). -/
theorem State.startRun_standing : s.startRun.standing =
    { s.standing with
      link := { s.standing.link with mode := .run }
      held := s.startRun.standing.held } := by
  have h : s.startRun.standing = (s.setMode .run).tcuStart.standing := State.settle_standing _
  rw [h]
  exact State.tcuStart_standing _

/-- An accepted ENTER_LOADING: mode LOADING, every output HELD, the rest of the standing state as it was (R186). -/
theorem State.enterLoading_standing : s.enterLoading.standing =
    { s.standing with link := { s.standing.link with mode := .loading }, held := Vector.replicate 6 true } := by
  unfold enterLoading
  rw [spursLoading_standing, hlcLoading_standing, apuLoading_standing, tcuLoading_standing]
  rfl

/-- What every request leaves of the link: whether a reset lasts, the frames received, the frame being sent, the reply slot,
and a report queue within its bound. -/
theorem State.handle_link (r : Request) :
    (s.handle r).state.slp.inReset = s.slp.inReset ∧ (s.handle r).state.slp.receiver = s.slp.receiver ∧
      (s.handle r).state.slp.buffer = s.slp.buffer ∧ (s.handle r).state.slp.replySlot = s.slp.replySlot ∧
      (s.handle r).state.slp.sending = s.slp.sending ∧
      (s.handle r).state.slp.queue.length - Config.reportQueueBound = s.slp.queue.length - Config.reportQueueBound := by
  have of (t : State) (h : ∃ m d, t.standing.link = { s.standing.link with mode := m, resetDue := d })
      (hx : t.standing.excess = s.standing.excess) : t.slp.inReset = s.slp.inReset ∧ t.slp.receiver = s.slp.receiver ∧
      t.slp.buffer = s.slp.buffer ∧ t.slp.replySlot = s.slp.replySlot ∧ t.slp.sending = s.slp.sending ∧
      t.slp.queue.length - Config.reportQueueBound = s.slp.queue.length - Config.reportQueueBound := by
    obtain ⟨m, d, h⟩ := h
    simp only [standing, Slp.mk.injEq] at h
    exact ⟨h.2.2.2.2.2.2.2.2.2.2, h.2.2.2.1, h.2.2.2.2.1, h.2.2.2.2.2.1, h.2.2.2.2.2.2.1, hx⟩
  by_cases hp : Request.isPart r = false
  · have := s.handle_traffic hp
    simp only [traffic, Prod.mk.injEq] at this
    exact of _ ⟨s.slp.mode, s.slp.resetDue, this.1⟩ this.2.1
  · cases r <;> simp [Request.isPart] at hp <;> simp only [handle]
    case startRun =>
      have h1 : s.startRun.standing.link = { s.standing.link with mode := .run } := by
        rw [s.startRun_standing]
      have h2 : s.startRun.standing.excess = s.standing.excess := by rw [s.startRun_standing]
      have h3 := of _ ⟨_, _, h1⟩ h2
      have h0 := of s ⟨s.slp.mode, s.slp.resetDue, rfl⟩ rfl
      unfold doStartRun; split
      · exact h0
      · split
        · exact h0
        · simp only [accept_state]; exact h3
    case enterLoading =>
      have h1 : s.enterLoading.standing.link = { s.standing.link with mode := .loading } := by rw [s.enterLoading_standing]
      have h2 : s.enterLoading.standing.excess = s.standing.excess := by rw [s.enterLoading_standing]
      have h3 := of _ ⟨_, _, h1⟩ h2
      have h0 := of s ⟨s.slp.mode, s.slp.resetDue, rfl⟩ rfl
      unfold doEnterLoading; split
      · exact h0
      · simp only [accept_state]; exact h3
    case reset => exact ⟨rfl, rfl, rfl, rfl, rfl, rfl⟩

end writes

end Sys2Proof.Machine
end

