-- ==== Sys2Proof/Laws/Agreement.lean ====
section
/-! SUPPORT. What ties the large tables together, while an operation is under way, and the records that carry the same. -/

namespace Sys2Proof.Machine

/-! ## The same, while an operation is under way -/

/-- What an operation under way adds: a tag that it has taken out of its list and has still to write, a zone whose list a tag
has joined before its evacuation test, a call that it is setting up or ending, holders and slots that stand apart from the slot
table and the queue, and the room it leaves in the queue. -/
structure Guard where
  hidden : Option Roster := none
  entered : Option ZoneNo := none
  call : Option Nat := none
  holders : List Holder := []
  slots : List SlotNo := []
  room : Nat := Config.requestQueueBound

/-- The tags but the one taken out. -/
def Guard.tags (g : Guard) (tags : Vector (Option Tag) 64) : Vector (Option Tag) 64 :=
  g.hidden.elim tags fun r => tags.set r none

/-- The calls agree but for one. -/
structure CallsBut (x : Option Nat) (calls : List Call) (tags : Vector (Option Tag) 64)
    (voice : Vector (Vector (Option Nat) 4) 96)
    (devices : Vector Device 96) : Prop where
  room : calls.length ≤ Config.callTableBound
  ids : ∀ c ∈ calls, 1 ≤ c.id ∧ c.id ≤ 255
  once : (calls.map Call.id).Nodup
  parties : ∀ (r : Roster) (i : Nat), x ≠ some i → ((tags.get r).bind Tag.call = some i ↔
    ∃ c ∈ calls, c.id = i ∧ (c.a = .tag r ∨ c.b = .tag r))
  channels : ∀ (v : VoiceRef) (i : Nat), x ≠ some i → ((voice.get v.entry).get v.chan = some i ↔
    ∃ c ∈ calls, c.id = i ∧ (c.chanA = some v ∨ c.chanB = some v))
  apart : ∀ c ∈ calls, ∀ v, c.chanA = some v → c.chanB ≠ some v
  points : ∀ (v : VoiceRef) (i : Nat), (voice.get v.entry).get v.chan = some i →
    (devices.get v.entry).configured = true ∧ (devices.get v.entry).kind = .callPoint

theorem callsBut_none {calls tags voice devices} : CallsBut none calls tags voice devices ↔ CallsAgree calls tags voice devices :=
  ⟨fun h => ⟨h.room, h.ids, h.once, fun r i => h.parties r i (by simp), fun v i => h.channels v i (by simp), h.apart, h.points⟩,
    fun h => ⟨h.room, h.ids, h.once, fun r i _ => h.parties r i, fun v i _ => h.channels v i, h.apart, h.points⟩⟩

/-- The tables agree under a guard. -/
structure State.Agree (g : Guard) (s : State) : Prop where
  occupancy : OccupancyAgrees s.zones (g.tags s.tags)
  presence : PresenceAgrees s.zones s.vehicles
  trunk : s.trunk.Agrees
  claims : ClaimsAgree s.vehicles s.junctions s.waits
  calls : CallsBut g.call s.calls s.tags s.voice s.devices
  apart : ∀ h ∈ g.holders, h ∉ s.trunk.held.map HeldSlot.holder ++ s.trunk.queue.map Waiting.holder
  spare : ∀ y ∈ s.trunk.held, y.slot ∉ g.slots
  room : s.trunk.queue.length ≤ g.room
  emptied : ∀ z : ZoneNo, g.entered ≠ some z → (s.zones.get z).evac = .cleared → (s.zones.get z).occupancy = []

/-- What places tags and vehicles lies in CONFIGURED zones. -/
def State.Named (s : State) : Prop := NamesAgree s.zones s.devices s.junctions

/-- While a reset lasts no call stands. -/
def State.Silent (s : State) : Prop := s.slp.inReset.isSome = true → s.calls = []

theorem State.tablesAgree_iff (s : State) : s.TablesAgree ↔ s.Named ∧ s.Agree {} ∧ s.Silent :=
  ⟨fun h => ⟨h.names, ⟨h.occupancy, h.presence, h.trunk, h.claims, callsBut_none.mpr h.calls, by simp, by simp, h.trunk.room,
      fun z _ => h.emptied z⟩, h.silent⟩,
    fun h => ⟨h.1, h.2.1.occupancy, fun z => h.2.1.emptied z (by simp), h.2.1.presence, h.2.1.trunk, h.2.1.claims, callsBut_none.mp h.2.1.calls, h.2.2⟩⟩

/-! ## Records that carry the same -/

/-- What the lists read of a tag. -/
def Tag.standing (t : Tag) : Option ZoneNo × TagState × Bool := (t.zone, t.state, t.absentAt.isSome)

theorem OccupancyAgrees.congr {z z' : Vector Zone 16} {t t' : Vector (Option Tag) 64} (h : OccupancyAgrees z t)
    (hz : ∀ i, (z'.get i).occupancy = (z.get i).occupancy)
    (ht : ∀ r, (t'.get r).map Tag.standing = (t.get r).map Tag.standing)
    (hc : ∀ i, (z'.get i).configured = (z.get i).configured) : OccupancyAgrees z' t' := by
  have key : ∀ r a, t'.get r = some a → ∃ b, t.get r = some b ∧ b.standing = a.standing := by
    intro r a ha
    have := ht r
    rw [ha] at this
    cases hb : t.get r with
    | none => simp [hb] at this
    | some b => exact ⟨b, rfl, by simpa [hb] using this.symm⟩
  have key' : ∀ r a, t.get r = some a → ∃ b, t'.get r = some b ∧ b.standing = a.standing := by
    intro r a ha
    have := ht r
    rw [ha] at this
    cases hb : t'.get r with
    | none => simp [hb] at this
    | some b => exact ⟨b, rfl, by simpa [hb] using this⟩
  refine ⟨fun i hi => (hz i).trans (h.within i ((hc i).symm.trans hi)), fun i r => ?_, fun i => by rw [hz]; exact h.once i,
    fun r a ha => ?_⟩
  · rw [hz, h.listed]
    constructor
    · rintro ⟨a, ha, e⟩
      obtain ⟨b, hb, e'⟩ := key' r a ha
      simp only [Tag.standing, Prod.mk.injEq] at e'
      exact ⟨b, hb, e'.1.trans e⟩
    · rintro ⟨a, ha, e⟩
      obtain ⟨b, hb, e'⟩ := key r a ha
      simp only [Tag.standing, Prod.mk.injEq] at e'
      exact ⟨b, hb, e'.1.trans e⟩
  · obtain ⟨b, hb, e'⟩ := key r a ha
    simp only [Tag.standing, Prod.mk.injEq] at e'
    have := h.placed r b hb
    rwa [e'.1, e'.2.1, e'.2.2] at this

/-- The same lists, and tags whose records the lists read alike. -/
theorem OccupancyAgrees.keep {z : Vector Zone 16} {t t' : Vector (Option Tag) 64} (h : OccupancyAgrees z t)
    (ht : ∀ r, (t'.get r).map Tag.standing = (t.get r).map Tag.standing) : OccupancyAgrees z t' :=
  h.congr (fun _ => rfl) ht fun _ => rfl

theorem PresenceAgrees.congr {z z' : Vector Zone 16} {v v' : Vector Vehicle 12} (h : PresenceAgrees z v)
    (hz : ∀ i, (z'.get i).vehicles = (z.get i).vehicles) (hv : ∀ i, (v'.get i).zone = (v.get i).zone)
    (hc : ∀ i, (z'.get i).configured = (z.get i).configured) : PresenceAgrees z' v' :=
  ⟨fun i hi => (hz i).trans (h.within i ((hc i).symm.trans hi)), fun i j => by rw [hz, hv]; exact h.listed i j,
      fun i => by rw [hz]; exact h.once i⟩

/-- The same lists, and vehicles in the same zones. -/
theorem PresenceAgrees.keep {z : Vector Zone 16} {v v' : Vector Vehicle 12} (h : PresenceAgrees z v)
    (hv : ∀ i, (v'.get i).zone = (v.get i).zone) : PresenceAgrees z v' := h.congr (fun _ => rfl) hv fun _ => rfl

theorem ClaimsAgree.congr {v v' : Vector Vehicle 12} {j j' : Vector Junction 24} {w : List WaitEntry} (h : ClaimsAgree v j w)
    (hv : ∀ i, (v'.get i).claim = (v.get i).claim) (hj : ∀ i, (j'.get i).holder = (j.get i).holder) : ClaimsAgree v' j' w :=
  ⟨fun i k => by rw [hj, hv]; exact h.held i k, h.once, fun x hx => by rw [hv]; exact h.waiting x hx⟩

/-- What the call table carries of a call. -/
def Call.core (c : Call) : Nat × Party × Party × Option VoiceRef × Option VoiceRef := (c.id, c.a, c.b, c.chanA, c.chanB)

theorem CallsBut.congr {x : Option Nat} {l l' : List Call} {t t' : Vector (Option Tag) 64}
    {v v' : Vector (Vector (Option Nat) 4) 96} {d d' : Vector Device 96} (h : CallsBut x l t v d)
    (hl : l'.map Call.core = l.map Call.core) (ht : ∀ r, (t'.get r).bind Tag.call = (t.get r).bind Tag.call) (hv : v' = v)
    (hd : ∀ e, (d'.get e).configured = (d.get e).configured ∧ (d'.get e).kind = (d.get e).kind) : CallsBut x l' t' v' d' := by
  subst hv
  have key : ∀ c ∈ l', ∃ c' ∈ l, c'.core = c.core := by
    intro c hc
    have : c.core ∈ l.map Call.core := hl ▸ List.mem_map_of_mem hc
    obtain ⟨c', h1, h2⟩ := List.mem_map.mp this; exact ⟨c', h1, h2⟩
  have key' : ∀ c ∈ l, ∃ c' ∈ l', c'.core = c.core := by
    intro c hc
    have : c.core ∈ l'.map Call.core := hl ▸ List.mem_map_of_mem hc
    obtain ⟨c', h1, h2⟩ := List.mem_map.mp this; exact ⟨c', h1, h2⟩
  have hid : l'.map Call.id = l.map Call.id := by
    have := congrArg (List.map Prod.fst) hl
    simpa [List.map_map, Function.comp_def, Call.core] using this
  have hlen : l'.length = l.length := by simpa using congrArg List.length hl
  refine ⟨hlen ▸ h.room, fun c hc => ?_, hid ▸ h.once, fun r i hi => ?_, fun w i hi => ?_, fun c hc w => ?_, fun w i hw => ?_⟩
  · obtain ⟨c', h1, h2⟩ := key c hc
    simp only [Call.core, Prod.mk.injEq] at h2
    rw [← h2.1]; exact h.ids c' h1
  · rw [ht, h.parties r i hi]
    constructor
    · rintro ⟨c, hc, h3⟩
      obtain ⟨c', h1, h2⟩ := key' c hc
      simp only [Call.core, Prod.mk.injEq] at h2
      exact ⟨c', h1, by rw [h2.1, h2.2.1, h2.2.2.1]; exact h3⟩
    · rintro ⟨c, hc, h3⟩
      obtain ⟨c', h1, h2⟩ := key c hc
      simp only [Call.core, Prod.mk.injEq] at h2
      exact ⟨c', h1, by rw [h2.1, h2.2.1, h2.2.2.1]; exact h3⟩
  · rw [h.channels w i hi]
    constructor
    · rintro ⟨c, hc, h3⟩
      obtain ⟨c', h1, h2⟩ := key' c hc
      simp only [Call.core, Prod.mk.injEq] at h2
      exact ⟨c', h1, by rw [h2.1, h2.2.2.2.1, h2.2.2.2.2]; exact h3⟩
    · rintro ⟨c, hc, h3⟩
      obtain ⟨c', h1, h2⟩ := key c hc
      simp only [Call.core, Prod.mk.injEq] at h2
      exact ⟨c', h1, by rw [h2.1, h2.2.2.2.1, h2.2.2.2.2]; exact h3⟩
  · obtain ⟨c', h1, h2⟩ := key c hc
    simp only [Call.core, Prod.mk.injEq] at h2
    rw [← h2.2.2.2.1, ← h2.2.2.2.2]; exact h.apart c' h1 w
  · rw [(hd _).1, (hd _).2]; exact h.points w i hw

theorem Guard.tags_get (g : Guard) (t : Vector (Option Tag) 64) (r : Roster) :
    (g.tags t).get r = if g.hidden = some r then none else t.get r := by
  unfold Guard.tags
  cases g.hidden with
  | none => simp
  | some q => simp

/-! ## One update per table -/

section updates
variable {g : Guard} {s : State}

theorem State.modZone_agree {z : ZoneNo} {f : Zone → Zone} (h : s.Agree g)
    (ho : (f (s.zones.get z)).occupancy = (s.zones.get z).occupancy)
    (hv : (f (s.zones.get z)).vehicles = (s.zones.get z).vehicles)
    (hc : (f (s.zones.get z)).configured = (s.zones.get z).configured)
    (he : (f (s.zones.get z)).evac = .cleared → (s.zones.get z).evac = .cleared ∨ (s.zones.get z).occupancy = []) :
    (s.modZone z f).Agree g :=
  { h with
    emptied := fun i hi hx => by
      simp only [modZone, get_set_entry] at hx ⊢; split
      · next e =>
        subst e; rw [if_pos rfl] at hx; rw [ho]
        exact (he hx).elim (h.emptied z hi) id
      · next e => rw [if_neg e] at hx; exact h.emptied i hi hx
    occupancy := h.occupancy.congr (fun i => by simp only [modZone, get_set_entry]; split <;> simp_all) (fun _ => rfl)
      fun i => by simp only [modZone, get_set_entry]; split <;> simp_all
    presence := h.presence.congr (fun i => by simp only [modZone, get_set_entry]; split <;> simp_all) (fun _ => rfl)
      fun i => by simp only [modZone, get_set_entry]; split <;> simp_all }

theorem State.modTag_occupancy {r : Roster} {f : Tag → Tag} (h : s.Agree g) (hf : ∀ t, (f t).standing = t.standing) :
    OccupancyAgrees s.zones (g.tags (s.modTag r f).tags) :=
  h.occupancy.keep fun q => by
    simp only [Guard.tags_get, modTag, get_set_entry]
    split
    · rfl
    · split
      · next e => subst e; cases s.tags.get r <;> simp [hf]
      · rfl
theorem State.modTag_carried {r q : Roster} {f : Tag → Tag} (hf : ∀ t, (f t).call = t.call) :
    ((s.modTag r f).tags.get q).bind Tag.call = (s.tags.get q).bind Tag.call := by
  simp only [modTag, get_set_entry]; split
  · next e => subst e; cases s.tags.get r <;> simp [hf]
  · rfl
/-- A tag's record that the lists and the calls read alike. -/
theorem State.modTag_agree {r : Roster} {f : Tag → Tag} (h : s.Agree g)
    (hf : ∀ t, ((f t).standing, (f t).call) = (t.standing, t.call)) : (s.modTag r f).Agree g :=
  { h with
    calls := h.calls.congr rfl (fun _ => modTag_carried fun t => (Prod.mk.inj (hf t)).2) rfl fun _ => ⟨rfl, rfl⟩
    occupancy := modTag_occupancy h fun t => (Prod.mk.inj (hf t)).1 }

theorem State.modVehicle_agree {v : VehNo} {f : Vehicle → Vehicle} (h : s.Agree g)
    (hz : (f (s.vehicles.get v)).zone = (s.vehicles.get v).zone)
    (hc : (f (s.vehicles.get v)).claim = (s.vehicles.get v).claim) : (s.modVehicle v f).Agree g :=
  { h with
    presence := h.presence.keep fun i => by simp only [modVehicle, get_set_entry]; split <;> simp_all
    claims := h.claims.congr (fun i => by simp only [modVehicle, get_set_entry]; split <;> simp_all) fun _ => rfl }

theorem State.modJunction_agree {j : JuncNo} {f : Junction → Junction} (h : s.Agree g)
    (hh : (f (s.junctions.get j)).holder = (s.junctions.get j).holder) : (s.modJunction j f).Agree g :=
  { h with
    claims := h.claims.congr (fun _ => rfl) fun i => by simp only [modJunction, get_set_entry]; split <;> simp_all }

@[simp] theorem State.modSlp_agree {f : Slp → Slp} (h : s.Agree g) : (s.modSlp f).Agree g := { h with }
@[simp] theorem State.modChannel_agree {c f} (h : s.Agree g) : (s.modChannel c f).Agree g := { h with }
@[simp] theorem State.modTrip_agree {o f} (h : s.Agree g) : (s.modTrip o f).Agree g := { h with }
@[simp] theorem State.modSignal_agree {o f} (h : s.Agree g) : (s.modSignal o f).Agree g := { h with }
theorem State.modCall_agree {i : Nat} {f : Call → Call} (h : s.Agree g) (hf : ∀ c, (f c).core = c.core) :
    (s.modCall i f).Agree g :=
  { h with
    calls := h.calls.congr (by
      simp only [modCall, List.map_map]; congr 1; funext c; simp only [Function.comp]; split
      · exact hf c
      · rfl) (fun _ => rfl) rfl fun _ => ⟨rfl, rfl⟩ }
@[simp] theorem State.setBurst_agree {v b} (h : s.Agree g) : (s.setBurst v b).Agree g := { h with }
@[simp] theorem State.modBurst_agree {v f} (h : s.Agree g) : (s.modBurst v f).Agree g := { h with }
@[simp] theorem State.modStation_agree {n f} (h : s.Agree g) : (s.modStation n f).Agree g := { h with }
@[simp] theorem State.modRunner_agree {r f} (h : s.Agree g) : (s.modRunner r f).Agree g := { h with }
theorem State.modDevice_agree {e : EntryNo} {f : Device → Device} (h : s.Agree g)
    (hf : ∀ d, (f d).configured = d.configured ∧ (f d).kind = d.kind) :
    (s.modDevice e f).Agree g :=
  { h with
    calls := h.calls.congr rfl (fun _ => rfl) rfl fun i => by
      simp only [modDevice, get_set_entry]; split
      · next e => subst e; exact hf _
      · exact ⟨rfl, rfl⟩ }
@[simp] theorem State.modSpur_agree {p f} (h : s.Agree g) : (s.modSpur p f).Agree g := { h with }
@[simp] theorem State.report_agree {r} (h : s.Agree g) : (s.report r).Agree g := { h with }
@[simp] theorem State.reach_agree {t} (h : s.Agree g) : (s.reach t).Agree g := { h with }
@[simp] theorem State.withQueue_agree {l : List QueuedStart} (h : s.Agree g) : ({ s with startQueue := l } : State).Agree g :=
  { h with }
@[simp] theorem State.withHandOffs_agree {l : List StartReq} (h : s.Agree g) : ({ s with handOffs := l } : State).Agree g :=
  { h with }
@[simp] theorem State.withAnswering_agree {a : Option (Nat × Option CallCause)} (h : s.Agree g) :
    ({ s with answering := a } : State).Agree g := { h with }
@[simp] theorem State.withNextStart_agree {n : Nat} (h : s.Agree g) : ({ s with nextStart := n } : State).Agree g := { h with }

/-- A change carried out for one item after another keeps what each change keeps. -/
theorem State.forEach_agree {α : Type} {l : List α} {f : State → α → State} (h : s.Agree g)
    (hf : ∀ t a, t.Agree g → (f t a).Agree g) : (s.forEach l f).Agree g := by
  unfold State.forEach
  induction l generalizing s with
  | nil => exact h
  | cons a l ih => exact ih (hf s a h)

end updates

/-- A fold keeps what each of its steps keeps. -/
theorem foldl_agree {α β : Type} {g : Guard} (p : β → State) {f : β → α → β} (hf : ∀ b a, (p b).Agree g → (p (f b a)).Agree g)
    (l : List α) (b : β) (h : (p b).Agree g) : (p (l.foldl f b)).Agree g := by
  induction l generalizing b with
  | nil => exact h
  | cons a l ih => exact ih _ (hf b a h)

/-- A start request path that keeps the tables in agreement. -/
def Starter.Agrees (g : Guard) (st : Starter) : Prop := ∀ qs s, s.Agree g → (st qs s).Agree g

end Sys2Proof.Machine
end

