-- ==== Sys2Proof/Laws/AgreementHaulage.lean ====
section
/-! SUPPORT. The operations of the haulage keep the tables in agreement: claims, junctions, the route wait list, the lists of vehicles. -/

namespace Sys2Proof.Machine

/-! ## Claims and junctions (R117, R123 to R131) -/

section claims
variable {g : Guard} {s : State}

/-- The route wait list after entries have left it. -/
theorem State.withWaits_agree {l : List WaitEntry} (h : s.Agree g) (hl : l.Sublist s.waits) :
    ({ s with waits := l } : State).Agree g :=
  { h with claims := ⟨h.claims.held, h.claims.once.sublist (hl.map _), fun w hw => h.claims.waiting w (hl.subset hw)⟩ }

/-- A junction whose holder is no claim may change to another holder that is none. -/
theorem State.modJunction_free_agree {j : JuncNo} {f : Junction → Junction} (h : s.Agree g)
    (ho : ∀ v, (s.junctions.get j).holder ≠ .claim v) (hn : ∀ v, (f (s.junctions.get j)).holder ≠ .claim v) :
    (s.modJunction j f).Agree g :=
  { h with
    claims := ⟨fun i v => by
      simp only [modJunction, get_set_entry]
      split
      · next e => subst e; exact ⟨fun e => absurd e (hn v), fun e => absurd ((h.claims.held j v).mpr e) (ho v)⟩
      · exact h.claims.held i v, h.claims.once, h.claims.waiting⟩ }

theorem State.dropAll_holder (l : List JuncNo) (s : State) (j : JuncNo) :
    ((s.forEach l fun t j => t.modJunction j dropHolder).junctions.get j).holder =
      if j ∈ l then .none else (s.junctions.get j).holder := by
  unfold forEach
  induction l generalizing s with
  | nil => simp
  | cons a l ih =>
    rw [List.foldl_cons, ih]
    simp only [modJunction, get_set_entry, List.mem_cons]
    by_cases hj : j ∈ l
    · simp [hj]
    · by_cases ha : j = a
      · subst ha; simp [hj, dropHolder]
      · simp [hj, ha, Ne.symm ha]

theorem State.dropAll_rest (l : List JuncNo) (s : State) :
    let t := s.forEach l fun t j => t.modJunction j dropHolder
    t.vehicles = s.vehicles ∧ t.waits = s.waits ∧ t.trunk = s.trunk ∧ t.zones = s.zones ∧ t.tags = s.tags ∧
      t.calls = s.calls ∧ t.voice = s.voice ∧ t.devices = s.devices := by
  unfold forEach
  induction l generalizing s with
  | nil => simp
  | cons a l ih => simpa [modJunction] using ih (s.modJunction a dropHolder)

theorem State.claimAll_holder (v : VehNo) (l : List Leg) (s : State) (j : JuncNo) :
    ((s.forEach l fun t l => t.modJunction l.junction (claimHolder v l)).junctions.get j).holder =
      if ∃ x ∈ l, x.junction = j then .claim v else (s.junctions.get j).holder := by
  unfold forEach
  induction l generalizing s with
  | nil => simp
  | cons a l ih =>
    rw [List.foldl_cons, ih]
    simp only [modJunction, get_set_entry, List.mem_cons, exists_eq_or_imp]
    by_cases hj : ∃ x ∈ l, x.junction = j
    · simp [hj]
    · by_cases ha : a.junction = j
      · simp [hj, ha, claimHolder]
      · simp [hj, ha]

theorem State.claimAll_rest (v : VehNo) (l : List Leg) (s : State) :
    let t := s.forEach l fun t l => t.modJunction l.junction (claimHolder v l)
    t.vehicles = s.vehicles ∧ t.waits = s.waits ∧ t.trunk = s.trunk ∧ t.zones = s.zones ∧ t.tags = s.tags ∧
      t.calls = s.calls ∧ t.voice = s.voice ∧ t.devices = s.devices := by
  unfold forEach
  induction l generalizing s with
  | nil => simp
  | cons a l ih => simpa [modJunction] using ih (s.modJunction a.junction (claimHolder v a))

/-- A grant to a vehicle without a claim over free junctions (R123). -/
theorem State.grant_agree {v : VehNo} {legs : List Leg} (h : s.Agree g) (hv : (s.vehicles.get v).claim = none)
    (hf : s.allFree legs = true) (hl : ∀ l ∈ legs, l.cleared = false) : (s.grant v legs).Agree g := by
  have hfree : ∀ l ∈ legs, (s.junctions.get l.junction).holder = .none := by
    intro l hm
    have := List.all_eq_true.mp hf l hm
    simp only [Junction.isFree, Bool.and_eq_true, beq_iff_eq] at this
    exact this.1.2
  have hr := claimAll_rest v legs { s with waits := s.waits.filter fun w => w.vehicle != v }
  have hj := claimAll_holder v legs { s with waits := s.waits.filter fun w => w.vehicle != v }
  simp only at hr hj
  obtain ⟨h1, h2, h3, h4, h5, h6, h7, h8⟩ := hr
  have hno : ∀ j, (s.junctions.get j).holder ≠ .claim v := by
    intro j e
    obtain ⟨c, hc, -⟩ := (h.claims.held j v).mp e
    rw [hv] at hc; cases hc
  unfold grant
  refine ⟨?_, ?_, ?_, ?_, ?_, ?_, ?_, ?_, ?_⟩
  · show OccupancyAgrees (State.zones _) (g.tags (State.tags _))
    simp only [modVehicle_zones, modVehicle_tags, h4, h5]; exact h.occupancy
  · simp only [modVehicle_zones, modVehicle_vehicles, h1, h4]
    exact h.presence.keep fun i => by simp only [get_set_entry]; split <;> simp_all
  · simp only [modVehicle_trunk, h3]; exact h.trunk
  · simp only [modVehicle_vehicles, modVehicle_junctions, modVehicle_waits, h1, h2]
    refine ⟨fun j w => ?_, h.claims.once.sublist (List.filter_sublist.map _), fun w hw => ?_⟩
    · rw [hj, get_set_entry]
      by_cases hx : ∃ x ∈ legs, x.junction = j
      · obtain ⟨x, hx1, hx2⟩ := hx
        rw [if_pos ⟨x, hx1, hx2⟩]
        by_cases hw : v = w
        · subst hw
          simp only [↓reduceIte, Option.some.injEq, exists_eq_left', true_iff]
          exact ⟨x, hx1, hx2, hl x hx1⟩
        · simp only [JunctionHolder.claim.injEq, hw, ↓reduceIte, false_iff]
          intro e
          have := (h.claims.held j w).mpr e
          rw [← hx2, hfree x hx1] at this; cases this
      · rw [if_neg hx]
        by_cases hw : v = w
        · subst hw
          simp only [↓reduceIte, Option.some.injEq, exists_eq_left', hno j, false_iff]
          rintro ⟨l, hl1, hl2, -⟩
          exact hx ⟨l, hl1, hl2⟩
        · simp only [hw, ↓reduceIte]; exact h.claims.held j w
    · have hm := List.mem_filter.mp hw
      have hne : ¬v = w.vehicle := fun e => by simp [e] at hm
      rw [get_set_entry, if_neg hne]
      exact h.claims.waiting w hm.1
  · show CallsBut g.call (State.calls _) (State.tags _) (State.voice _) (State.devices _)
    simp only [modVehicle_calls, modVehicle_tags, modVehicle_voice, modVehicle_devices, h5, h6, h7, h8]; exact h.calls
  · simp only [modVehicle_trunk, h3]; exact h.apart
  · simp only [modVehicle_trunk, h3]; exact h.spare
  · simp only [modVehicle_trunk, h3]; exact h.room
  · simp only [modVehicle_zones, h4]; exact h.emptied

/-- A grant changes no other vehicle's claim. -/
theorem State.grant_claim {v w : VehNo} {legs : List Leg} (hw : w ≠ v) :
    ((s.grant v legs).vehicles.get w).claim = (s.vehicles.get w).claim := by
  have hr := claimAll_rest v legs { s with waits := s.waits.filter fun w => w.vehicle != v }
  simp only at hr
  unfold grant
  simp only [modVehicle_vehicles, hr.1, get_set_entry]
  rw [if_neg (Ne.symm hw)]

theorem State.releaseWalk_agree {j : JuncNo} (h : s.Agree g) : (s.releaseWalk j).Agree g := by
  unfold releaseWalk; dsimp only; split
  · next e => exact State.modJunction_free_agree h (fun v => by rw [e.2.1]; simp) (fun v => by simp [walkHolder])
  · exact h

/-- The junctions that a claim still holds. -/
theorem mem_heldJunctions {x : Option Claim} {j : JuncNo} :
    j ∈ (x.elim [] fun c => heldLegs c.legs).map (fun l => l.junction) ↔
      ∃ c, x = some c ∧ ∃ l ∈ c.legs, l.junction = j ∧ l.cleared = false := by
  cases x with
  | none => simp
  | some c =>
    simp only [Option.elim_some, heldLegs, List.mem_map, List.mem_filter, Bool.not_eq_eq_eq_not, Bool.not_true,
      Option.some.injEq, exists_eq_left']
    exact ⟨fun ⟨l, ⟨h1, h2⟩, h3⟩ => ⟨l, h1, h3, h2⟩, fun ⟨l, h1, h2, h3⟩ => ⟨l, ⟨h1, h3⟩, h2⟩⟩

theorem State.scanAll_agree (l : List WaitEntry) (hn : (l.map WaitEntry.vehicle).Nodup) (h : s.Agree g)
    (hl : ∀ w ∈ l, (s.vehicles.get w.vehicle).claim = none ∧ ∀ x ∈ w.legs, x.cleared = false) :
    (s.forEach l State.scanEntry).Agree g := by
  unfold forEach
  induction l generalizing s with
  | nil => exact h
  | cons a l ih =>
    rw [List.foldl_cons]
    simp only [List.map_cons, List.nodup_cons] at hn
    have ha := hl a List.mem_cons_self
    refine ih hn.2 ?_ fun w hw => ⟨?_, (hl w (List.mem_cons_of_mem _ hw)).2⟩
    · unfold scanEntry; split
      · next hf => exact grant_agree h ha.1 hf ha.2
      · exact h
    · unfold scanEntry; split
      · rw [grant_claim]
        · exact (hl w (List.mem_cons_of_mem _ hw)).1
        · intro e; exact hn.1 (e ▸ List.mem_map_of_mem hw)
      · exact (hl w (List.mem_cons_of_mem _ hw)).1

@[simp] theorem State.releaseAll_agree {l : List JuncNo} (h : s.Agree g) : (s.releaseAll l).Agree g := by
  unfold releaseAll; split
  · exact h
  · have h1 := forEach_agree (l := l) (f := State.releaseWalk) h fun t j ht => releaseWalk_agree ht
    exact scanAll_agree _ h1.claims.once h1 h1.claims.waiting

/-- Steps 1 to 4 of an abort give up every junction of the claim (R129). -/
@[simp] theorem State.abort_agree {v : VehNo} {c : AbortCause} (h : s.Agree g) : (s.abort v c).1.Agree g := by
  have hd : ∀ released : List JuncNo,
      released = ((s.vehicles.get v).claim.elim [] fun c => heldLegs c.legs).map (fun l => l.junction) →
      ({ (s.forEach released fun t j => t.modJunction j dropHolder).modVehicle v (fun y => settled { y with claim := none }) with
        waits := ((s.forEach released fun t j => t.modJunction j dropHolder).modVehicle v fun y =>
          settled { y with claim := none }).waits.filter fun w => w.vehicle != v } : State).Agree g := by
    intro released hrel
    have hr := dropAll_rest released s
    have hj := dropAll_holder released s
    obtain ⟨h1, h2, h3, h4, h5, h6, h7, h8⟩ := hr
    have hs : ∀ y : Vehicle, (settled { y with claim := none }).claim = none := by
      intro y; unfold settled; split <;> rfl
    have hz : ∀ y : Vehicle, (settled { y with claim := none }).zone = y.zone := by
      intro y; unfold settled; split <;> rfl
    have hmem : ∀ j, j ∈ released ↔ ∃ c, (s.vehicles.get v).claim = some c ∧ ∃ l ∈ c.legs, l.junction = j ∧
      l.cleared = false := by
      intro j; subst hrel; exact mem_heldJunctions
    refine ⟨?_, ?_, ?_, ?_, ?_, ?_, ?_, ?_, ?_⟩
    · simp only [modVehicle_zones, modVehicle_tags, h4, h5]; exact h.occupancy
    · simp only [modVehicle_zones, modVehicle_vehicles, h1, h4]
      exact h.presence.keep fun i => by
        simp only [get_set_entry]; split
        · next e => subst e; exact hz _
        · rfl
    · simp only [modVehicle_trunk, h3]; exact h.trunk
    · simp only [modVehicle_vehicles, modVehicle_junctions, modVehicle_waits, h1, h2]
      refine ⟨fun j w => ?_, h.claims.once.sublist (List.filter_sublist.map _), fun w hw => ?_⟩
      · rw [hj, get_set_entry]
        by_cases hx : j ∈ released
        · rw [if_pos hx]
          have hv : (s.junctions.get j).holder = .claim v := (h.claims.held j v).mpr ((hmem j).mp hx)
          by_cases hw : v = w
          · subst hw; simp [hs]
          · simp only [hw, ↓reduceIte, reduceCtorEq, false_iff]
            intro e
            have := (h.claims.held j w).mpr e
            rw [hv] at this; injection this with e; exact hw e
        · rw [if_neg hx]
          by_cases hw : v = w
          · subst hw
            simp only [↓reduceIte, hs, reduceCtorEq, false_and, exists_false, iff_false]
            exact fun e => hx ((hmem j).mpr ((h.claims.held j v).mp e))
          · simp only [hw, ↓reduceIte]; exact h.claims.held j w
      · have hm := List.mem_filter.mp hw
        have hne : ¬v = w.vehicle := fun e => by simp [e] at hm
        rw [get_set_entry, if_neg hne]
        exact h.claims.waiting w hm.1
    · show CallsBut g.call (State.calls _) (State.tags _) (State.voice _) (State.devices _)
      simp only [modVehicle_calls, modVehicle_tags, modVehicle_voice, modVehicle_devices, h5, h6, h7, h8]; exact h.calls
    · simp only [modVehicle_trunk, h3]; exact h.apart
    · simp only [modVehicle_trunk, h3]; exact h.spare
    · simp only [modVehicle_trunk, h3]; exact h.room
    · simp only [modVehicle_zones, h4]; exact h.emptied
  have h1 := hd _ rfl
  unfold abort; dsimp only
  split
  · exact report_agree h1
  · exact h1

/-- What an abort leaves a junction: its holder, or none. -/
theorem State.abort_holder {v : VehNo} {c : AbortCause} (h : s.Agree g) (j : JuncNo) :
    ((s.abort v c).1.junctions.get j).holder =
      if (s.junctions.get j).holder = .claim v then .none else (s.junctions.get j).holder := by
  have hj := dropAll_holder (((s.vehicles.get v).claim.elim [] fun c => heldLegs c.legs).map fun l => l.junction) s j
  have hmem : j ∈ ((s.vehicles.get v).claim.elim [] fun c => heldLegs c.legs).map (fun l => l.junction) ↔
      (s.junctions.get j).holder = .claim v := by
    rw [h.claims.held]; exact mem_heldJunctions
  unfold abort; dsimp only
  split
  · exact hj.trans (by simp only [hmem])
  · exact hj.trans (by simp only [hmem])

end claims

/-! ## Haulage Controller -/

section haulage
variable {g : Guard} {s : State}

@[simp] theorem State.reportVehicle_agree {v p c r} (h : s.Agree g) : (s.reportVehicle v p c r).Agree g := report_agree h
@[simp] theorem State.reportJunction_agree {j} (h : s.Agree g) : (s.reportJunction j).Agree g := report_agree h
@[simp] theorem State.reportRouteInvalid_agree {b t v c} (h : s.Agree g) : (s.reportRouteInvalid b t v c).Agree g :=
  report_agree h
@[simp] theorem State.reportRouteConflict_agree {v c r} (h : s.Agree g) : (s.reportRouteConflict v c r).Agree g :=
  report_agree h
@[simp] theorem State.reportWaitFull_agree {v l} (h : s.Agree g) : (s.reportWaitFull v l).Agree g := report_agree h

@[simp] theorem settled_zone (v : Vehicle) : (settled v).zone = v.zone := by unfold settled; split <;> rfl
@[simp] theorem settled_claim (v : Vehicle) : (settled v).claim = v.claim := by unfold settled; split <;> rfl

@[simp] theorem State.abortWhole_agree {v c} (h : s.Agree g) : (s.abortWhole v c).Agree g := releaseAll_agree (abort_agree h)
@[simp] theorem State.addReason_agree {v r} (h : s.Agree g) : (s.addReason v r).Agree g := by
  unfold addReason; dsimp only; split
  · exact h
  · split
    · exact abortWhole_agree (reportVehicle_agree (modVehicle_agree h (by simp) (by simp)))
    · exact reportVehicle_agree (modVehicle_agree h rfl rfl)
@[simp] theorem State.removeReason_agree {v r} (h : s.Agree g) : (s.removeReason v r).Agree g := by
  unfold removeReason; dsimp only; split
  · exact reportVehicle_agree (modVehicle_agree h (by split <;> rfl) (by split <;> rfl))
  · exact h
@[simp] theorem State.matchReason_agree {v r p} (h : s.Agree g) : (s.matchReason v r p).Agree g := by
  unfold matchReason; split <;> simp [h]
@[simp] theorem State.matchTrip_agree {v} (h : s.Agree g) : (s.matchTrip v).Agree g := matchReason_agree h
@[simp] theorem State.matchEvacuation_agree {v} (h : s.Agree g) : (s.matchEvacuation v).Agree g := matchReason_agree h
@[simp] theorem State.hlcPowerView_agree {z p n} (h : s.Agree g) : (s.hlcPowerView z p n).Agree g := by
  unfold hlcPowerView; dsimp only; split
  · exact forEach_agree h fun _ _ => addReason_agree
  · split
    · exact forEach_agree h fun _ _ => removeReason_agree
    · exact h

/-- An evacuation hold is over every claim of the zone's junctions when the fold over them ends (R131 step 2). -/
theorem State.abortForEvacuation_agree {acc j} (h : acc.1.Agree g) : (State.abortForEvacuation acc j).1.Agree g := by
  unfold abortForEvacuation; split
  · exact abort_agree h
  · exact h
theorem State.abortForEvacuation_free {acc j} (h : acc.1.Agree g) (i : JuncNo)
    (hi : i = j ∨ ∀ v, (acc.1.junctions.get i).holder ≠ .claim v) (v : VehNo) :
    ((State.abortForEvacuation acc j).1.junctions.get i).holder ≠ .claim v := by
  unfold abortForEvacuation; split
  · next w e =>
    dsimp only; rw [abort_holder h]
    rcases hi with rfl | hi
    · simp [e]
    · split
      · simp
      · exact hi v
  · next e =>
    rcases hi with rfl | hi
    · exact fun e' => e v e'
    · exact hi v
theorem State.abortAll_free {l : List JuncNo} {acc : State × List JuncNo} (h : acc.1.Agree g) (i : JuncNo)
    (hi : i ∈ l ∨ ∀ v, (acc.1.junctions.get i).holder ≠ .claim v) (v : VehNo) :
    ((l.foldl State.abortForEvacuation acc).1.junctions.get i).holder ≠ .claim v := by
  induction l generalizing acc with
  | nil => exact (hi.resolve_left (by simp)) v
  | cons a l ih =>
    refine ih (abortForEvacuation_agree h) ?_
    rcases hi with hi | hi
    · rcases List.mem_cons.mp hi with rfl | hi
      · exact .inr (abortForEvacuation_free h _ (.inl rfl))
      · exact .inl hi
    · exact .inr (abortForEvacuation_free h _ (.inr hi))
theorem State.evacAll_agree {l : List JuncNo} (h : s.Agree g) (hl : ∀ j ∈ l, ∀ v, (s.junctions.get j).holder ≠ .claim v) :
    (s.forEach l fun t j => t.modJunction j evacHolder).Agree g := by
  unfold forEach
  induction l generalizing s with
  | nil => exact h
  | cons a l ih =>
    refine ih (modJunction_free_agree h (hl a List.mem_cons_self) fun v => by simp [evacHolder]) fun j hj v => ?_
    simp only [modJunction, get_set_entry]
    split
    · simp [evacHolder]
    · exact hl j (List.mem_cons_of_mem _ hj) v
theorem State.abort_configured (v : VehNo) (c : AbortCause) (j : JuncNo) :
    ((s.abort v c).1.junctions.get j).configured = (s.junctions.get j).configured ∧
      ((s.abort v c).1.junctions.get j).zone = (s.junctions.get j).zone := by
  have h : ∀ (l : List JuncNo) (t : State),
      ((t.forEach l fun t j => t.modJunction j dropHolder).junctions.get j).configured = (t.junctions.get j).configured ∧
      ((t.forEach l fun t j => t.modJunction j dropHolder).junctions.get j).zone = (t.junctions.get j).zone := by
    intro l; unfold forEach
    induction l with
    | nil => intro t; exact ⟨rfl, rfl⟩
    | cons a l ih =>
      intro t; rw [List.foldl_cons, (ih _).1, (ih _).2]
      simp only [modJunction, get_set_entry]; split <;> simp_all [dropHolder]
  unfold abort; dsimp only; split <;> exact h _ _
theorem State.junctionsOf_foldl (z : ZoneNo) (l : List JuncNo) (acc : State × List JuncNo) :
    (l.foldl State.abortForEvacuation acc).1.junctionsOf z = acc.1.junctionsOf z := by
  induction l generalizing acc with
  | nil => rfl
  | cons a l ih =>
    rw [List.foldl_cons, ih]
    unfold abortForEvacuation; split
    · next v _ =>
      unfold junctionsOf
      congr 1; funext j
      simp only [(acc.1.abort_configured v .evacuationHold j).1, (acc.1.abort_configured v .evacuationHold j).2]
    · rfl
@[simp] theorem State.hlcEvacuate_agree {z} (h : s.Agree g) : (s.hlcEvacuate z).Agree g := by
  unfold hlcEvacuate; dsimp only
  have h1 := forEach_agree (l := (s.zones.get z).vehicles) (f := fun t v => t.addReason v .evacuation) h
    fun _ _ => addReason_agree
  refine releaseAll_agree (evacAll_agree (foldl_agree Prod.fst (fun _ _ => abortForEvacuation_agree) _ _ h1) fun j hj => ?_)
  rw [junctionsOf_foldl] at hj
  exact abortAll_free h1 j (.inl hj)
theorem State.dropFree_agree {l : List JuncNo} (h : s.Agree g) (hl : ∀ j ∈ l, ∀ v, (s.junctions.get j).holder ≠ .claim v) :
    (s.forEach l fun t j => t.modJunction j dropHolder).Agree g := by
  unfold forEach
  induction l generalizing s with
  | nil => exact h
  | cons a l ih =>
    refine ih (modJunction_free_agree h (hl a List.mem_cons_self) fun v => by simp [dropHolder]) fun j hj v => ?_
    simp only [modJunction, get_set_entry]
    split
    · simp [dropHolder]
    · exact hl j (List.mem_cons_of_mem _ hj) v
@[simp] theorem State.hlcLift_agree {z} (h : s.Agree g) : (s.hlcLift z).Agree g := by
  unfold hlcLift; dsimp only
  have h1 := forEach_agree (l := (s.zones.get z).vehicles) (f := fun t v => t.removeReason v .evacuation) h
    fun _ _ => removeReason_agree
  refine releaseAll_agree (dropFree_agree h1 fun j hj v e => ?_)
  have := (List.mem_filter.mp hj).2
  simp [e] at this
@[simp] theorem State.hlcEvacuation_agree {z p n} (h : s.Agree g) : (s.hlcEvacuation z p n).Agree g := by
  unfold hlcEvacuation; split
  · exact hlcEvacuate_agree h
  · split
    · exact hlcLift_agree h
    · exact h
theorem endWalk_holder (j : Junction) : (endWalk j).holder = if j.holder = .walk then .none else j.holder := by
  unfold endWalk; split <;> rfl
theorem State.endWalk_agree {j : JuncNo} {f : Junction → Junction} (h : s.Agree g) (hf : ∀ x, (f x).holder = (endWalk x).holder) :
    (s.modJunction j f).Agree g := by
  by_cases hw : (s.junctions.get j).holder = .walk
  · exact modJunction_free_agree h (fun v => by simp [hw]) (fun v => by rw [hf, endWalk_holder, if_pos hw]; simp)
  · exact modJunction_agree h (by rw [hf, endWalk_holder, if_neg hw])
@[simp] theorem State.failJunction_agree {j} (h : s.Agree g) : (s.failJunction j).Agree g := by
  unfold failJunction; dsimp only
  have h1 : (s.modJunction j fun x => { x with state := .failed }).Agree g := modJunction_agree h rfl
  refine reportJunction_agree (endWalk_agree ?_ fun _ => rfl)
  split
  · exact abortWhole_agree h1
  · exact h1
@[simp] theorem State.serveJunction_agree {j} (h : s.Agree g) : (s.serveJunction j).Agree g := by
  unfold serveJunction; dsimp only
  have h1 : (s.modJunction j fun x => { x with state := .inService, fresh := false }).Agree g := modJunction_agree h rfl
  refine releaseAll_agree ?_
  split
  · exact h1
  · exact reportJunction_agree h1
@[simp] theorem State.hlcBeacon_agree {r n} (h : s.Agree g) : (s.hlcBeacon r n).Agree g := by
  unfold hlcBeacon; split
  · exact h
  · split <;> simp [h]
@[simp] theorem State.walkRead_agree {j} (h : s.Agree g) : (s.walkRead j).Agree g := by
  unfold walkRead; dsimp only; split
  · exact h
  · exact h
  · exact h
  · exact modJunction_agree h rfl
  · next e => exact modJunction_free_agree h (fun v => by simp [e]) fun v => by simp [walkHolder]
@[simp] theorem State.walkEnds_agree {j} (h : s.Agree g) : (s.walkEnds j).Agree g :=
  releaseAll_agree (endWalk_agree h fun _ => rfl)

/-- A wait entry for a vehicle without a claim. -/
theorem State.joinWait_agree {v l} (h : s.Agree g) (hv : (s.vehicles.get v).claim = none) (hl : ∀ x ∈ l, x.cleared = false) :
    (s.joinWait v l).Agree g := by
  unfold joinWait; split
  · refine { h with claims := ⟨h.claims.held, ?_, ?_⟩ }
    · have : (s.waits.map fun w => if w.vehicle = v then { w with legs := l } else w).map WaitEntry.vehicle
          = s.waits.map WaitEntry.vehicle := by
        rw [List.map_map]; congr 1; funext w; simp only [Function.comp]; split <;> rfl
      show ((s.waits.map fun w => if w.vehicle = v then { w with legs := l } else w).map WaitEntry.vehicle).Nodup
      rw [this]; exact h.claims.once
    · intro w hw
      obtain ⟨x, hx, rfl⟩ := List.mem_map.mp hw
      split
      · next e => exact ⟨(h.claims.waiting x hx).1, hl⟩
      · exact h.claims.waiting x hx
  · next hn =>
    split
    · refine modVehicle_agree (s := { s with waits := _ }) { h with claims := ⟨h.claims.held, ?_, ?_⟩ } rfl rfl
      · simp only [List.map_append, List.map_cons, List.map_nil]
        refine List.nodup_append'.mpr ⟨h.claims.once, by simp, ?_⟩
        intro a ha hb
        obtain ⟨w, hw, rfl⟩ := List.mem_map.mp ha
        rw [List.mem_singleton] at hb
        have : (s.waitOf v).isSome = true := by
          unfold waitOf; rw [List.find?_isSome]; exact ⟨w, hw, by simp [hb]⟩
        exact hn this
      · intro w hw
        rcases List.mem_append.mp hw with hw | hw
        · exact h.claims.waiting w hw
        · rw [List.mem_singleton] at hw; subst hw; exact ⟨hv, hl⟩
    · exact reportWaitFull_agree h
theorem mapM_mem {α β : Type} {f : α → Option β} {l : List α} {l' : List β} (h : l.mapM f = some l') :
    ∀ b ∈ l', ∃ a, f a = some b := by
  induction l generalizing l' with
  | nil => simp at h; subst h; simp
  | cons a l ih =>
    simp only [List.mapM_cons, Option.bind_eq_bind, Option.bind_eq_some_iff, Option.pure_def, Option.some.injEq] at h
    obtain ⟨x, hx, y, hy, rfl⟩ := h
    intro b hb
    rcases List.mem_cons.mp hb with rfl | hb
    · exact ⟨a, hx⟩
    · exact ih hy b hb
theorem State.legs?_fresh {raw : List RawLeg} {legs : List Leg} (h : s.legs? raw = some legs) :
    ∀ l ∈ legs, l.cleared = false := by
  unfold legs? at h
  simp only [Option.bind_eq_bind, Option.bind_eq_some_iff] at h
  obtain ⟨x, hx, h⟩ := h
  split at h
  · cases h
    intro l hl
    obtain ⟨r, hr⟩ := mapM_mem hx l hl
    unfold leg? at hr
    simp only [Option.bind_eq_bind, Option.bind_eq_some_iff] at hr
    obtain ⟨j, -, hr⟩ := hr
    split at hr
    · cases hr; rfl
    · cases hr
  · cases h
@[simp] theorem State.approach_agree {v b l} (h : s.Agree g) : (s.approach v b l).Agree g := by
  unfold approach; dsimp only; split
  · exact h
  · split
    · split <;> simp [h]
    · next hv => split
                 · simp [h]
                 · next legs hl =>
                   split
                   · simp [h]
                   · split
                     · simp [h]
                     · split
                       · next hf => exact grant_agree h hv hf (legs?_fresh hl)
                       · exact joinWait_agree h hv (legs?_fresh hl)

/-- A clear frees the leg's junction, and the claim ends at its last leg (R125). -/
@[simp] theorem State.clear_agree {v j} (h : s.Agree g) : (s.clear v j).Agree g := by
  unfold clear; split
  · next c hc =>
    split
    · next hl =>
      obtain ⟨l, hl1, hl2⟩ := List.any_eq_true.mp hl
      simp only [Bool.and_eq_true, beq_iff_eq, Bool.not_eq_eq_eq_not, Bool.not_true] at hl2
      have hj : (s.junctions.get j).holder = .claim v := (h.claims.held j v).mpr ⟨c, hc, l, hl1, hl2⟩
      have hclaim : ∀ i, (∃ d, (clearClaim j c (s.vehicles.get v)).claim = some d ∧ ∃ l ∈ d.legs, l.junction = i ∧
        l.cleared = false)
          ↔ i ≠ j ∧ ∃ l ∈ c.legs, l.junction = i ∧ l.cleared = false := by
        intro i
        have hm : (∃ l ∈ clearLeg j c.legs, l.junction = i ∧ l.cleared = false) ↔
            i ≠ j ∧ ∃ l ∈ c.legs, l.junction = i ∧ l.cleared = false := by
          constructor
          · rintro ⟨l, hl, hi, hc⟩
            obtain ⟨m, hm, rfl⟩ := List.mem_map.mp hl
            split at hc
            · simp at hc
            · next hne => rw [if_neg hne] at hi; exact ⟨fun e => hne (hi.trans e), m, hm, hi, hc⟩
          · rintro ⟨hne, m, hm, hi, hc⟩
            exact ⟨m, List.mem_map.mpr ⟨m, hm, by rw [if_neg]; exact fun e => hne (hi ▸ e)⟩, hi, hc⟩
        unfold clearClaim; dsimp only; split
        · next he =>
          simp only [reduceCtorEq, false_and, exists_false, false_iff]
          rw [← hm]
          rintro ⟨l, hl, hi, hc⟩
          have : l ∈ heldLegs (clearLeg j c.legs) := List.mem_filter.mpr ⟨hl, by simp [hc]⟩
          rw [List.isEmpty_iff.mp he] at this; cases this
        · simpa using hm
      have hz : (clearClaim j c (s.vehicles.get v)).zone = (s.vehicles.get v).zone := by
        unfold clearClaim; dsimp only; split <;> rfl
      refine releaseAll_agree ⟨h.occupancy, ?_, h.trunk, ⟨fun i w => ?_, h.claims.once, fun w hw => ?_⟩, h.calls, h.apart,
        h.spare, h.room, h.emptied⟩
      · exact h.presence.keep fun i => by
          simp only [modVehicle, modJunction, get_set_entry]; split
          · next e => subst e; exact hz
          · rfl
      · simp only [modVehicle, modJunction, get_set_entry]
        by_cases hij : j = i
        · subst hij
          by_cases hw : v = w
          · subst hw
            simp only [↓reduceIte, dropHolder, reduceCtorEq, hclaim, ne_eq, not_true_eq_false, false_and]
          · simp only [↓reduceIte, dropHolder, reduceCtorEq, hw, false_iff]
            intro e
            have := (h.claims.held j w).mpr e
            rw [hj] at this; injection this with e; exact hw e
        · by_cases hw : v = w
          · subst hw
            rw [if_neg hij, if_pos rfl, hclaim, h.claims.held]
            constructor
            · rintro ⟨d, hd, hl⟩; rw [hc] at hd; cases hd; exact ⟨Ne.symm hij, hl⟩
            · rintro ⟨-, hl⟩; exact ⟨c, hc, hl⟩
          · rw [if_neg hij, if_neg hw]; exact h.claims.held i w
      · have hw' := h.claims.waiting w hw
        have hne : ¬v = w.vehicle := fun e => by rw [← e, hc] at hw'; cases hw'.1
        simp only [modVehicle, modJunction, get_set_entry, if_neg hne]
        exact hw'
    · exact h
  · exact h
@[simp] theorem State.loseVehicle_agree {v} (h : s.Agree g) : (s.loseVehicle v).Agree g :=
  reportVehicle_agree (modVehicle_agree h rfl rfl)
@[simp] theorem State.expireWait_agree {w} (h : s.Agree g) : (s.expireWait w).Agree g :=
  report_agree (modVehicle_agree (withWaits_agree h List.filter_sublist) rfl rfl)
/-- An overstay reported leaves the claim's legs (R132). -/
theorem State.overstay_agree {v c} (h : s.Agree g) (hc : (s.vehicles.get v).claim = some c) : (s.overstay v c).Agree g := by
  refine report_agree ⟨h.occupancy, ?_, h.trunk, ⟨fun i w => ?_, h.claims.once, fun w hw => ?_⟩, h.calls, h.apart, h.spare,
      h.room, h.emptied⟩
  · exact h.presence.keep fun i => by
      simp only [modVehicle, get_set_entry]; split
      · next e => subst e; rfl
      · rfl
  · simp only [modVehicle, get_set_entry]
    by_cases hw : v = w
    · subst hw
      rw [if_pos rfl, h.claims.held, hc]; simp
    · rw [if_neg hw]; exact h.claims.held i w
  · have hw' := h.claims.waiting w hw
    have hne : ¬v = w.vehicle := fun e => by rw [← e, hc] at hw'; cases hw'.1
    simp only [modVehicle, get_set_entry, if_neg hne]
    exact hw'
@[simp] theorem State.hlcLoading_agree (h : s.Agree g) : s.hlcLoading.Agree g := by
  unfold hlcLoading abortClaims; dsimp only
  refine releaseAll_agree (foldl_agree Prod.fst (fun b a hb => by dsimp only; exact abort_agree hb) _ _ ?_)
  exact forEach_agree h fun _ _ => abort_agree

end haulage

end Sys2Proof.Machine
end

