-- ==== Sys2Proof/Laws/AgreementZone.lean ====
section
/-! SUPPORT. Zones, outputs and bursts keep the tables in agreement, given that what starts a program or a burst does. -/

namespace Sys2Proof.Machine

/-! ## Lists of zones (R9, R10) -/

section lists
variable {g : Guard} {s u : State}

/-- The lists after one tag has been taken out and, with a zone, put at the end of that zone's list. -/
theorem OccupancyAgrees.relist {z z' : Vector Zone 16} {t t' : Vector (Option Tag) 64} {r : Roster} {o : Option ZoneNo}
    (h : OccupancyAgrees z t)
    (hz : ∀ i q, q ∈ (z'.get i).occupancy ↔ (q ≠ r ∧ q ∈ (z.get i).occupancy) ∨ (q = r ∧ o = some i))
    (hn : ∀ i, (z'.get i).occupancy.Nodup) (ht : ∀ q, q ≠ r → t'.get q = t.get q)
    (hr : ∀ i, o = some i ↔ ∃ a, t'.get r = some a ∧ a.zone = some i)
    (hp : ∀ a, t'.get r = some a →
      (a.zone.isSome = true ↔ a.state = .placed ∨ a.state = .missing) ∧ (a.absentAt.isSome = true → a.state = .placed))
    (hc : ∀ i, (z'.get i).configured = (z.get i).configured) (hj : ∀ i, o = some i → (z.get i).configured = true) :
    OccupancyAgrees z' t' := by
  refine ⟨fun i hi => List.eq_nil_iff_forall_not_mem.mpr fun q hq => ?_, fun i q => ?_, hn, fun q a ha => ?_⟩
  · rw [hc] at hi
    rcases (hz i q).mp hq with ⟨-, hm⟩ | ⟨-, e⟩
    · rw [h.within i hi] at hm; cases hm
    · rw [hj i e] at hi; cases hi
  · rw [hz]
    by_cases hq : q = r
    · subst hq; simpa using hr i
    · simp only [ne_eq, hq, not_false_eq_true, true_and, false_and, or_false, ht q hq]; exact h.listed i q
  · by_cases hq : q = r
    · subst hq; exact hp a ha
    · rw [ht q hq] at ha; exact h.placed q a ha

theorem OccupancyAgrees.unique {z : Vector Zone 16} {t : Vector (Option Tag) 64} (h : OccupancyAgrees z t) {r : Roster}
    {i j : ZoneNo} (hi : r ∈ (z.get i).occupancy) (hj : r ∈ (z.get j).occupancy) : i = j := by
  obtain ⟨a, ha, e⟩ := (h.listed i r).mp hi
  obtain ⟨b, hb, e'⟩ := (h.listed j r).mp hj
  rw [ha] at hb; cases hb; rw [e] at e'; injection e'

theorem State.tagZone_some {r : Roster} {y : ZoneNo} (h : s.tagZone r = some y) : r ∈ (s.zones.get y).occupancy := by
  have := List.find?_some h; simpa using this
theorem State.tagZone_none {r : Roster} (h : s.tagZone r = none) (y : ZoneNo) : r ∉ (s.zones.get y).occupancy := by
  have := List.find?_eq_none.mp h y (List.mem_finRange y); simpa using this
theorem State.listZone_some {v : VehNo} {y : ZoneNo} (h : s.listZone v = some y) : v ∈ (s.zones.get y).vehicles := by
  have := List.find?_some h; simpa using this
theorem State.listZone_none {v : VehNo} (h : s.listZone v = none) (y : ZoneNo) : v ∉ (s.zones.get y).vehicles := by
  have := List.find?_eq_none.mp h y (List.mem_finRange y); simpa using this

/-- Nothing but tags and the link differs. -/
structure State.SameTables (s u : State) : Prop where
  zones : u.zones = s.zones
  vehicles : u.vehicles = s.vehicles
  trunk : u.trunk = s.trunk
  junctions : u.junctions = s.junctions
  waits : u.waits = s.waits
  calls : u.calls = s.calls
  voice : u.voice = s.voice
  devices : u.devices = s.devices
  carried : ∀ r, (u.tags.get r).bind Tag.call = (s.tags.get r).bind Tag.call

theorem State.SameTables.agree (hs : s.SameTables u) {x : Option Nat} (h : CallsBut x s.calls s.tags s.voice s.devices) :
    CallsBut x u.calls u.tags u.voice u.devices :=
  h.congr (by rw [hs.calls]) hs.carried hs.voice fun _ => by rw [hs.devices]; exact ⟨rfl, rfl⟩

/-- The lists after `unplace`, before its evacuation test. -/
theorem State.unlist_agree {x : Option Roster} {r : Roster} {y : ZoneNo} (h : s.Agree {}) (hs : s.SameTables u)
    (ht : ∀ q, q ≠ r → ((Guard.tags { hidden := x } u.tags)).get q = s.tags.get q)
    (hr : ∀ a, (Guard.tags { hidden := x } u.tags).get r = some a → a.zone = none ∧ a.state ≠ .placed ∧ a.state ≠ .missing ∧
      a.absentAt = none) (hy : r ∈ (s.zones.get y).occupancy) :
    (u.modZone y fun x => { x with occupancy := x.occupancy.filter fun t => t != r }).Agree { hidden := x } := by
  have ho := h.occupancy
  refine ⟨?_, ?_, by rw [modZone_trunk, hs.trunk]; exact h.trunk, ?_, hs.agree h.calls, by simp, by simp, ?_, fun i _ hi => ?_⟩
  · refine ho.relist (r := r) (o := none) (fun i q => ?_) (fun i => ?_) ht (fun i => ?_) (fun a ha => ?_) (fun i => ?_) (by simp)
    · simp only [modZone_zones, hs.zones, get_set_entry]
      split
      · next e => subst e; simp [and_comm]
      · next e =>
        simp only [ne_eq, reduceCtorEq, and_false, or_false]
        exact ⟨fun hq => ⟨fun e' => e (ho.unique hy (e' ▸ hq)), hq⟩, fun hq => hq.2⟩
    · simp only [modZone_zones, hs.zones, get_set_entry]
      split
      · exact (ho.once _).filter _
      · exact ho.once i
    · simp only [reduceCtorEq, false_iff]
      rintro ⟨a, ha, e⟩
      rw [(hr a ha).1] at e; cases e
    · obtain ⟨h1, h2, h3, h4⟩ := hr a ha
      simp [h1, h2, h3, h4]
    · simp only [modZone_zones, hs.zones, get_set_entry]; split <;> simp_all
  · exact h.presence.congr (fun i => by simp only [modZone_zones, hs.zones, get_set_entry]; split <;> simp_all)
      (fun i => by simp [hs.vehicles]) fun i => by simp only [modZone_zones, hs.zones, get_set_entry]; split <;> simp_all
  · rw [modZone_vehicles, modZone_junctions, modZone_waits, hs.vehicles, hs.junctions, hs.waits]; exact h.claims
  · rw [modZone_trunk, hs.trunk]; exact h.room
  · simp only [modZone_zones, hs.zones, get_set_entry] at hi ⊢
    split
    · next e => subst e; rw [if_pos rfl] at hi; simp [h.emptied y (by simp) hi]
    · next e => rw [if_neg e] at hi; exact h.emptied i (by simp) hi

/-- A tag that stands in no list and has no zone. -/
theorem State.unlisted_agree {x : Option Roster} {r : Roster} (h : s.Agree {}) (hs : s.SameTables u)
    (ht : ∀ q, q ≠ r → ((Guard.tags { hidden := x } u.tags)).get q = s.tags.get q)
    (hr : ∀ a, (Guard.tags { hidden := x } u.tags).get r = some a → a.zone = none ∧ a.state ≠ .placed ∧ a.state ≠ .missing ∧
      a.absentAt = none) (hn : ∀ y, r ∉ (s.zones.get y).occupancy) : u.Agree { hidden := x } := by
  refine ⟨?_, by rw [hs.zones, hs.vehicles]; exact h.presence, by rw [hs.trunk]; exact h.trunk,
    by rw [hs.vehicles, hs.junctions, hs.waits]; exact h.claims, hs.agree h.calls, by simp, by simp,
      by rw [hs.trunk]; exact h.room, by rw [hs.zones]; exact fun i _ => h.emptied i (by simp)⟩
  refine h.occupancy.relist (r := r) (o := none) (fun i q => ?_) (fun i => by rw [hs.zones]; exact h.occupancy.once i) ht
    (fun i => ?_) (fun a ha => ?_) (fun i => by rw [hs.zones]) (by simp)
  · rw [hs.zones]
    simp only [ne_eq, reduceCtorEq, and_false, or_false]
    exact ⟨fun hq => ⟨fun e => hn i (e ▸ hq), hq⟩, fun hq => hq.2⟩
  · simp only [reduceCtorEq, false_iff]
    rintro ⟨a, ha, e⟩
    rw [(hr a ha).1] at e; cases e
  · obtain ⟨h1, h2, h3, h4⟩ := hr a ha
    simp [h1, h2, h3, h4]

/-- The lists after `place`, before its evacuation tests. -/
theorem State.enlist_agree {r : Roster} {z : ZoneNo} {a : Tag} (h : s.Agree {}) (hs : s.SameTables u)
    (ht : ∀ q, q ≠ r → u.tags.get q = s.tags.get q) (hr : u.tags.get r = some a) (hz : a.zone = some z)
    (hp : a.state = .placed) (hc : (s.zones.get z).configured = true) :
    (r ∈ (s.zones.get z).occupancy → u.Agree {}) ∧
    (r ∉ (s.zones.get z).occupancy →
      (((s.tagZone r).elim u fun y => u.modZone y fun x => { x with occupancy := x.occupancy.filter fun t => t != r }).modZone z
        fun x => { x with occupancy := x.occupancy ++ [r] }).Agree { entered := some z }) := by
  have ho := h.occupancy
  have hp' : ∀ b, (Guard.tags {} u.tags).get r = some b →
      (b.zone.isSome = true ↔ b.state = .placed ∨ b.state = .missing) ∧ (b.absentAt.isSome = true → b.state = .placed) := by
    intro b hb
    have hb' : u.tags.get r = some b := hb
    rw [hr] at hb'; cases hb'
    simp [hz, hp]
  have hr' : ∀ i, some z = some i ↔ ∃ b, (Guard.tags {} u.tags).get r = some b ∧ b.zone = some i := by
    intro i
    show some z = some i ↔ ∃ b, u.tags.get r = some b ∧ b.zone = some i
    rw [hr]; simp [hz]
  refine ⟨fun hm => ?_, fun hm => ?_⟩
  · refine ⟨?_, by rw [hs.zones, hs.vehicles]; exact h.presence, by rw [hs.trunk]; exact h.trunk,
      by rw [hs.vehicles, hs.junctions, hs.waits]; exact h.claims, hs.agree h.calls, by simp, by simp,
        by rw [hs.trunk]; exact h.room, by rw [hs.zones]; exact h.emptied⟩
    refine ho.relist (r := r) (o := some z) (fun i q => ?_) (fun i => by rw [hs.zones]; exact ho.once i) ht hr' hp'
      (fun i => by rw [hs.zones]) fun i e => by cases e; exact hc
    rw [hs.zones]
    by_cases hq : q = r
    · subst hq
      simp only [ne_eq, not_true_eq_false, false_and, Option.some.injEq, true_and, false_or]
      exact ⟨fun hi => ho.unique hm hi, fun e => e ▸ hm⟩
    · simp [hq]
  · have hocc : ∀ i, ((((s.tagZone r).elim u fun y => u.modZone y fun x => { x with
        occupancy := x.occupancy.filter fun t => t != r }).modZone z fun x => { x with
          occupancy := x.occupancy ++ [r] }).zones.get i).occupancy =
        if i = z then (s.zones.get z).occupancy ++ [r] else (s.zones.get i).occupancy.filter fun t => t != r := by
      intro i
      have hf : ∀ j, r ∉ (s.zones.get j).occupancy →
          (s.zones.get j).occupancy.filter (fun t => t != r) = (s.zones.get j).occupancy := by
        intro j hj
        exact List.filter_eq_self.mpr fun q hq => by simp; exact fun e => hj (e ▸ hq)
      cases hy : s.tagZone r with
      | none =>
        simp only [Option.elim_none, modZone_zones, hs.zones, get_set_entry]
        by_cases hi : i = z
        · subst hi; simp
        · rw [if_neg (Ne.symm hi), if_neg hi, hf i (tagZone_none hy i)]
      | some y =>
        have hy' := tagZone_some hy
        have hyz : y ≠ z := fun e => hm (e ▸ hy')
        simp only [Option.elim_some, modZone_zones, hs.zones, get_set_entry]
        by_cases hi : i = z
        · subst hi; simp [hyz]
        · rw [if_neg (Ne.symm hi), if_neg hi]
          by_cases hiy : y = i
          · subst hiy; simp
          · rw [if_neg hiy, hf i fun e => hiy (ho.unique hy' e)]
    have hrest : ∀ w : State, w = ((s.tagZone r).elim u fun y => u.modZone y fun x => { x with
        occupancy := x.occupancy.filter fun t => t != r }).modZone z (fun x => { x with occupancy := x.occupancy ++ [r] }) →
        (∀ i, (w.zones.get i).vehicles = (s.zones.get i).vehicles ∧ (w.zones.get i).configured = (s.zones.get i).configured ∧
          (w.zones.get i).evac = (s.zones.get i).evac) ∧
          w.vehicles = s.vehicles ∧ w.trunk = s.trunk ∧ w.junctions = s.junctions ∧ w.waits = s.waits ∧ w.tags = u.tags ∧
          w.calls = u.calls ∧ w.voice = u.voice ∧ w.devices = u.devices := by
      rintro w rfl
      cases s.tagZone r with
      | none => exact ⟨fun i => by simp only [Option.elim_none, modZone_zones, hs.zones, get_set_entry]; split <;> simp_all,
          hs.vehicles, hs.trunk, hs.junctions, hs.waits, rfl, rfl, rfl, rfl⟩
      | some y => exact ⟨fun i => by
          simp only [Option.elim_some, modZone_zones, hs.zones, get_set_entry]; split
          · split <;> simp_all
          · split <;> simp_all, hs.vehicles, hs.trunk, hs.junctions, hs.waits, rfl, rfl, rfl, rfl⟩
    generalize hw : State.modZone _ z _ = w at hocc ⊢
    obtain ⟨h1, h2, h3, h4, h5, h6, h7, h8, h9⟩ := hrest w hw.symm
    refine ⟨?_, h.presence.congr (fun i => (h1 i).1) (fun i => by rw [h2]) fun i => (h1 i).2.1, by rw [h3]; exact h.trunk,
      by rw [h2, h4, h5]; exact h.claims,
      by rw [h6, h7, h8, h9]; exact hs.agree h.calls, by simp, by simp, by rw [h3]; exact h.room, fun i hi hx => by
        have hi' : i ≠ z := fun e => hi (by rw [e])
        rw [hocc, if_neg hi', h.emptied i (by simp) ((h1 i).2.2 ▸ hx)]; rfl⟩
    rw [h6]
    refine ho.relist (r := r) (o := some z) (fun i q => ?_) (fun i => ?_) ht hr' hp'
      (fun i => (h1 i).2.1) fun i e => by cases e; exact hc
    · rw [hocc]
      by_cases hi : i = z
      · subst hi
        rw [if_pos rfl]
        by_cases hq : q = r
        · subst hq; simp
        · simp [hq]
      · rw [if_neg hi]
        simp [Ne.symm hi, and_comm]
    · rw [hocc]
      split
      · next e =>
        refine List.nodup_append'.mpr ⟨ho.once z, by simp, fun q hq hq' => ?_⟩
        rw [List.mem_singleton] at hq'; subst hq'; exact hm hq
      · exact (ho.once i).filter _

/-- The vehicles-present lists after a vehicle has left its list and, with a zone, joined the end of that zone's list. -/
theorem PresenceAgrees.relist {z z' : Vector Zone 16} {x x' : Vector Vehicle 12} {v : VehNo} {o : Option ZoneNo}
    (h : PresenceAgrees z x)
    (hz : ∀ i w, w ∈ (z'.get i).vehicles ↔ (w ≠ v ∧ w ∈ (z.get i).vehicles) ∨ (w = v ∧ o = some i))
    (hn : ∀ i, (z'.get i).vehicles.Nodup) (hx : ∀ w, w ≠ v → (x'.get w).zone = (x.get w).zone) (ho : (x'.get v).zone = o)
    (hc : ∀ i, (z'.get i).configured = (z.get i).configured) (hj : ∀ i, o = some i → (z.get i).configured = true) :
    PresenceAgrees z' x' := by
  refine ⟨fun i hi => List.eq_nil_iff_forall_not_mem.mpr fun q hq => ?_, fun i w => ?_, hn⟩
  · rw [hc] at hi
    rcases (hz i q).mp hq with ⟨-, hm⟩ | ⟨-, e⟩
    · rw [h.within i hi] at hm; cases hm
    · rw [hj i e] at hi; cases hi
  rw [hz]
  by_cases hw : w = v
  · subst hw; simp [ho]
  · simp only [ne_eq, hw, not_false_eq_true, true_and, false_and, or_false, hx w hw]; exact h.listed i w

theorem PresenceAgrees.unique {z : Vector Zone 16} {x : Vector Vehicle 12} (h : PresenceAgrees z x) {v : VehNo}
    {i j : ZoneNo} (hi : v ∈ (z.get i).vehicles) (hj : v ∈ (z.get j).vehicles) : i = j := by
  have e := (h.listed i v).mp hi
  rw [(h.listed j v).mp hj] at e; injection e with e; exact e.symm

end lists

/-! ## Zone Table -/

theorem deferStart_agrees (g : Guard) : deferStart.Agrees g := fun _ _ h => State.withHandOffs_agree h

section zones
variable {g : Guard} {s u : State} {st : Starter}

theorem State.startBound_agree (hst : st.Agrees g) {p z c} (h : s.Agree g) : (s.startBound st p z c).Agree g := by
  unfold startBound; split
  · exact hst _ _ h
  · exact h
@[simp] theorem State.reportZone_agree {z a b} (h : s.Agree g) : (s.reportZone z a b).Agree g := report_agree h
@[simp] theorem State.reportEvacuation_agree {z p c} (h : s.Agree g) : (s.reportEvacuation z p c).Agree g := report_agree h
theorem State.startSummary_agree (hst : st.Agrees g) {z p n} (h : s.Agree g) : (s.startSummary st z p n).Agree g := by
  unfold startSummary; split
  · split
    · exact h
    · exact startBound_agree hst h
  · split
    · exact startBound_agree hst h
    · exact h
  · exact h
theorem State.recompute_agree (hst : st.Agrees g) {z} (h : s.Agree g) : (s.recompute st z).Agree g := by
  unfold recompute; dsimp only; split
  · exact startSummary_agree hst (reportZone_agree (modZone_agree h rfl rfl rfl .inl))
  · exact h
theorem State.recomputeZones_agree (hst : st.Agrees g) {a b} (h : s.Agree g) : (s.recomputeZones st a b).Agree g := by
  have h1 : (a.elim s (s.recompute st)).Agree g := by
    cases a with
    | none => exact h
    | some z => exact recompute_agree hst h
  unfold recomputeZones; dsimp only; split
  · exact h1
  · cases b with
    | none => exact h1
    | some z => exact recompute_agree hst h1
@[simp] theorem State.updateView_agree {z} (h : s.Agree g) : (s.updateView z).Agree g := by
  unfold updateView; dsimp only; split
  · exact hlcPowerView_agree (reportZone_agree (modZone_agree h rfl rfl rfl .inl))
  · exact h
@[simp] theorem State.followOutput_agree {z} (h : s.Agree g) : (s.followOutput z).Agree g := by
  unfold followOutput; split
  · exact startBound_agree (deferStart_agrees _) (updateView_agree h)
  · exact updateView_agree h
@[simp] theorem State.outputChanged_agree {o} (h : s.Agree g) : (s.outputChanged o).Agree g :=
  forEach_agree h fun _ _ => followOutput_agree
/-- A zone takes an evacuation state, CLEARED with an empty list alone (R12). -/
theorem State.setEvac_agree {z n c} (h : s.Agree g) (hn : n = .cleared → (s.zones.get z).occupancy = []) :
    (s.setEvac z n c).Agree g :=
  hlcEvacuation_agree (reportEvacuation_agree (modZone_agree h rfl rfl rfl fun e => .inr (hn e)))
@[simp] theorem State.testEmpty_agree {z} (h : s.Agree g) : (s.testEmpty z).Agree g := by
  unfold testEmpty; split
  · next e => exact setEvac_agree h fun _ => e.2
  · exact h
/-- The evacuation test of a zone whose list a tag has joined leaves no zone CLEARED with a tag in its list (R12). -/
theorem State.testEntered_agree {z} (h : s.Agree { entered := some z }) : (s.testEntered z).Agree {} := by
  unfold testEntered; split
  · next e =>
    have h1 := modZone_agree (z := z) (f := fun x => { x with evac := .ordered }) h rfl rfl rfl (by simp)
    refine hlcEvacuation_agree (reportEvacuation_agree { h1 with emptied := fun i _ hi => ?_ })
    by_cases hz : z = i
    · subst hz; simp at hi
    · exact h1.emptied i (by simpa using hz) hi
  · next e =>
    exact { h with
      emptied := fun i _ hi => h.emptied i (fun hz => by
        simp only [Option.some.injEq] at hz; subst hz; exact e hi) hi }
@[simp] theorem State.orderEvac_agree {z c} (h : s.Agree g) : (s.orderEvac z c).Agree g := by
  unfold orderEvac; split
  · exact h
  · exact testEmpty_agree (setEvac_agree h (by simp))

theorem State.tagZone_same (hs : s.SameTables u) (r : Roster) : u.tagZone r = s.tagZone r := by simp [tagZone, hs.zones]

/-- A tag that has lost its zone leaves its list. -/
theorem State.unplace_agree {x : Option Roster} {r : Roster} (h : s.Agree {}) (hs : s.SameTables u)
    (ht : ∀ q, q ≠ r → ((Guard.tags { hidden := x } u.tags)).get q = s.tags.get q)
    (hr : ∀ a, (Guard.tags { hidden := x } u.tags).get r = some a → a.zone = none ∧ a.state ≠ .placed ∧ a.state ≠ .missing ∧
      a.absentAt = none) : (u.unplace r).Agree { hidden := x } := by
  unfold unplace; rw [tagZone_same hs]; split
  · next e => exact unlisted_agree h hs ht hr (tagZone_none e)
  · next y e => exact testEmpty_agree (unlist_agree h hs ht hr (tagZone_some e))

/-- A tag that has got a zone joins its list. -/
theorem State.place_agree {r : Roster} {z : ZoneNo} {a : Tag} (h : s.Agree {}) (hs : s.SameTables u)
    (ht : ∀ q, q ≠ r → u.tags.get q = s.tags.get q) (hr : u.tags.get r = some a) (hz : a.zone = some z)
    (hp : a.state = .placed) (hc : (s.zones.get z).configured = true) : (u.place r z).Agree {} := by
  have hl := enlist_agree h hs ht hr hz hp hc
  unfold place; dsimp only; rw [tagZone_same hs]; split
  · next e => exact hl.1 (by rwa [hs.zones] at e)
  · next e =>
    have h1 := hl.2 (by rwa [hs.zones] at e)
    refine testEntered_agree ?_
    cases hy : s.tagZone r with
    | none => rw [hy] at h1; exact h1
    | some y => rw [hy] at h1; exact testEmpty_agree h1

theorem State.followOnboard_agree (hst : st.Agrees g) {v a b} (h : s.Agree g) : (s.followOnboard st v a b).Agree g := by
  unfold followOnboard; split
  · exact recomputeZones_agree hst h
  · exact h

/-- A vehicle whose zone has changed joins the list of the zone (R10, R121). -/
theorem State.enterZone_agree (hst : st.Agrees g) {v : VehNo} {z : ZoneNo} (h : s.Agree g) (hv : (s.vehicles.get v).zone ≠ some z)
    (hc : (s.zones.get z).configured = true) :
    (((s.modVehicle v fun x => { x with zone := some z }).tgZoneChange v).enterZone st v z).Agree g := by
  have hp := h.presence
  have hnz : v ∉ (s.zones.get z).vehicles := fun e => hv ((hp.listed z v).mp e)
  have hclaims : ClaimsAgree (s.vehicles.set v { s.vehicles.get v with zone := some z }) s.junctions s.waits :=
    h.claims.congr (fun i => by simp only [get_set_entry]; split <;> simp_all) fun _ => rfl
  have hx : ∀ w, w ≠ v → ((s.vehicles.set v { s.vehicles.get v with zone := some z }).get w).zone = (s.vehicles.get w).zone :=
    fun w hw => by rw [get_set_entry, if_neg (Ne.symm hw)]
  unfold enterZone; dsimp only
  have hl : ((s.modVehicle v fun x => { x with zone := some z }).tgZoneChange v).listZone v = s.listZone v := rfl
  rw [hl]
  split
  · next e => exact absurd (listZone_some e) hnz
  · refine followOnboard_agree hst ?_
    cases hy : s.listZone v with
    | none =>
      refine ⟨h.occupancy.congr (fun i => ?_) (fun _ => rfl) (fun i => by
          simp only [Option.elim_none, modZone_zones, get_set_entry, tgZoneChange, modBurst, setBurst, modVehicle]
          split <;> simp_all),
        hp.relist (v := v) (o := some z) (fun i w => ?_) (fun i => ?_) hx
        (by simp [tgZoneChange, modVehicle, modZone, modBurst, setBurst]) (fun i => by
          simp only [Option.elim_none, modZone_zones, get_set_entry, tgZoneChange, modBurst, setBurst, modVehicle]
          split <;> simp_all) (fun i e => by cases e; exact hc), h.trunk, hclaims, h.calls, h.apart, h.spare, h.room,
        fun i hi hx => ?_⟩
      · simp only [Option.elim_none, modZone_zones, get_set_entry, tgZoneChange, modBurst, setBurst, modVehicle]
        split <;> simp_all
      · simp only [Option.elim_none, modZone_zones, get_set_entry, tgZoneChange, modBurst, setBurst, modVehicle]
        by_cases hi : z = i
        · subst hi
          by_cases hw : w = v
          · subst hw; simp
          · simp [hw]
        · by_cases hw : w = v
          · subst hw; simp [hi, listZone_none hy i]
          · simp [hw, hi]
      · simp only [Option.elim_none, modZone_zones, get_set_entry, tgZoneChange, modBurst, setBurst, modVehicle]
        split
        · exact List.nodup_append'.mpr ⟨hp.once z, by simp, fun q hq hq' => by
            rw [List.mem_singleton] at hq'; subst hq'; exact hnz hq⟩
        · exact hp.once i
      · have := h.emptied i hi
        simp only [Option.elim_none, modZone_zones, get_set_entry, tgZoneChange, modBurst, setBurst, modVehicle] at hx ⊢
        split <;> simp_all
    | some y =>
      have hy' := listZone_some hy
      have hyz : y ≠ z := fun e => hnz (e ▸ hy')
      refine ⟨h.occupancy.congr (fun i => ?_) (fun _ => rfl) (fun i => by
          simp only [Option.elim_some, modZone_zones, get_set_entry, tgZoneChange, modBurst, setBurst, modVehicle]
          split
          · next e => subst e; rfl
          · split <;> simp_all),
        hp.relist (v := v) (o := some z) (fun i w => ?_) (fun i => ?_) hx
        (by simp [tgZoneChange, modVehicle, modZone, modBurst, setBurst]) (fun i => by
          simp only [Option.elim_some, modZone_zones, get_set_entry, tgZoneChange, modBurst, setBurst, modVehicle]
          split
          · next e => subst e; rfl
          · split <;> simp_all) (fun i e => by cases e; exact hc), h.trunk, hclaims, h.calls, h.apart, h.spare, h.room,
        fun i hi hx => ?_⟩
      · simp only [Option.elim_some, modZone_zones, get_set_entry, tgZoneChange, modBurst, setBurst, modVehicle]
        split
        · next e => subst e; rfl
        · split <;> simp_all
      · simp only [Option.elim_some, modZone_zones, get_set_entry, tgZoneChange, modBurst, setBurst, modVehicle]
        by_cases hi : z = i
        · subst hi
          by_cases hw : w = v
          · subst hw; simp [hyz]
          · simp [hw, hyz]
        · by_cases hyi : y = i
          · subst hyi
            by_cases hw : w = v
            · subst hw; simp [hi]
            · simp [hw, hi]
          · by_cases hw : w = v
            · subst hw; simp only [hi, hyi, ↓reduceIte, ne_eq, not_true_eq_false, false_and, Option.some.injEq, and_false,
              or_self, iff_false]
              exact fun e => hyi (hp.unique hy' e)
            · simp [hw, hi, hyi]
      · simp only [Option.elim_some, modZone_zones, get_set_entry, tgZoneChange, modBurst, setBurst, modVehicle]
        split
        · exact List.nodup_append'.mpr ⟨hp.once z, by simp, fun q hq hq' => by
            rw [List.mem_singleton] at hq'; subst hq'; exact hnz hq⟩
        · split
          · exact (hp.once y).filter _
          · exact hp.once i
      · have := h.emptied i hi
        simp only [Option.elim_some, modZone_zones, get_set_entry, tgZoneChange, modBurst, setBurst, modVehicle] at hx ⊢
        split
        · next e => subst e; simp_all
        · split <;> simp_all

/-- A vehicle leaves its list and has no zone (R119). -/
theorem State.leave_agree {v : VehNo} (h : s.Agree g) :
    ((s.leaveList v).modVehicle v fun x => { x with zone := none, lastJunction := none }).Agree g := by
  have hp := h.presence
  have hclaims : ClaimsAgree (s.vehicles.set v { s.vehicles.get v with zone := none, lastJunction := none })
      s.junctions s.waits :=
    h.claims.congr (fun i => by simp only [get_set_entry]; split <;> simp_all) fun _ => rfl
  have hx : ∀ w, w ≠ v → ((s.vehicles.set v { s.vehicles.get v with zone := none, lastJunction := none }).get w).zone =
      (s.vehicles.get w).zone := fun w hw => by rw [get_set_entry, if_neg (Ne.symm hw)]
  unfold leaveList; split
  · next e =>
    refine ⟨h.occupancy, hp.relist (v := v) (o := none) (fun i w => ?_) hp.once hx (by simp [modVehicle]) (fun _ => rfl)
      (by simp), h.trunk,
      hclaims, h.calls, h.apart, h.spare, h.room, h.emptied⟩
    simp only [ne_eq, reduceCtorEq, and_false, or_false]
    exact ⟨fun hw => ⟨fun e' => listZone_none e i (e' ▸ hw), hw⟩, fun hw => hw.2⟩
  · next y e =>
    have hy' := listZone_some e
    refine ⟨h.occupancy.congr (fun i => ?_) (fun _ => rfl) fun i => by
        simp only [modVehicle_zones, modZone_zones, get_set_entry]; split <;> simp_all,
      hp.relist (v := v) (o := none) (fun i w => ?_) (fun i => ?_) hx (by simp [modVehicle, modZone])
        (fun i => by simp only [modVehicle_zones, modZone_zones, get_set_entry]; split <;> simp_all) (by simp), h.trunk,
          hclaims, h.calls, h.apart, h.spare, h.room, fun i hi hx => ?_⟩
    · simp only [modVehicle_zones, modZone_zones, get_set_entry]; split <;> simp_all
    · simp only [modVehicle_zones, modZone_zones, get_set_entry, ne_eq, reduceCtorEq, and_false, or_false]
      split
      · next e => subst e; simp [and_comm]
      · next e => exact ⟨fun hw => ⟨fun e' => e (hp.unique hy' (e' ▸ hw)), hw⟩, fun hw => hw.2⟩
    · simp only [modVehicle_zones, modZone_zones, get_set_entry]
      split
      · exact (hp.once _).filter _
      · exact hp.once i
    · have := h.emptied i hi
      simp only [modVehicle_zones, modZone_zones, get_set_entry] at hx ⊢
      split <;> simp_all

theorem State.emergencyIn_agree (hst : st.Agrees g) {z} (h : s.Agree g) : (s.emergencyIn st z).Agree g := by
  cases z with
  | none => exact h
  | some z => exact startBound_agree hst h

end zones

end Sys2Proof.Machine
end

