-- ==== Sys2Proof/Laws/AgreementField.lean ====
section
/-! SUPPORT. Air, gas, refuges and the reads of beacons keep the tables in agreement. -/

namespace Sys2Proof.Machine

/-! ## Trip Control Unit -/

section outputs
variable {g : Guard} {s : State}

@[simp] theorem State.changeDrivers_agree {n f} (h : s.Agree g) : (s.changeDrivers n f).Agree g := modSignal_agree h
@[simp] theorem State.leaveDrivers_agree {r} (h : s.Agree g) : (s.leaveDrivers r).Agree g :=
  forEach_agree h fun _ _ => changeDrivers_agree
@[simp] theorem State.warn_agree {o b} (h : s.Agree g) : (s.warn o b).Agree g := by
  unfold warn; split
  · exact h
  · dsimp only; split_ifs <;> simp [h]
@[simp] theorem State.senseChange_agree {n b} (h : s.Agree g) : (s.senseChange n b).Agree g := by
  unfold senseChange; split
  · exact h
  · exact report_agree (modSignal_agree h)
@[simp] theorem State.reportTrip_agree {o p c} (h : s.Agree g) : (s.reportTrip o p c).Agree g := report_agree h
@[simp] theorem State.reportTripAbandoned_agree {o p} (h : s.Agree g) : (s.reportTripAbandoned o p).Agree g := report_agree h
@[simp] theorem State.reportCloseUnconfirmed_agree {o} (h : s.Agree g) : (s.reportCloseUnconfirmed o).Agree g := report_agree h
theorem State.moveTrip_agree {o n c} (h : s.Agree g) : (s.moveTrip o n c).Agree g := by
  unfold moveTrip; dsimp only
  exact outputChanged_agree (warn_agree (modTrip_agree (reportTrip_agree (modTrip_agree h))))
theorem State.testOpening_agree {o} (h : s.Agree g) : (s.testOpening o).Agree g := by
  unfold testOpening; split
  · exact moveTrip_agree h
  · exact h
theorem State.openTrip_agree {o c} (h : s.Agree g) : (s.openTrip o c).Agree g :=
  testOpening_agree (moveTrip_agree h)
theorem State.tripNow_agree {o c} (h : s.Agree g) : (s.tripNow o c).Agree g := by
  unfold tripNow; split
  · exact openTrip_agree h
  · exact h
theorem State.unconfirm_agree {o c} (h : s.Agree g) : (s.unconfirm o c).Agree g := by
  have h1 := moveTrip_agree (o := o) (n := .unconfirmed) (c := c) h
  unfold unconfirm; dsimp only
  cases ((s.moveTrip o .unconfirmed c).trips.get o).backup with
  | none => exact h1
  | some b => exact tripNow_agree h1
theorem State.endWait_agree {o} (h : s.Agree g) : (s.endWait o).Agree g := by
  unfold endWait; split
  · exact openTrip_agree h
  · exact reportTripAbandoned_agree (moveTrip_agree h)
theorem State.startWait_agree {o z c} (h : s.Agree g) : (s.startWait o z c).Agree g := by
  have h1 : ((s.modTrip o fun t => { t with
    wait := t.waitPending, origin := some (z, c)
    waitAt := if t.waitPending = 0 then none else some (s.now + t.waitPending) }).moveTrip o .waiting .demand).Agree g :=
    moveTrip_agree (modTrip_agree h)
  unfold startWait; dsimp only; split
  · exact endWait_agree h1
  · exact h1
theorem State.demand_agree {o z c} (h : s.Agree g) : (s.demand o z c).Agree g := by
  unfold demand; split
  · split
    · exact openTrip_agree h
    · exact startWait_agree h
  · exact h
theorem State.feedbackEvent_agree {o} (h : s.Agree g) : (s.feedbackEvent o).Agree g := by
  unfold feedbackEvent; dsimp only; split
  · exact modTrip_agree h
  · exact moveTrip_agree h
  · exact unconfirm_agree h
  · exact moveTrip_agree h
  · exact h
theorem State.rereadFeedback_agree {o f} (h : s.Agree g) : (s.rereadFeedback o f).Agree g := by
  unfold rereadFeedback; dsimp only; split
  · exact modTrip_agree h
  · exact feedbackEvent_agree (modTrip_agree h)
theorem State.confirmEnds_agree {o} (h : s.Agree g) : (s.confirmEnds o).Agree g := unconfirm_agree h
@[simp] theorem State.closeConfirmEnds_agree {o} (h : s.Agree g) : (s.closeConfirmEnds o).Agree g :=
  reportCloseUnconfirmed_agree (modTrip_agree h)
theorem State.manualLevel_agree {o b} (h : s.Agree g) : (s.manualLevel o b).Agree g := by
  unfold manualLevel; split
  · exact h
  · dsimp only; split
    · exact tripNow_agree (modTrip_agree h)
    · exact modTrip_agree h
theorem State.restoreTrip_agree {o} (h : s.Agree g) : (s.restoreTrip o).Agree g :=
  modTrip_agree (moveTrip_agree h)
theorem State.startTrip_agree {o} (h : s.Agree g) : (s.startTrip o).Agree g := by
  unfold startTrip; split
  · have h1 := moveTrip_agree (o := o) (n := .opened) (c := .start) h
    dsimp only; split
    · exact h1
    · exact unconfirm_agree h1
  · exact h
theorem State.tcuStart_agree (h : s.Agree g) : (s.tcuStart).Agree g :=
  forEach_agree h fun _ _ => startTrip_agree
theorem State.tcuLoading_agree (h : s.Agree g) : (s.tcuLoading).Agree g :=
  forEach_agree h fun _ _ ht => by
    split
    · exact ht
    · exact moveTrip_agree ht

end outputs

/-! ## Refuge Monitor -/

section refuge
variable {g : Guard} {s : State} {st : Starter}

@[simp] theorem State.reportRefuge_agree {n p c} (h : s.Agree g) : (s.reportRefuge n p c).Agree g := report_agree h
theorem State.startStation_agree (hst : st.Agrees g) {n p c} (h : s.Agree g) : (s.startStation st n p c).Agree g := by
  unfold startStation; cases (s.stations.get n).zone with
  | none => exact h
  | some z => exact startBound_agree hst h
theorem State.distress_agree (hst : st.Agrees g) {n c} (h : s.Agree g) : (s.distress st n c).Agree g := by
  unfold distress; dsimp only; split
  · exact reportRefuge_agree (modStation_agree h)
  · exact startStation_agree hst (reportRefuge_agree (modStation_agree h))
theorem State.rfmChannel_agree (hst : st.Agrees g) {c p n} (h : s.Agree g) : (s.rfmChannel st c p n).Agree g := by
  unfold rfmChannel; split
  · exact forEach_agree h fun _ _ => distress_agree hst
  · exact h
theorem State.activate_agree (hst : st.Agrees g) {n} (h : s.Agree g) : (s.activate st n).Agree g :=
  startStation_agree hst (reportRefuge_agree (modStation_agree h))
theorem State.panelReply_agree (hst : st.Agrees g) {n b d c p} (h : s.Agree g) : (s.panelReply st n b d c p).Agree g := by
  unfold panelReply; dsimp only
  generalize hs : s.modStation n _ = s1
  have h1 : s1.Agree g := by subst hs; exact modStation_agree h
  split
  · split
    · exact distress_agree hst (activate_agree hst h1)
    · exact distress_agree hst h1
  · split
    · split
      · exact activate_agree hst h1
      · exact h1
    · split
      · exact reportRefuge_agree (activate_agree hst h1)
      · exact reportRefuge_agree h1
@[simp] theorem State.rfmDevice_agree {r n} (h : s.Agree g) : (s.rfmDevice r n).Agree g := by
  unfold rfmDevice; split
  · exact h
  · dsimp only; split
    · exact h
    · exact modStation_agree h
    · split
      · exact modStation_agree h
      · exact reportRefuge_agree (modStation_agree h)
@[simp] theorem State.joinStrobe_agree {n r} (h : s.Agree g) : (s.joinStrobe n r).Agree g := modStation_agree h
@[simp] theorem State.leaveStrobe_agree {n r} (h : s.Agree g) : (s.leaveStrobe n r).Agree g := modStation_agree h
@[simp] theorem State.resetStation_agree {n} (h : s.Agree g) : (s.resetStation n).Agree g :=
    reportRefuge_agree (modStation_agree h)

end refuge

/-! ## Air Reading Unit -/

section air
variable {g : Guard} {s : State} {st : Starter}

@[simp] theorem State.reportChannel_agree {c p} (h : s.Agree g) : (s.reportChannel c p).Agree g := report_agree h
theorem State.raiseDemand_agree (hst : st.Agrees g) {c} (h : s.Agree g) : (s.raiseDemand st c).Agree g := by
  unfold raiseDemand; split
  · exact h
  · next z _ => cases s.zoneOutput z with
    | none => exact h
    | some o => exact hst _ _ (demand_agree h)
theorem State.recomputeOf_agree (hst : st.Agrees g) {z : Option ZoneNo} (h : s.Agree g) :
    (z.elim s fun z => s.recompute st z).Agree g := by
  cases z with
  | none => exact h
  | some z => exact recompute_agree hst h
theorem State.handOn_agree (hst : st.Agrees g) {c b} (h : s.Agree g) : (s.handOn st c b).Agree g := by
  have h1 := recomputeOf_agree hst (z := (s.reportChannel c b.level).channelZone c) (reportChannel_agree (c := c) (p :=
      b.level) h)
  unfold handOn; dsimp only
  refine rfmChannel_agree hst ?_
  split
  · exact raiseDemand_agree hst h1
  · exact h1
theorem State.faultEvent_agree (hst : st.Agrees g) {c f} (h : s.Agree g) : (s.faultEvent st c f).Agree g := by
  unfold faultEvent; dsimp only; split
  · exact h
  · split
    · split
      · exact h
      · exact reportChannel_agree (modChannel_agree h)
    · exact handOn_agree hst (modChannel_agree h)
theorem State.validSample_agree (hst : st.Agrees g) {c v b} (h : s.Agree g) : (s.validSample st c v b).Agree g := by
  unfold validSample; dsimp only; split
  · exact modChannel_agree h
  · exact handOn_agree hst (modChannel_agree h)
theorem State.sample_agree (hst : st.Agrees g) {c x r} (h : s.Agree g) : (s.sample st c x r).Agree g := by
  unfold sample; dsimp only; split
  · exact h
  · split
    · exact faultEvent_agree hst h
    · split
      · exact faultEvent_agree hst h
      · exact validSample_agree hst h
theorem State.headReply_agree (hst : st.Agrees g) {r x l} (h : s.Agree g) : (s.headReply st r x l).Agree g := by
  unfold headReply
  refine forEach_agree h fun t a ht => ?_
  dsimp only
  cases t.headChannel r a.1 with
  | none => exact ht
  | some c => exact sample_agree hst ht
theorem State.aruDevice_agree (hst : st.Agrees g) {r n} (h : s.Agree g) : (s.aruDevice st r n).Agree g := by
  unfold aruDevice; cases deviceFault n with
  | none => exact h
  | some f => exact forEach_agree h fun _ _ => faultEvent_agree hst
theorem State.onboardSample_agree (hst : st.Agrees g) {v r x} (h : s.Agree g) : (s.onboardSample st v r x).Agree g := by
  unfold onboardSample; cases s.onboardChannel v with
  | none => exact h
  | some c => exact sample_agree hst h
theorem State.staleFault_agree (hst : st.Agrees g) {c} (h : s.Agree g) : (s.staleFault st c).Agree g := faultEvent_agree hst h
/-- A vehicle whose zone has changed enters it (R10, R43, R121). -/
theorem State.vehicleEnters_agree (hst : st.Agrees g) {v : VehNo} {z : ZoneNo} (h : s.Agree g)
    (hv : (s.vehicles.get v).zone ≠ some z) (hc : (s.zones.get z).configured = true) :
    (((s.modVehicle v fun x => { x with zone := some z }).tgZoneChange v).vehicleEnters st v z).Agree g := by
  have h1 := enterZone_agree hst h hv hc
  unfold vehicleEnters; dsimp only; split
  · split
    · exact raiseDemand_agree hst h1
    · exact h1
  · exact h1
theorem State.writeChannel_agree (hst : st.Agrees g) {c x} (h : s.Agree g) : (s.writeChannel st c x).Agree g := by
  have h1 : (s.modChannel c fun _ => x.cleared).Agree g := modChannel_agree h
  have h2 {a b} := recomputeZones_agree hst (a := a) (b := b) h1
  unfold writeChannel; dsimp only
  split_ifs <;> first | exact h1 | exact h2 | exact raiseDemand_agree hst h1 | exact raiseDemand_agree hst h2
theorem State.takeOut_agree (hst : st.Agrees g) {c} (h : s.Agree g) : (s.takeOut st c).Agree g := by
  unfold takeOut; dsimp only; split
  · exact reportChannel_agree (modChannel_agree h)
  · exact handOn_agree hst (modChannel_agree h)
@[simp] theorem State.takeIn_agree {c} (h : s.Agree g) : (s.takeIn c).Agree g := reportChannel_agree (modChannel_agree h)
theorem State.gradeReset_agree (hst : st.Agrees g) (h : s.Agree g) : (s.gradeReset st).Agree g :=
  forEach_agree h fun t c ht => by
    have h1 := recomputeOf_agree hst (z := t.channelZone c) ht
    dsimp only; split
    · exact raiseDemand_agree hst h1
    · exact h1

end air

end Sys2Proof.Machine
end

