-- ==== Sys2Proof/Laws/AgreementTrunk.lean ====
section
/-! SUPPORT. The slot table, the request queue, calls and bursts on the trunk keep the tables in agreement. -/

namespace Sys2Proof.Machine

/-! ## The slot table and the request queue (R105 to R109) -/

section slots
variable {g : Guard} {s : State}

theorem State.granted_trunk {h k} : (s.granted h k).trunk = s.trunk := by
  unfold granted; split
  · unfold csGranted reportCallNow; split
    · cases (State.callOf _ _) <;> rfl
    · cases (State.callOf _ _) <;> rfl
    · rfl
  · rfl
  · rfl

/-- Slots and requests that go leave the rest in agreement. -/
theorem State.modTrunk_fewer_agree {f : Trunk → Trunk} (h : s.Agree g) (ha : (f s.trunk).allotment = s.trunk.allotment)
    (hh : (f s.trunk).held.Sublist s.trunk.held) (hq : (f s.trunk).queue.Sublist s.trunk.queue) : (s.modTrunk f).Agree g :=
  { h with
    trunk := ⟨h.trunk.slots.sublist (hh.map _), fun y hy => by
        show y.slot ∈ (f s.trunk).allotment; rw [ha]; exact h.trunk.allotted y (hh.subset hy),
      h.trunk.holders.sublist ((hh.map _).append (hq.map _)), hq.length_le.trans h.trunk.room, h.trunk.ranked.sublist hq⟩
    apart := fun x hx hm => h.apart x hx (((hh.map _).append (hq.map _)).subset hm)
    spare := fun y hy => h.spare y (hh.subset hy)
    room := hq.length_le.trans h.room }

/-- The trunk's state and counts are no part of the tables. -/
theorem State.modTrunk_counts_agree {f : Trunk → Trunk} (h : s.Agree g) (ha : (f s.trunk).allotment = s.trunk.allotment)
    (hh : (f s.trunk).held = s.trunk.held) (hq : (f s.trunk).queue = s.trunk.queue) : (s.modTrunk f).Agree g :=
  modTrunk_fewer_agree h ha (hh ▸ List.Sublist.refl _) (hq ▸ List.Sublist.refl _)

/-- A free slot of the allotment goes to a holder that holds none and has none waiting. -/
theorem State.give_agree {k h c} (hs : s.Agree g) (hk : k ∈ s.trunk.allotment) (hf : k ∉ s.trunk.held.map HeldSlot.slot)
    (hn : h ∉ s.trunk.held.map HeldSlot.holder ++ s.trunk.queue.map Waiting.holder) (hg : k ∉ g.slots) (hh : h ∉ g.holders) :
    (s.modTrunk fun t => t.give k h c).Agree g := by
  have hx := hs.trunk.holders
  rw [List.mem_append, not_or] at hn
  refine { hs with trunk := ⟨?_, ?_, ?_, hs.trunk.room, hs.trunk.ranked⟩, apart := ?_, spare := ?_ }
  · simp only [modTrunk, Trunk.give, List.map_append, List.map_cons, List.map_nil]
    exact List.nodup_append'.mpr ⟨hs.trunk.slots, by simp, by simpa using hf⟩
  · intro y hy
    rcases List.mem_append.mp hy with hy | hy
    · exact hs.trunk.allotted y hy
    · rw [List.mem_singleton] at hy; subst hy; exact hk
  · simp only [modTrunk, Trunk.give, List.map_append, List.map_cons, List.map_nil]
    rw [List.nodup_append'] at hx ⊢
    refine ⟨List.nodup_append'.mpr ⟨hx.1, by simp, by simpa using hn.1⟩, hx.2.1, ?_⟩
    intro a ha hb
    rcases List.mem_append.mp ha with ha | ha
    · exact hx.2.2 ha hb
    · rw [List.mem_singleton] at ha; subst ha; exact hn.2 hb
  · intro a ha hm
    simp only [modTrunk, Trunk.give, List.map_append, List.map_cons, List.map_nil, List.mem_append, List.mem_singleton] at hm
    have := hs.apart a ha
    rw [List.mem_append, not_or] at this
    rcases hm with (hm | hm) | hm
    · exact this.1 hm
    · subst hm; exact hh ha
    · exact this.2 hm
  · intro y hy
    rcases List.mem_append.mp hy with hy | hy
    · exact hs.spare y hy
    · rw [List.mem_singleton] at hy; subst hy; exact hg

@[simp] theorem State.reportCall_agree {i c p x k} (h : s.Agree g) : (s.reportCall i c p x k).Agree g := report_agree h
@[simp] theorem State.reportCallNow_agree {i p k} (h : s.Agree g) : (s.reportCallNow i p k).Agree g := by
  unfold reportCallNow; cases s.callOf i with
  | none => exact h
  | some c => exact reportCall_agree h
theorem Call.proceed_core (c : Call) (n : Time) : (c.proceed n).core = c.core := by unfold proceed; split <;> rfl
@[simp] theorem State.csGranted_agree {i k} (h : s.Agree g) : (s.csGranted i k).Agree g := by
  unfold csGranted; split
  · exact reportCallNow_agree (modCall_agree h fun c => c.proceed_core s.now)
  · exact reportCallNow_agree (modCall_agree h fun _ => rfl)
  · exact h
@[simp] theorem State.tgGranted_agree {v k} (h : s.Agree g) : (s.tgGranted v k).Agree g := setBurst_agree h
@[simp] theorem State.playStart_agree {r} (h : s.Agree g) : (s.playStart r).Agree g := modRunner_agree h
@[simp] theorem State.granted_agree {x k} (h : s.Agree g) : (s.granted x k).Agree g := by
  unfold granted; split
  · exact csGranted_agree h
  · exact tgGranted_agree h
  · exact playStart_agree h

theorem State.grantHead_agree {k q} (h : s.Agree g) (hq : q.Sublist s.trunk.queue) (hk : k ∈ s.trunk.allotment)
    (hf : k ∉ s.trunk.held.map HeldSlot.slot) (hg : k ∉ g.slots) : (s.grantHead k q).Agree g := by
  induction q with
  | nil => exact modTrunk_fewer_agree h rfl (List.Sublist.refl _) hq
  | cons w q ih =>
    unfold grantHead; split
    · have hw : w ∈ s.trunk.queue := hq.subset List.mem_cons_self
      have h1 : (s.modTrunk fun t => { t with queue := q }).Agree g :=
        modTrunk_fewer_agree h rfl (List.Sublist.refl _) ((List.sublist_cons_self w q).trans hq)
      have hx := h.trunk.holders.sublist ((List.Sublist.refl _).append (hq.map Waiting.holder))
      rw [List.nodup_append', List.map_cons, List.nodup_cons] at hx
      refine granted_agree (give_agree h1 hk hf ?_ hg ?_)
      · rw [List.mem_append, not_or]
        exact ⟨fun e => hx.2.2 e List.mem_cons_self, hx.2.1.1⟩
      · exact fun e => h.apart _ e (List.mem_append_right _ (List.mem_map_of_mem hw))
    · exact ih ((List.sublist_cons_self w q).trans hq)
theorem State.slotFreed_agree {k} (h : s.Agree g) (hf : k ∉ s.trunk.held.map HeldSlot.slot) (hg : k ∉ g.slots) :
    (s.slotFreed k).Agree g := by
  unfold slotFreed; split
  · next hk => exact grantHead_agree h (List.Sublist.refl _) hk.2 hf hg
  · exact h
@[simp] theorem State.releaseSlot_agree {x} (h : s.Agree g) : (s.releaseSlot x).Agree g := by
  unfold releaseSlot; split
  · exact h
  · next y hy =>
    have hm := List.mem_of_find?_eq_some hy
    have hp := List.find?_some hy
    refine slotFreed_agree (modTrunk_fewer_agree h rfl List.filter_sublist (List.Sublist.refl _)) ?_ (h.spare y hm)
    intro e
    obtain ⟨z, hz, e⟩ := List.mem_map.mp e
    obtain ⟨hz, hne⟩ := List.mem_filter.mp hz
    rw [List.inj_on_of_nodup_map h.trunk.slots hz hm e] at hne
    simp_all
@[simp] theorem State.withdraw_agree {x} (h : s.Agree g) : (s.withdraw x).Agree g :=
  modTrunk_fewer_agree h rfl (List.Sublist.refl _) List.filter_sublist
@[simp] theorem State.giveUp_agree {x} (h : s.Agree g) : (s.giveUp x).Agree g := withdraw_agree (releaseSlot_agree h)
/-- The calls, the tags and the channel map. -/
def State.callView (s : State) :
    List (Nat × Party × Party × Option VoiceRef × Option VoiceRef) × Vector (Option Tag) 64 × Vector (Vector (Option Nat) 4) 96 :=
  (s.calls.map Call.core, s.tags, s.voice)

theorem State.modCall_view {i : Nat} {f : Call → Call} (hf : ∀ c, (f c).core = c.core) :
    (s.modCall i f).callView = s.callView := by
  simp only [callView, modCall, List.map_map]
  congr 2; funext c; simp only [Function.comp]; split
  · exact hf c
  · rfl
theorem State.reportCallNow_view {i p k} : (s.reportCallNow i p k).callView = s.callView := by
  unfold reportCallNow; cases s.callOf i <;> rfl
theorem State.csGranted_view {i k} : (s.csGranted i k).callView = s.callView := by
  unfold csGranted; split
  · exact reportCallNow_view.trans (modCall_view fun c => c.proceed_core s.now)
  · exact reportCallNow_view.trans (modCall_view fun _ => rfl)
  · rfl
theorem State.granted_view {x k} : (s.granted x k).callView = s.callView := by
  unfold granted; split
  · exact csGranted_view
  · rfl
  · rfl
theorem State.grantHead_view {k q} : (s.grantHead k q).callView = s.callView := by
  induction q with
  | nil => rfl
  | cons w q ih =>
    unfold grantHead; split
    · exact granted_view
    · exact ih
theorem State.giveUp_view {x} : (s.giveUp x).callView = s.callView := by
  show (s.releaseSlot x).callView = _
  unfold releaseSlot; split
  · rfl
  · unfold slotFreed; split
    · exact grantHead_view
    · rfl

/-- The holder of a channel. -/
def State.channel (s : State) (v : VoiceRef) : Option Nat := (s.voice.get v.entry).get v.chan

theorem State.setVoice_channel {v w : VoiceRef} {x} : (s.setVoice v x).channel w = if v = w then x else s.channel w := by
  unfold channel setVoice
  rw [get_set_entry]
  by_cases he : v.entry = w.entry
  · rw [if_pos he, get_set_entry]
    by_cases hk : v.chan = w.chan
    · have : v = w := by cases v; cases w; simp_all
      simp [this]
    · have : v ≠ w := fun e => hk (e ▸ rfl)
      rw [if_neg hk, if_neg this, he]
  · have : v ≠ w := fun e => he (e ▸ rfl)
    rw [if_neg he, if_neg this]
theorem State.freeVoice_channel {o : Option VoiceRef} {w : VoiceRef} :
    (s.freeVoice o).channel w = if o = some w then none else s.channel w := by
  cases o with
  | none => simp [freeVoice]
  | some v => simp only [freeVoice, Option.elim_some, setVoice_channel, Option.some.injEq]
theorem State.freeVoice_rest {o : Option VoiceRef} : (s.freeVoice o).calls = s.calls ∧ (s.freeVoice o).tags = s.tags ∧
    (s.freeVoice o).devices = s.devices ∧ (s.freeVoice o).zones = s.zones ∧ (s.freeVoice o).vehicles = s.vehicles ∧
    (s.freeVoice o).trunk = s.trunk ∧ (s.freeVoice o).junctions = s.junctions ∧ (s.freeVoice o).waits = s.waits := by
  cases o <;> exact ⟨rfl, rfl, rfl, rfl, rfl, rfl, rfl, rfl⟩

/-- A channel of the call under way becomes free. -/
theorem State.freeVoice_agree {o : Option VoiceRef} (h : s.Agree g) (hv : ∀ v, o = some v → ∀ i, s.channel v = some i →
    g.call = some i) :
    (s.freeVoice o).Agree g := by
  obtain ⟨h1, h2, h3, h4, h5, h6, h7, h8⟩ := s.freeVoice_rest (o := o)
  refine ⟨by rw [h2, h4]; exact h.occupancy, by rw [h4, h5]; exact h.presence, by rw [h6]; exact h.trunk,
    by rw [h5, h7, h8]; exact h.claims, ?_, by rw [h6]; exact h.apart, by rw [h6]; exact h.spare, by rw [h6]; exact h.room,
    by rw [h4]; exact h.emptied⟩
  rw [h1, h2, h3]
  refine { h.calls with channels := fun w i hi => ?_, points := fun w i hw => ?_ }
  · rw [← h.calls.channels w i hi]
    show (s.freeVoice o).channel w = some i ↔ s.channel w = some i
    rw [freeVoice_channel]; split
    · next e => exact ⟨fun e => (by cases e), fun e' => absurd (hv w e i e') hi⟩
    · rfl
  · have : (s.freeVoice o).channel w = some i := hw
    rw [freeVoice_channel] at this; split at this
    · cases this
    · exact h.calls.points w i this

/-- The tag record of a party of the call under way loses it. -/
theorem State.clearCall_carried {i : Nat} {p : Party} {r : Roster} : ((s.clearCall i p).tags.get r).bind Tag.call =
    if p = .tag r ∧ (s.tags.get r).bind Tag.call = some i then none else (s.tags.get r).bind Tag.call := by
  unfold clearCall; split
  · next q =>
    simp only [modTag, get_set_entry, Party.tag.injEq]
    by_cases hq : q = r
    · subst hq
      cases ht : s.tags.get q with
      | none => simp
      | some t => simp only [↓reduceIte, Option.map_some, Option.bind_some, true_and]; split <;> simp_all
    · simp [hq]
  · next hp => rw [if_neg (fun e => hp _ e.1)]
theorem State.clearCall_agree {i : Nat} {p : Party} (h : s.Agree g) (hg : g.call = some i) : (s.clearCall i p).Agree g := by
  have hc : CallsBut g.call (s.clearCall i p).calls (s.clearCall i p).tags (s.clearCall i p).voice (s.clearCall i p).devices := by
    have hr : (s.clearCall i p).calls = s.calls ∧ (s.clearCall i p).voice = s.voice ∧ (s.clearCall i p).devices = s.devices := by
      unfold clearCall; split <;> exact ⟨rfl, rfl, rfl⟩
    rw [hr.1, hr.2.1, hr.2.2]
    refine { h.calls with parties := fun r j hj => ?_ }
    rw [← h.calls.parties r j hj, clearCall_carried]; split
    · next e =>
      rw [e.2]
      exact ⟨fun e => (by cases e), fun e' => by cases e'; exact absurd hg hj⟩
    · rfl
  unfold clearCall at hc ⊢; split
  · next q =>
    exact { h with
      occupancy := modTag_occupancy h fun t => by split <;> rfl
      calls := hc }
  · exact h

theorem State.callOf_some {i : Nat} {c : Call} (h : s.callOf i = some c) : c ∈ s.calls ∧ c.id = i :=
  ⟨List.mem_of_find?_eq_some h, by simpa using List.find?_some h⟩
theorem CallsBut.unique {x l t v d} (h : CallsBut x l t v d) {c c' : Call} (hc : c ∈ l) (hc' : c' ∈ l) (he : c.id = c'.id)
    : c = c' :=
  List.inj_on_of_nodup_map h.once hc hc' he

/-- The call under way ends: nothing holds its id any more (R84). -/
theorem State.endCall_agree {i p cause} {c : Call} (hc : s.callOf i = some c) (h : s.Agree g) (hg : g.call = some i)
    (hch : ∀ v, s.channel v = some i → c.chanA = some v ∨ c.chanB = some v)
    (hfree : ∀ v, c.chanA = some v ∨ c.chanB = some v → ∀ j, s.channel v = some j → j = i)
    (hp : ∀ r, (s.tags.get r).bind Tag.call = some i → c.a = .tag r ∨ c.b = .tag r) :
    (s.csEndFrom i p cause).Agree { g with call := none } := by
  unfold csEndFrom; rw [hc]; dsimp only
  refine reportCall_agree ?_
  have h1 : ((s.freeVoice c.chanA).freeVoice c.chanB).Agree g := by
    refine freeVoice_agree (freeVoice_agree h fun v hv j hj => ?_) fun v hv j hj => ?_
    · rw [hg, hfree v (.inl hv) j hj]
    · rw [freeVoice_channel] at hj; split at hj
      · cases hj
      · rw [hg, hfree v (.inr hv) j hj]
  have hv1 : ∀ w, ((s.freeVoice c.chanA).freeVoice c.chanB).channel w ≠ some i := by
    intro w e
    rw [freeVoice_channel, freeVoice_channel] at e
    split at e
    · cases e
    · next hb =>
      split at e
      · cases e
      · next ha => exact (hch w e).elim ha hb
  have ht1 : ((s.freeVoice c.chanA).freeVoice c.chanB).tags = s.tags :=
    freeVoice_rest.2.1.trans freeVoice_rest.2.1
  generalize (s.freeVoice c.chanA).freeVoice c.chanB = s1 at h1 hv1 ht1
  have h2 := giveUp_agree (x := .call i) h1
  have hview := giveUp_view (s := s1) (x := .call i)
  simp only [callView, Prod.mk.injEq] at hview
  have hv2 : ∀ w, (s1.giveUp (.call i)).channel w ≠ some i := fun w => by
    show ((s1.giveUp (.call i)).voice.get w.entry).get w.chan ≠ _
    rw [hview.2.2]; exact hv1 w
  have ht2 : (s1.giveUp (.call i)).tags = s.tags := hview.2.1.trans ht1
  generalize s1.giveUp (.call i) = s2 at h2 hv2 ht2
  have h3 := clearCall_agree (i := i) (p := c.b) (clearCall_agree (i := i) (p := c.a) h2 hg) hg
  have hv3 : ((s2.clearCall i c.a).clearCall i c.b).voice = s2.voice := by
    unfold clearCall; split <;> split <;> rfl
  have hp3 : ∀ r, (((s2.clearCall i c.a).clearCall i c.b).tags.get r).bind Tag.call ≠ some i := by
    intro r e
    rw [clearCall_carried, clearCall_carried, ht2] at e
    by_cases hr : (s.tags.get r).bind Tag.call = some i
    · rcases hp r hr with ha | hb
      · simp [ha, hr] at e
      · simp only [hb, hr, and_true, true_and] at e
        split at e <;> simp_all
    · simp [hr] at e
  generalize (s2.clearCall i c.a).clearCall i c.b = s3 at h3 hv3 hp3
  refine ⟨h3.occupancy, h3.presence, h3.trunk, h3.claims, ⟨?_, ?_, ?_, ?_, ?_, ?_, h3.calls.points⟩, h3.apart, h3.spare, h3.room,
    h3.emptied⟩
  · exact (List.length_filter_le _ _).trans h3.calls.room
  · intro d hd; exact h3.calls.ids d (List.mem_filter.mp hd).1
  · exact h3.calls.once.sublist (List.filter_sublist.map _)
  · intro r j _
    by_cases hj : j = i
    · subst hj
      refine ⟨fun e => absurd e (hp3 r), ?_⟩
      rintro ⟨d, hd, e, -⟩
      have := (List.mem_filter.mp hd).2
      simp [e] at this
    · show (s3.tags.get r).bind Tag.call = some j ↔ _
      rw [h3.calls.parties r j (by rw [hg]; simpa using Ne.symm hj)]
      constructor
      · rintro ⟨d, hd, e, hx⟩; exact ⟨d, List.mem_filter.mpr ⟨hd, by simp [e, hj]⟩, e, hx⟩
      · rintro ⟨d, hd, e, hx⟩; exact ⟨d, (List.mem_filter.mp hd).1, e, hx⟩
  · intro w j _
    by_cases hj : j = i
    · subst hj
      refine ⟨fun e => absurd e ?_, ?_⟩
      · show (s3.voice.get w.entry).get w.chan ≠ some j
        rw [hv3]; exact hv2 w
      · rintro ⟨d, hd, e, -⟩
        have := (List.mem_filter.mp hd).2
        simp [e] at this
    · show (s3.voice.get w.entry).get w.chan = some j ↔ _
      rw [h3.calls.channels w j (by rw [hg]; simpa using Ne.symm hj)]
      constructor
      · rintro ⟨d, hd, e, hx⟩; exact ⟨d, List.mem_filter.mpr ⟨hd, by simp [e, hj]⟩, e, hx⟩
      · rintro ⟨d, hd, e, hx⟩; exact ⟨d, (List.mem_filter.mp hd).1, e, hx⟩
  · intro d hd; exact h3.calls.apart d (List.mem_filter.mp hd).1

/-- A call leaves the agreement for as long as an operation works on it. -/
theorem State.Agree.lift {i : Nat} (h : s.Agree g) (hg : g.call = none) : s.Agree { g with call := some i } :=
  { h with calls := { h.calls with
      parties := fun r j _ => h.calls.parties r j (by simp [hg])
      channels := fun w j _ => h.calls.channels w j (by simp [hg]) } }

/-- The end of a call of the table, at a moment when every call agrees. -/
theorem State.csEndFrom_agree {i p c} (h : s.Agree g) (hg : g.call = none) :
    (s.csEndFrom i p c).Agree g := by
  cases hc : s.callOf i with
  | none => unfold csEndFrom; rw [hc]; exact h
  | some d =>
    have hm := callOf_some hc
    have := endCall_agree (p := p) (cause := c) hc (h.lift (i := i) hg) rfl (fun v hv => ?_) (fun v hv j hj => ?_) fun r hr => ?_
    · rwa [show ({ g with call := none } : Guard) = g by rw [← hg]] at this
    · obtain ⟨e, he, hi, hx⟩ := (h.calls.channels v i (by simp [hg])).mp hv
      rwa [h.calls.unique hm.1 he (hm.2.trans hi.symm)]
    · have := (h.calls.channels v i (by simp [hg])).mpr ⟨d, hm.1, hm.2, hv⟩
      have hj' : (s.voice.get v.entry).get v.chan = some j := hj
      rw [this] at hj'; exact (Option.some.inj hj').symm
    · obtain ⟨e, he, hi, hx⟩ := (h.calls.parties r i (by simp [hg])).mp hr
      rwa [h.calls.unique hm.1 he (hm.2.trans hi.symm)]
theorem State.csEnd_agree {i c} (h : s.Agree g) (hg : g.call = none) : (s.csEnd i c).Agree g :=
  csEndFrom_agree h hg

end slots

/-! ## Bursts -/

section bursts
variable {g : Guard} {s : State} {st : Starter}

@[simp] theorem State.reportBurst_agree {v b} (h : s.Agree g) : (s.reportBurst v b).Agree g := report_agree h
theorem State.tgComplete_agree (hst : st.Agrees g) {v b} (h : s.Agree g) : (s.tgComplete st v b).Agree g := by
  unfold tgComplete; dsimp only
  have h1 := giveUp_agree (x := .burst v) h
  have h2 (d : Burst) : (((s.giveUp (.burst v)).setBurst v (some d)).reportBurst v d).Agree g :=
      reportBurst_agree (setBurst_agree h1)
  split <;> split <;> first | exact h2 _ | exact setBurst_agree (h2 _) | exact onboardSample_agree hst (h2 _) |
    exact onboardSample_agree hst (setBurst_agree (h2 _))
theorem State.tgSettle_agree (hst : st.Agrees g) {v} (h : s.Agree g) : (s.tgSettle st v).Agree g := by
  unfold tgSettle; split
  · exact h
  · split
    · dsimp only; split <;> split <;> first | exact h | exact tgComplete_agree hst (setBurst_agree h)
    · exact h
@[simp] theorem State.queueFetch_agree {f} (h : s.Agree g) : (s.queueFetch f).Agree g := modSpur_agree h
@[simp] theorem State.endGather_agree {v c} (h : s.Agree g) : (s.endGather v c).Agree g := modBurst_agree h
@[simp] theorem State.fetchNext_agree {v} (h : s.Agree g) : (s.fetchNext v).Agree g := by
  unfold fetchNext; split
  · exact queueFetch_agree (modBurst_agree h)
  · exact endGather_agree h
@[simp] theorem State.takeQuarter_agree {v q} (h : s.Agree g) : (s.takeQuarter v q).Agree g := by
  unfold takeQuarter; dsimp only; split <;> simp [h]
@[simp] theorem State.takeMiss_agree {v} (h : s.Agree g) : (s.takeMiss v).Agree g := by
  unfold takeMiss; dsimp only; split <;> simp [h]
theorem State.tgAnswer_agree (hst : st.Agrees g) {f a} (h : s.Agree g) : (s.tgAnswer st f a).Agree g := by
  unfold tgAnswer; split
  · refine tgSettle_agree hst ?_
    cases a <;> simp [h]
  · exact h
theorem State.tgBeacon_agree (hst : st.Agrees g) {r n} (h : s.Agree g) : (s.tgBeacon st r n).Agree g := by
  unfold tgBeacon; split
  · refine forEach_agree h fun t v ht => ?_
    split
    · exact tgSettle_agree hst (endGather_agree ht)
    · exact ht
  · exact h
theorem State.tgStop_agree (hst : st.Agrees g) {v c} (h : s.Agree g) : (s.tgStop st v c).Agree g := by
  unfold tgStop; split
  · exact tgSettle_agree hst (modBurst_agree h)
  · exact h
@[simp] theorem State.tgPreempted_agree {v} (h : s.Agree g) : (s.tgPreempted v).Agree g := modBurst_agree h
theorem State.forwardCycle_agree (hst : st.Agrees g) (h : s.Agree g) : (s.forwardCycle st).Agree g := by
  unfold forwardCycle
  refine forEach_agree h fun t v ht => ?_
  split
  · exact tgSettle_agree hst (modBurst_agree ht)
  · exact ht
theorem State.turnCycle_agree (hst : st.Agrees g) (h : s.Agree g) : (s.turnCycle st).Agree g := by
  have ho {t : State} (ht : t.Agree g) : t.openCycle.Agree g := { ht with }
  unfold turnCycle; split
  · exact ho (forwardCycle_agree hst h)
  · exact ho h
@[simp] theorem State.tgZoneChange_agree {v} (h : s.Agree g) : (s.tgZoneChange v).Agree g := modBurst_agree h
theorem State.tgTagChanged_agree (hst : st.Agrees g) {v} (h : s.Agree g) : (s.tgTagChanged st v).Agree g := by
  unfold tgTagChanged; split
  · exact tgSettle_agree hst (endGather_agree h)
  · exact h
theorem State.tgUnconfigured_agree (hst : st.Agrees g) {v} (h : s.Agree g) : (s.tgUnconfigured st v).Agree g := by
  unfold tgUnconfigured; split
  · exact h
  · split
    · dsimp only; split <;> split <;> first
        | exact tgStop_agree hst (giveUp_agree (endGather_agree h))
        | exact tgStop_agree hst (giveUp_agree h)
        | exact tgSettle_agree hst (endGather_agree h)
        | exact tgSettle_agree hst h
    · exact setBurst_agree h

end bursts

/-! ## The arbiter and the trunk -/


section arbiter
variable {g : Guard} {s : State} {st : Starter}

theorem State.preemptedNotice_agree {x} (h : s.Agree g) (hg : g.call = none) :
    (s.preemptedNotice x).Agree g := by
  unfold preemptedNotice; split
  · split
    · exact reportCallNow_agree (modCall_agree h fun _ => rfl)
    · exact csEnd_agree h hg
    · exact h
  · exact tgPreempted_agree h
  · exact h
theorem State.noSlotNotice_agree (hst : st.Agrees g) {x} (h : s.Agree g) (hg : g.call = none) :
    (s.noSlotNotice st x).Agree g := by
  unfold noSlotNotice; split
  · exact csEnd_agree h hg
  · exact tgStop_agree hst h
  · exact playStart_agree h
theorem State.trunkLostNotice_agree (hst : st.Agrees g) {x} (h : s.Agree g) (hg : g.call = none) :
    (s.trunkLostNotice st x).Agree g := by
  unfold trunkLostNotice; split
  · exact csEnd_agree h hg
  · exact tgStop_agree hst h
  · exact h
theorem State.noTrunkNotice_agree (hst : st.Agrees g) {x} (h : s.Agree g) (hg : g.call = none) :
    (s.noTrunkNotice st x).Agree g := by
  unfold noTrunkNotice; split
  · exact csEnd_agree h hg
  · exact tgStop_agree hst h
  · split
    · exact playStart_agree h
    · exact h

/-- The place of a request: before the entries of a lower class, after the others (R107). -/
theorem placeWaiting_perm (q : List Waiting) (w : Waiting) : (placeWaiting q w).Perm (w :: q) := by
  unfold placeWaiting
  refine List.perm_middle.trans ?_
  rw [List.takeWhile_append_dropWhile]
theorem placeWaiting_ranked {q : List Waiting} (w : Waiting) (h : q.Pairwise fun a b => classRank a.cls ≤ classRank b.cls) :
    (placeWaiting q w).Pairwise fun a b => classRank a.cls ≤ classRank b.cls := by
  induction q with
  | nil => simp [placeWaiting]
  | cons a q ih =>
    have ha := List.pairwise_cons.mp h
    by_cases hw : classRank a.cls ≤ classRank w.cls
    · have e : placeWaiting (a :: q) w = a :: placeWaiting q w := by simp [placeWaiting, hw]
      rw [e]
      refine List.pairwise_cons.mpr ⟨fun b hb => ?_, ih ha.2⟩
      rcases List.mem_cons.mp ((placeWaiting_perm q w).subset hb) with rfl | hb
      · exact hw
      · exact ha.1 b hb
    · have e : placeWaiting (a :: q) w = w :: a :: q := by simp [placeWaiting, hw]
      rw [e]
      refine List.pairwise_cons.mpr ⟨fun b hb => ?_, h⟩
      rcases List.mem_cons.mp hb with rfl | hb
      · omega
      · have := ha.1 b hb; omega

/-- A request joins a queue with room, for a holder that holds nothing and waits for nothing. -/
theorem State.join_agree {w : Waiting} (h : s.Agree { g with holders := w.holder :: g.holders, room :=
    Config.requestQueueBound - 1 })
    (hr : g.room = Config.requestQueueBound) (hg : w.holder ∉ g.holders) :
    (s.modTrunk fun t => { t with queue := placeWaiting t.queue w }).Agree g := by
  have hp := placeWaiting_perm s.trunk.queue w
  have hl : (placeWaiting s.trunk.queue w).length ≤ Config.requestQueueBound := by
    have := h.room
    rw [hp.length_eq, List.length_cons]
    simp only [Config.requestQueueBound] at *
    omega
  have hw := h.apart w.holder List.mem_cons_self
  have hx : (s.trunk.held.map HeldSlot.holder ++ (placeWaiting s.trunk.queue w).map Waiting.holder).Perm
      (w.holder :: (s.trunk.held.map HeldSlot.holder ++ s.trunk.queue.map Waiting.holder)) :=
    ((hp.map _).append_left _).trans List.perm_middle
  refine ⟨h.occupancy, h.presence, ⟨h.trunk.slots, h.trunk.allotted, ?_, hl, placeWaiting_ranked w h.trunk.ranked⟩, h.claims,
      h.calls,
    ?_, h.spare, hr ▸ hl, h.emptied⟩
  · exact hx.nodup_iff.mpr (List.nodup_cons.mpr ⟨hw, h.trunk.holders⟩)
  · intro a ha hm
    rcases List.mem_cons.mp (hx.subset hm) with rfl | hm
    · exact hg ha
    · exact h.apart a (List.mem_cons_of_mem _ ha) hm

/-- A holder that holds nothing and waits for nothing. -/
def State.Free (s : State) (x : Holder) : Prop :=
  x ∉ s.trunk.held.map HeldSlot.holder ++ s.trunk.queue.map Waiting.holder

theorem State.free_iff {x : Holder} : s.Free x ↔ s.trunk.holds x = false ∧ s.trunk.waitsFor x = false := by
  simp [Free, Trunk.holds, Trunk.waitsFor]

theorem State.toQueue_agree {w} (h : s.Agree {}) (hw : s.Free w.holder) : (s.toQueue w).1.Agree {} := by
  unfold toQueue; dsimp only; split
  · next hl =>
    refine join_agree ⟨h.occupancy, h.presence, h.trunk, h.claims, h.calls, ?_, h.spare, Nat.le_sub_one_of_lt hl,
      h.emptied⟩ rfl (by simp)
    intro a ha; rw [List.mem_singleton] at ha; subst ha; exact hw
  · split
    · exact h
    · split
      · have h1 : (s.modTrunk fun t => { t with queue := s.trunk.queue.dropLast }).Agree
            { holders := [w.holder], room := Config.requestQueueBound - 1 } := by
          have h0 : s.Agree { holders := [w.holder] } := by
            refine ⟨h.occupancy, h.presence, h.trunk, h.claims, h.calls, ?_, h.spare, h.room, h.emptied⟩
            intro a ha; rw [List.mem_singleton] at ha; subst ha; exact hw
          have h1 := modTrunk_fewer_agree (f := fun t => { t with queue := s.trunk.queue.dropLast }) h0 rfl
            (List.Sublist.refl _) (List.dropLast_sublist _)
          refine { h1 with room := ?_ }
          have := h.trunk.room
          show s.trunk.queue.dropLast.length ≤ _
          rw [List.length_dropLast]; simp only [Config.requestQueueBound] at *; omega
        exact join_agree (noSlotNotice_agree (deferStart_agrees _) h1 rfl) rfl (by simp)
      · exact h

theorem Trunk.freeSlot_some {t : Trunk} {k} (h : t.freeSlot = some k) : k ∈ t.allotment ∧ k ∉ t.held.map HeldSlot.slot := by
  have := List.find?_some h
  simpa [List.mem_map] using this
theorem State.requestPlain_agree {x c} (h : s.Agree {}) : (s.requestPlain x c).1.Agree {} := by
  unfold requestPlain; split
  · exact h
  · split
    · exact h
    · next hb =>
      have hx : s.Free x := free_iff.mpr (by simpa using hb)
      split
      · next k hk =>
        have := Trunk.freeSlot_some hk
        exact give_agree h this.1 this.2 hx (by simp) (by simp)
      · exact toQueue_agree h hx
theorem Trunk.victim_mem {t : Trunk} {c x} (h : t.victim c = some x) : x ∈ t.held := by
  have := List.mem_of_getLast? h
  exact (List.mem_filter.mp (List.mem_filter.mp this).1).1
theorem State.passSlot_agree {x y c} (h : s.Agree {}) (hx : x ∈ s.trunk.held) (hy : s.Free y) : (s.passSlot x y c).Agree {} := by
  have h0 : (s.modTrunk fun t => { t with held := t.held.filter fun z => z.slot != x.slot }).Agree {} :=
    modTrunk_fewer_agree h rfl List.filter_sublist (List.Sublist.refl _)
  have h1 : (s.modTrunk fun t => { t with held := t.held.filter fun z => z.slot != x.slot }).Agree
      { slots := [x.slot], holders := [y] } := by
    refine ⟨h0.occupancy, h0.presence, h0.trunk, h0.claims, h0.calls, ?_, ?_, h0.room, h0.emptied⟩
    · intro a ha hm; rw [List.mem_singleton] at ha; subst ha
      exact hy ((List.Sublist.append (List.Sublist.map _ List.filter_sublist) (List.Sublist.refl _)).subset hm)
    · intro z hz hm; rw [List.mem_singleton] at hm
      have := (List.mem_filter.mp hz).2
      simp [hm] at this
  have h2 := preemptedNotice_agree (x := x.holder) h1 rfl
  have ha : ((s.modTrunk fun t => { t with held := t.held.filter fun z => z.slot != x.slot }).preemptedNotice
      x.holder).trunk.allotment = s.trunk.allotment := by
    have := State.preemptedNotice_standing (s.modTrunk fun t => { t with held := t.held.filter fun z => z.slot != x.slot })
      (h := x.holder)
    exact congrArg (fun z => z.configuration.allotment) this
  have h3 : State.Agree {} _ := ⟨h2.occupancy, h2.presence, h2.trunk, h2.claims, h2.calls, by simp, by simp, h2.trunk.room,
    h2.emptied⟩
  refine give_agree (g := {}) h3 ?_ ?_ (h2.apart y (by simp)) (by simp) (by simp)
  · rw [ha]; exact h.trunk.allotted x hx
  · intro e
    obtain ⟨z, hz, e⟩ := List.mem_map.mp e
    exact h2.spare z hz (by simp [e])
theorem State.requestSlot_agree {x c} (h : s.Agree {}) : (s.requestSlot x c).1.Agree {} := by
  unfold requestSlot; split
  · next hc =>
    split
    · next hv => exact passSlot_agree h (Trunk.victim_mem hv) (free_iff.mpr ⟨hc.2.1, hc.2.2.1⟩)
    · exact requestPlain_agree h
  · exact requestPlain_agree h
theorem State.tgTake_agree (hst : st.Agrees g) {v a} (h : s.Agree g) : (s.tgTake st v a).Agree g := by
  unfold tgTake; split
  · exact tgGranted_agree h
  · exact tgStop_agree hst h
  · exact tgStop_agree hst h
  · exact h
  · exact h
@[simp] theorem State.markWaiting_agree {i} (h : s.Agree g) : (s.markWaiting i).Agree g := modCall_agree h fun _ => rfl
theorem State.csTakeHeld_agree {i a} (h : s.Agree g) (hg : g.call = none) :
    (s.csTakeHeld i a).Agree g := by
  cases a with
  | granted k => exact csGranted_agree h
  | queued => exact markWaiting_agree h
  | noSlot => exact csEnd_agree h hg
  | noTrunk => exact csEnd_agree h hg
  | busy => exact h
theorem State.requestAgain_agree (hst : st.Agrees {}) {x} (h : s.Agree {}) : (s.requestAgain st x).Agree {} := by
  unfold requestAgain; split
  · split
    · split
      · exact csTakeHeld_agree (g := {}) (requestPlain_agree h) rfl
      · exact h
    · exact h
  · split
    · exact tgTake_agree hst (requestPlain_agree h)
    · exact h
  · exact h
@[simp] theorem State.reportTrunk_agree {a b c d} (h : s.Agree g) : (s.reportTrunk a b c d).Agree g := report_agree h
theorem State.revoke_agree (hst : st.Agrees g) {x} (h : s.Agree g) (hg : g.call = none) :
    (s.revoke st x).Agree g := by
  unfold revoke; split
  · exact trunkLostNotice_agree hst (modTrunk_fewer_agree h rfl List.filter_sublist (List.Sublist.refl _)) hg
  · exact h
theorem State.removeRequest_agree (hst : st.Agrees g) {w} (h : s.Agree g) (hg : g.call = none) :
    (s.removeRequest st w).Agree g := by
  unfold removeRequest; split
  · exact noTrunkNotice_agree hst (withdraw_agree h) hg
  · exact h
theorem State.trunkDown_agree (hst : st.Agrees g) (h : s.Agree g) (hg : g.call = none) :
    (s.trunkDown st).Agree g := by
  unfold trunkDown; dsimp only
  refine modTrunk_fewer_agree (reportTrunk_agree (forEach_agree (forEach_agree (modTrunk_counts_agree h rfl rfl rfl) fun _ _ ht =>
    revoke_agree hst ht hg) fun _ _ ht => removeRequest_agree hst ht hg)) rfl (List.nil_sublist _) (List.nil_sublist _)
theorem State.goodMark_agree (hst : st.Agrees g) (h : s.Agree g) : (s.goodMark st).Agree g := by
  unfold goodMark; split
  · exact modTrunk_counts_agree (turnCycle_agree hst h) rfl rfl rfl
  · split
    · exact modTrunk_counts_agree h rfl rfl rfl
    · exact reportTrunk_agree (modTrunk_counts_agree h rfl rfl rfl)
theorem State.missedMark_agree (hst : st.Agrees g) (h : s.Agree g) (hg : g.call = none) :
    (s.missedMark st).Agree g := by
  unfold missedMark; split
  · split
    · exact modTrunk_counts_agree (turnCycle_agree hst h) rfl rfl rfl
    · exact trunkDown_agree hst h hg
  · split <;> exact modTrunk_counts_agree h rfl rfl rfl

/-- A grant from the queue takes no slot but the one that is free. -/
theorem State.grantHead_slots {k q} : ∀ y ∈ (s.grantHead k q).trunk.held, y ∈ s.trunk.held ∨ y.slot = k := by
  induction q with
  | nil => intro y hy; exact .inl hy
  | cons w q ih =>
    unfold grantHead; split
    · intro y hy
      rw [granted_trunk] at hy
      rcases List.mem_append.mp hy with hy | hy
      · exact .inl hy
      · rw [List.mem_singleton] at hy; subst hy; exact .inr rfl
    · exact ih
theorem State.slotFreed_slots {k} : ∀ y ∈ (s.slotFreed k).trunk.held, y ∈ s.trunk.held ∨ y.slot = k := by
  unfold slotFreed; split
  · exact grantHead_slots
  · intro y hy; exact .inl hy

/-- Slots that join an allotment are granted one after another (R104). -/
theorem State.slotsFreed_agree {l : List SlotNo} (h : s.Agree {}) (hl : l.Nodup) (hf : ∀ k ∈ l,
    k ∉ s.trunk.held.map HeldSlot.slot) :
    (s.forEach l State.slotFreed).Agree {} := by
  unfold forEach
  induction l generalizing s with
  | nil => exact h
  | cons a l ih =>
    have hn := List.nodup_cons.mp hl
    refine ih (slotFreed_agree h (hf a List.mem_cons_self) (by simp)) hn.2 fun k hk e => ?_
    obtain ⟨y, hy, rfl⟩ := List.mem_map.mp e
    rcases slotFreed_slots y hy with hy | hy
    · exact hf _ (List.mem_cons_of_mem _ hk) (List.mem_map_of_mem hy)
    · exact hn.1 (hy ▸ hk)

/-- A SET_TRUNK that keeps every held slot (R104). -/
theorem State.setAllotment_agree {l} (h : s.Agree {}) (hl : ∀ y ∈ s.trunk.held, y.slot ∈ l) : (s.setAllotment l).Agree {} := by
  unfold setAllotment; dsimp only
  refine slotsFreed_agree ?_ (((List.nodup_finRange 24).filter _).filter _) fun k hk e => ?_
  · refine { h with trunk := ⟨h.trunk.slots, fun y hy => ?_, h.trunk.holders, h.trunk.room, h.trunk.ranked⟩ }
    exact List.mem_filter.mpr ⟨List.mem_finRange _, by simpa using hl y hy⟩
  · obtain ⟨y, hy, rfl⟩ := List.mem_map.mp e
    have := (List.mem_filter.mp hk).2
    simp [h.trunk.allotted y hy] at this
theorem State.tgStart_agree (hst : st.Agrees {}) {v o f} (h : s.Agree {}) : (s.tgStart st v o f).Agree {} := by
  unfold tgStart; dsimp only
  refine tgSettle_agree hst (fetchNext_agree ?_)
  split
  · exact tgTake_agree hst (requestSlot_agree (setBurst_agree h))
  · exact modBurst_agree (setBurst_agree h)
theorem State.tgPeriod_agree (hst : st.Agrees {}) {v} (h : s.Agree {}) : (s.tgPeriod st v).Agree {} := by
  have h1 : (s.modVehicle v fun x => { x with periodAt := some (s.now + 10 * x.period) }).Agree {} := modVehicle_agree h rfl rfl
  unfold tgPeriod; dsimp only; split
  · exact tgStop_agree hst (withdraw_agree h1)
  · split
    · exact h1
    · split
      · exact tgStart_agree hst h1
      · exact h1

end arbiter

end Sys2Proof.Machine
end

