-- ==== Sys2Proof/Laws/AgreementProgram.lean ====
section
/-! SUPPORT. Programs keep the tables in agreement. -/

namespace Sys2Proof.Machine

/-! ## Alarm programs -/

section programs
variable {g : Guard} {s : State}

@[simp] theorem State.reportProgramStart_agree {r q u} (h : s.Agree g) : (s.reportProgramStart r q u).Agree g := report_agree h
@[simp] theorem State.reportProgramEnd_agree {r x} (h : s.Agree g) : (s.reportProgramEnd r x).Agree g := report_agree h
@[simp] theorem State.reportProgramMark_agree {r p z c} (h : s.Agree g) : (s.reportProgramMark r p z c).Agree g := report_agree h
@[simp] theorem State.reportMerged_agree {q r} (h : s.Agree g) : (s.reportMerged q r).Agree g := report_agree h
@[simp] theorem State.reportDropped_agree {q r} (h : s.Agree g) : (s.reportDropped q r).Agree g := report_agree h

@[simp] theorem State.endRun_agree {r x n i} (h : s.Agree g) : (s.endRun r x n i).Agree g := by
  unfold endRun; dsimp only; split
  · exact reportProgramEnd_agree (modRunner_agree (giveUp_agree (forEach_agree (leaveDrivers_agree h) fun _ _ =>
      leaveStrobe_agree)))
  · exact h
@[simp] theorem State.cutShort_agree {r x} (h : s.Agree g) : (s.cutShort r x).Agree g := endRun_agree h
@[simp] theorem State.beginRun_agree {r q} (h : s.Agree g) : (s.beginRun r q).1.Agree g :=
  reportProgramStart_agree (withNextStart_agree (modRunner_agree h))
@[simp] theorem State.takeHead_agree {r} (h : s.Agree g) : (s.takeHead r).1.Agree g := by
  unfold takeHead; split
  · exact h
  · dsimp only; split
    · exact beginRun_agree (withQueue_agree h)
    · exact reportDropped_agree (withQueue_agree h)
@[simp] theorem State.startCount_agree {r st} (h : s.Agree g) : (s.startCount r st).Agree g := modRunner_agree h
@[simp] theorem State.apuTakeSlot_agree {r a} (h : s.Agree g) : (s.apuTakeSlot r a).Agree g := by
  unfold apuTakeSlot; split
  · exact modRunner_agree h
  · exact playStart_agree h
@[simp] theorem State.announce_agree {r} (h : s.Agree {}) : (s.announce r).Agree {} := by
  unfold announce; split
  · exact requestAgain_agree (deferStart_agrees _) (apuTakeSlot_agree (requestSlot_agree h))
  · exact playStart_agree h
@[simp] theorem State.pageZone_agree {z} (h : s.Agree g) : (s.pageZone z).Agree g :=
  forEach_agree h fun _ _ ht => modTag_agree ht fun _ => rfl
theorem State.act_agree {r p o u st} (h : s.Agree {}) : (s.act r p o u st).1.Agree {} := by
  unfold act; dsimp only; split
  · cases index? 8 st.item with
    | none => exact startCount_agree h
    | some n => exact startCount_agree (changeDrivers_agree h)
  · cases index? 4 st.item with
    | none => exact startCount_agree h
    | some n => exact startCount_agree (joinStrobe_agree h)
  · exact announce_agree h
  · exact startCount_agree h
  · exact pageZone_agree h
  · dsimp only; split
    · exact orderEvac_agree h
    · exact h
  · exact h
  · exact h
  · exact reportProgramMark_agree h
theorem State.goOn_agree {r i st c} (h : s.Agree g) : (s.goOn r i st c).1.Agree g := by
  unfold goOn; dsimp only; split
  · exact endRun_agree h
  · split
    · exact h
    · exact endRun_agree h
theorem State.suppress_agree {r i x f} (h : s.Agree g) : (s.suppress r i x f).1.Agree g := endRun_agree (modRunner_agree h)
theorem State.takeStep_agree {r i st p o} (h : s.Agree {}) : (s.takeStep r i st p o).1.Agree {} := by
  have h1 := act_agree (r := r) (p := p) (o := o) (u := (s.runners.get r).urgency.getD 0) (st := st)
    (modRunner_agree (r := r) (f := fun x => x.took i st (s.dataFails o st)) h)
  unfold takeStep; dsimp only; split
  · exact h1
  · exact goOn_agree h1
theorem State.atStep_agree {r i f} (h : s.Agree {}) : (s.atStep r i f).1.Agree {} := by
  unfold atStep; dsimp only; split
  · split
    · exact suppress_agree h
    · split
      · exact suppress_agree h
      · exact takeStep_agree h
  · exact suppress_agree h
theorem State.workOnce_agree {r w} (h : s.Agree {}) : (s.workOnce r w).1.Agree {} := by
  unfold workOnce; split
  · exact atStep_agree h
  · exact takeHead_agree h
  · exact h
theorem State.work_agree {r n w} (h : s.Agree {}) : (s.work r n w).Agree {} := by
  induction n generalizing s w with
  | zero => exact h
  | succ n ih =>
    cases w with
    | rest => exact h
    | head => exact ih (workOnce_agree (w := .head) h)
    | step i f => exact ih (workOnce_agree (w := .step i f) h)
theorem State.run_agree {r w} (h : s.Agree {}) : (s.run r w).Agree {} := work_agree h
@[simp] theorem State.queueStart_agree {q} (h : s.Agree g) : (s.queueStart q).1.Agree g := by
  unfold queueStart; dsimp only; split
  · exact withQueue_agree h
  · split
    · exact reportDropped_agree h
    · split
      · exact withQueue_agree (reportDropped_agree h)
      · exact reportDropped_agree h
theorem State.startOn_agree {r q} (h : s.Agree {}) : (s.startOn r q).Agree {} := run_agree (beginRun_agree h)
theorem State.placeRequest_agree {q} (h : s.Agree {}) : (s.placeRequest q).1.Agree {} := by
  unfold placeRequest; split
  · exact startOn_agree h
  · split
    · exact startOn_agree (cutShort_agree h)
    · exact queueStart_agree h
theorem State.apuTake_agree {q} (h : s.Agree {}) : (s.apuTake q).1.Agree {} := by
  unfold apuTake; split
  · exact reportDropped_agree h
  · split
    · exact reportDropped_agree h
    · split
      · exact reportMerged_agree h
      · split
        · exact reportMerged_agree h
        · exact placeRequest_agree h
theorem State.drain_agree {n} (h : s.Agree {}) : (State.drain n s).Agree {} := by
  induction n generalizing s with
  | zero => exact h
  | succ n ih =>
    unfold drain; split
    · exact h
    · exact ih (apuTake_agree (withHandOffs_agree h))
theorem State.settle_agree (h : s.Agree {}) : s.settle.Agree {} := drain_agree h

/-- The start of a program by a binding keeps the tables in agreement. -/
theorem sendStart_agrees : sendStart.Agrees {} := fun _ _ h => State.settle_agree (State.withHandOffs_agree h)

@[simp] theorem State.endAction_agree {r st} (h : s.Agree g) : (s.endAction r st).Agree g := by
  unfold endAction; split
  · cases index? 8 st.item with
    | none => exact h
    | some n => exact changeDrivers_agree h
  · cases index? 4 st.item with
    | none => exact h
    | some n => exact leaveStrobe_agree h
  · exact releaseSlot_agree h
  · exact h
theorem State.countEnds_agree {r} (h : s.Agree {}) : (s.countEnds r).Agree {} := by
  unfold countEnds; split
  · exact h
  · split
    · exact h
    · exact settle_agree (run_agree (goOn_agree (endAction_agree (modRunner_agree h))))
theorem State.slotCheck_agree {r} (h : s.Agree {}) : (s.slotCheck r).Agree {} :=
  settle_agree (run_agree (cutShort_agree (modRunner_agree h)))
theorem State.cancelRun_agree {r} (h : s.Agree {}) : (s.cancelRun r).Agree {} := settle_agree (run_agree (cutShort_agree h))
@[simp] theorem State.cancelQueued_agree {p z} (h : s.Agree g) : (s.cancelQueued p z).Agree g := by
  unfold cancelQueued; split
  · exact h
  · exact reportDropped_agree (withQueue_agree h)
@[simp] theorem State.apuLoading_agree (h : s.Agree g) : s.apuLoading.Agree g := by
  unfold apuLoading; dsimp only
  refine forEach_agree (withQueue_agree (forEach_agree h fun _ _ => reportDropped_agree)) fun t r ht => ?_
  split
  · exact cutShort_agree ht
  · exact ht

end programs

end Sys2Proof.Machine
end

