-- ==== Sys2Proof/Laws/AgreementCalls.lean ====
section
/-! SUPPORT. Calls, what tags carry of them and voice channels keep in agreement. -/

namespace Sys2Proof.Machine

/-! ## Calls, the ids that tags carry, and channels (R82, R83) -/

/-- The call that a tag's record carries. -/
def State.carried (s : State) (r : Roster) : Option Nat := (s.tags.get r).bind Tag.call

section table
variable {g : Guard} {s : State}

theorem CallsBut.callOf {x : Option Nat} {c : Call} (h : CallsBut x s.calls s.tags s.voice s.devices) (hc : c ∈ s.calls) :
    s.callOf c.id = some c := by
  cases hd : s.callOf c.id with
  | none => simpa using List.find?_eq_none.mp hd c hc
  | some d => rw [h.unique (State.callOf_some hd).1 hc (State.callOf_some hd).2]

/-- A call with its parties and its channels in place is one of the table's. -/
theorem State.Agree.close {i : Nat} {c : Call} (h : s.Agree { g with call := some i }) (hc : c ∈ s.calls)
    (hi : c.id = i) (hp : ∀ r, s.carried r = some i ↔ c.a = .tag r ∨ c.b = .tag r)
    (hv : ∀ v, s.channel v = some i ↔ c.chanA = some v ∨ c.chanB = some v) : s.Agree g := by
  have key : ∀ d ∈ s.calls, d.id = i → d = c := fun d hd e => h.calls.unique hd hc (e.trans hi.symm)
  refine { h with calls := { h.calls with parties := fun r j _ => ?_, channels := fun v j _ => ?_ } }
  · by_cases hj : j = i
    · subst hj
      refine (hp r).trans ⟨fun e => ⟨c, hc, hi, e⟩, ?_⟩
      rintro ⟨d, hd, e, hx⟩; rwa [key d hd e] at hx
    · exact h.calls.parties r j (by simpa using Ne.symm hj)
  · by_cases hj : j = i
    · subst hj
      refine (hv v).trans ⟨fun e => ⟨c, hc, hi, e⟩, ?_⟩
      rintro ⟨d, hd, e, hx⟩; rwa [key d hd e] at hx
    · exact h.calls.channels v j (by simpa using Ne.symm hj)

/-- The record of the call under way is written. -/
theorem State.modCall_rewire {i : Nat} {f : Call → Call} (h : s.Agree g) (hg : g.call = some i)
    (hf : ∀ c, (f c).id = c.id) (ha : ∀ c ∈ s.calls, c.id = i → ∀ v, (f c).chanA = some v → (f c).chanB ≠ some v) :
    (s.modCall i f).Agree g := by
  have hid : (s.modCall i f).calls.map Call.id = s.calls.map Call.id := by
    simp only [modCall, List.map_map]; congr 1; funext c; simp only [Function.comp]; split
    · exact hf c
    · rfl
  have key {P : Call → Prop} {j : Nat} (hj : g.call ≠ some j) :
      (∃ c ∈ s.calls, c.id = j ∧ P c) ↔ ∃ c ∈ (s.modCall i f).calls, c.id = j ∧ P c := by
    have hij : j ≠ i := fun e => hj (e ▸ hg)
    constructor
    · rintro ⟨c, hc, e, hx⟩
      refine ⟨c, List.mem_map.mpr ⟨c, hc, if_neg fun e' => hij (e ▸ e')⟩, e, hx⟩
    · rintro ⟨c, hc, e, hx⟩
      obtain ⟨d, hd, rfl⟩ := List.mem_map.mp hc
      split at e
      · next h' => rw [hf] at e; exact absurd (e.symm.trans h') hij
      · next h' => rw [if_neg h'] at hx; exact ⟨d, hd, e, hx⟩
  refine { h with calls := ⟨?_, fun c hc => ?_, hid ▸ h.calls.once, fun r j hj => (h.calls.parties r j hj).trans (key hj),
    fun v j hj => (h.calls.channels v j hj).trans (key hj), fun c hc => ?_, h.calls.points⟩ }
  · show ((s.modCall i f).calls).length ≤ _
    rw [← List.length_map Call.id, hid, List.length_map]; exact h.calls.room
  · have : c.id ∈ s.calls.map Call.id := hid ▸ List.mem_map_of_mem hc
    obtain ⟨d, hd, e⟩ := List.mem_map.mp this
    rw [← e]; exact h.calls.ids d hd
  · obtain ⟨d, hd, rfl⟩ := List.mem_map.mp hc
    split
    · next e => exact ha d hd e
    · exact h.calls.apart d hd

/-- A FREE channel of a CONFIGURED call point goes to the call under way. -/
theorem State.setVoice_agree {i : Nat} {v : VoiceRef} (h : s.Agree g) (hg : g.call = some i) (hv : s.channel v = none)
    (hd : (s.devices.get v.entry).configured = true ∧ (s.devices.get v.entry).kind = .callPoint) :
    (s.setVoice v (some i)).Agree g := by
  refine { h with calls := { h.calls with channels := fun w j hj => ?_, points := fun w j hw => ?_ } }
  · refine Iff.trans ?_ (h.calls.channels w j hj)
    show (s.setVoice v (some i)).channel w = some j ↔ s.channel w = some j
    rw [setVoice_channel]; split
    · next e =>
      subst e; rw [hv]
      exact ⟨fun e => absurd (hg.trans e) hj, fun e => by cases e⟩
    · rfl
  · have hw' : (s.setVoice v (some i)).channel w = some j := hw
    rw [setVoice_channel] at hw'; split at hw'
    · next e => exact e ▸ hd
    · exact h.calls.points w j hw'

theorem State.deviceOfKind_some {k r e} (h : s.deviceOfKind k r = some e) :
    (s.devices.get e).configured = true ∧ (s.devices.get e).kind = k := by
  rw [deviceOfKind, Option.filter_eq_some_iff] at h
  have := List.find?_some h.1
  simp only [Bool.and_eq_true] at this
  exact ⟨this.1, by simpa using h.2⟩
theorem State.curEntry_some {r e} (h : s.curEntry r = some e) :
    (s.devices.get e).configured = true ∧ (s.devices.get e).kind = .callPoint := by
  obtain ⟨x, -, hx⟩ := Option.bind_eq_some_iff.mp h
  exact deviceOfKind_some hx
theorem State.freeChannel_some {e k} (h : s.freeChannel e = some k) : s.channel ⟨e, k⟩ = none := by
  show (s.voice.get e).get k = none
  simpa using List.find?_some h

/-- What the end of a call leaves of the call table, of the channels and of what tags carry. -/
theorem State.csEndFrom_rest {i p k} :
    (s.csEndFrom i p k).calls.map Call.core = (s.calls.filter fun c => c.id != i).map Call.core ∧
    (∀ v j, (s.csEndFrom i p k).channel v = some j → s.channel v = some j) ∧
    (∀ r j, (s.csEndFrom i p k).carried r = some j → s.carried r = some j) ∧
    ∀ r, ((s.csEndFrom i p k).tags.get r).isSome = (s.tags.get r).isSome := by
  cases hc : s.callOf i with
  | none =>
    have : s.csEndFrom i p k = s := by unfold csEndFrom; rw [hc]
    rw [this]
    refine ⟨?_, fun _ _ e => e, fun _ _ e => e, fun _ => rfl⟩
    rw [List.filter_eq_self.mpr]
    intro c h; simpa using List.find?_eq_none.mp hc c h
  | some c =>
    unfold csEndFrom; rw [hc]; dsimp only
    generalize hs1 : (s.freeVoice c.chanA).freeVoice c.chanB = s1
    have h1 : s1.calls = s.calls ∧ s1.tags = s.tags ∧ ∀ v j, s1.channel v = some j → s.channel v = some j := by
      subst hs1
      refine ⟨freeVoice_rest.1.trans freeVoice_rest.1, freeVoice_rest.2.1.trans freeVoice_rest.2.1, fun v j e => ?_⟩
      rw [freeVoice_channel, freeVoice_channel] at e
      split at e
      · cases e
      · split at e
        · cases e
        · exact e
    have h2 := giveUp_view (s := s1) (x := .call i)
    simp only [callView, Prod.mk.injEq] at h2
    generalize s1.giveUp (.call i) = s2 at h2
    have h3 (x : State) (q : Party) : (x.clearCall i q).calls = x.calls ∧ (x.clearCall i q).voice = x.voice ∧
        (∀ r j, (x.clearCall i q).carried r = some j → x.carried r = some j) ∧
        ∀ r, ((x.clearCall i q).tags.get r).isSome = (x.tags.get r).isSome := by
      refine ⟨by unfold clearCall; split <;> rfl, by unfold clearCall; split <;> rfl, fun r j e => ?_, fun r => ?_⟩
      · unfold carried at e; rw [clearCall_carried] at e; split at e
        · cases e
        · exact e
      · unfold clearCall; split
        · simp only [modTag, get_set_entry]; split
          · next e => subst e; simp
          · rfl
        · rfl
    obtain ⟨a1, a2, a3, a4⟩ := h3 s2 c.a
    obtain ⟨b1, b2, b3, b4⟩ := h3 (s2.clearCall i c.a) c.b
    generalize (s2.clearCall i c.a).clearCall i c.b = s3 at b1 b2 b3 b4
    refine ⟨?_, fun v j e => h1.2.2 v j ?_, fun r j e => ?_, fun r => ?_⟩
    · show (s3.calls.filter fun d => d.id != i).map Call.core = _
      have hm (l : List Call) : (l.filter fun d => d.id != i).map Call.core = (l.map Call.core).filter fun x => x.1 != i := by
        rw [List.filter_map]; rfl
      rw [hm, hm, b1, a1, h2.1, h1.1]
    · have e' : (s3.voice.get v.entry).get v.chan = some j := e
      rw [b2, a2, h2.2.2] at e'; exact e'
    · have := a3 r j (b3 r j e)
      rwa [carried, h2.2.1, h1.2.1] at this
    · exact ((b4 r).trans (a4 r)).trans (by rw [h2.2.1, h1.2.1])
theorem State.csEndFrom_ids {i p k} {j : Nat} :
    (∃ c ∈ (s.csEndFrom i p k).calls, c.id = j) ↔ j ≠ i ∧ ∃ c ∈ s.calls, c.id = j := by
  have h := congrArg (List.map Prod.fst) (csEndFrom_rest (s := s) (i := i) (p := p) (k := k)).1
  simp only [List.map_map] at h
  have hm : ∀ l : List Call, l.map (Prod.fst ∘ Call.core) = l.map Call.id := fun _ => rfl
  rw [hm, hm] at h
  have : j ∈ (s.csEndFrom i p k).calls.map Call.id ↔ j ∈ (s.calls.filter fun c => c.id != i).map Call.id := by rw [h]
  simp only [List.mem_map, List.mem_filter, bne_iff_ne] at this
  rw [this]
  constructor
  · rintro ⟨c, ⟨hc, hi⟩, rfl⟩; exact ⟨hi, c, hc, rfl⟩
  · rintro ⟨hi, c, hc, rfl⟩; exact ⟨c, ⟨hc, hi⟩, rfl⟩

end table

/-! ## Call Switch -/

section calls
variable {g : Guard} {s : State}

/-- A party takes its channel (R89). -/
theorem State.takeFor_agree {i p x} (hx : s.takeFor i p = some x) (h : s.Agree g) (hg : g.call = some i) :
    x.1.Agree g ∧ x.1.calls = s.calls ∧ x.1.tags = s.tags ∧
    (∀ v, x.1.channel v = if x.2 = some v then some i else s.channel v) ∧ ∀ v, x.2 = some v → s.channel v = none := by
  unfold takeFor at hx; split at hx
  · simp only [Option.bind_eq_bind, Option.bind_eq_some_iff, Option.pure_def, Option.some.injEq] at hx
    obtain ⟨e, he, k, hk, rfl⟩ := hx
    refine ⟨setVoice_agree h hg (freeChannel_some hk) (curEntry_some he), rfl, rfl, fun v => ?_, fun v hv => ?_⟩
    · rw [setVoice_channel]; simp only [Option.some.injEq]
    · cases hv; exact freeChannel_some hk
  · cases hx; exact ⟨h, rfl, rfl, fun v => by simp, fun v hv => by cases hv⟩

/-- Both parties of a call without channels take theirs, or none is taken. -/
theorem State.takeBoth_agree {i a b t} (ht : s.takeBoth i a b = some t) (h : s.Agree g) (hg : g.call = none)
    (hc : ∃ c ∈ s.calls, c.id = i) (hn : ∀ v, s.channel v ≠ some i) : t.Agree g := by
  obtain ⟨c, hc, hi⟩ := hc
  unfold takeBoth at ht
  simp only [Option.bind_eq_bind, Option.bind_eq_some_iff, Option.pure_def, Option.some.injEq, Prod.exists] at ht
  obtain ⟨s1, va, h1, s2, vb, h2, rfl⟩ := ht
  obtain ⟨a1, a2, a3, a4, a5⟩ := takeFor_agree h1 (h.lift (i := i) hg) rfl
  obtain ⟨b1, b2, b3, b4, b5⟩ := takeFor_agree h2 a1 rfl
  dsimp only at a1 a2 a3 a4 a5 b1 b2 b3 b4 b5
  have hch : ∀ v, s2.channel v = some i ↔ va = some v ∨ vb = some v := fun v => by
    rw [b4, a4]
    split
    · next e => simp [e]
    · next e => split
                · next e' => simp [e']
                · next e' => exact ⟨fun x => absurd x (hn v), fun x => x.elim (fun y => absurd y e') fun y => absurd y e⟩
  refine State.Agree.close (i := i) (c := { c with chanA := va, chanB := vb }) ?_ ?_ hi (fun r => ?_) fun v => ?_
  · refine modCall_rewire b1 rfl (fun _ => rfl) fun d _ _ v hv hv' => ?_
    have := b5 v hv'
    rw [a4, if_pos hv] at this; cases this
  · exact List.mem_map.mpr ⟨c, by rw [b2, a2]; exact hc, if_pos hi⟩
  · show (s2.tags.get r).bind Tag.call = some i ↔ _
    rw [b3, a3, h.calls.parties r i (by simp [hg])]
    constructor
    · rintro ⟨d, hd, e, hx⟩; rwa [h.calls.unique hd hc (e.trans hi.symm)] at hx
    · intro hx; exact ⟨c, hc, hi, hx⟩
  · exact hch v

theorem State.writeCall_carried {i : Nat} {p : Party} {r : Roster} :
    (s.writeCall i p).carried r = if p = .tag r ∧ (s.tags.get r).isSome then some i else s.carried r := by
  unfold writeCall carried; split
  · next q =>
    simp only [modTag, get_set_entry, Party.tag.injEq]
    by_cases hq : q = r
    · subst hq; cases s.tags.get q <;> simp
    · simp [hq]
  · next hp => rw [if_neg fun e => hp _ e.1]
/-- The record of a tag without a call takes the call under way. -/
theorem State.writeCall_agree {i p} (h : s.Agree g) (hg : g.call = some i) (hp : ∀ r, p = .tag r → s.carried r = none) :
    (s.writeCall i p).Agree g := by
  have hc : CallsBut g.call (s.writeCall i p).calls (s.writeCall i p).tags (s.writeCall i p).voice (s.writeCall i p).devices := by
    have hr : (s.writeCall i p).calls = s.calls ∧ (s.writeCall i p).voice = s.voice ∧ (s.writeCall i p).devices = s.devices := by
      unfold writeCall; split <;> exact ⟨rfl, rfl, rfl⟩
    rw [hr.1, hr.2.1, hr.2.2]
    refine { h.calls with parties := fun r j hj => Iff.trans ?_ (h.calls.parties r j hj) }
    show (s.writeCall i p).carried r = some j ↔ s.carried r = some j
    rw [writeCall_carried]; split
    · next e =>
      rw [hp r e.1]
      exact ⟨fun e => absurd (hg.trans e) hj, fun e => by cases e⟩
    · rfl
  unfold writeCall at hc ⊢; split
  · exact { h with occupancy := modTag_occupancy h fun _ => rfl, calls := hc }
  · exact h

/-- A new call has an id of its own (R83). -/
theorem State.newCallId_fresh (h : s.calls.length < Config.callTableBound) :
    (∀ c ∈ s.calls, c.id ≠ s.newCallId) ∧ 1 ≤ s.newCallId ∧ s.newCallId ≤ 255 := by
  unfold newCallId
  generalize hl : (List.range 255).map (fun i => (s.nextCallId - 1 + i) % 255 + 1) = l
  cases hf : l.find? (fun i => s.calls.all fun c => c.id != i) with
  | some i =>
    refine ⟨fun c hc => ?_, ?_⟩
    · have := List.find?_some hf
      simp only [List.all_eq_true, bne_iff_ne] at this
      exact this c hc
    · have := List.mem_of_find?_eq_some hf
      rw [← hl] at this
      obtain ⟨k, -, rfl⟩ := List.mem_map.mp this
      simp only [Option.getD_some]; omega
  | none =>
    exfalso
    have hn : l.Nodup := by
      rw [← hl]
      refine List.Nodup.map_on (fun x hx y hy e => ?_) List.nodup_range
      rw [List.mem_range] at hx hy
      omega
    have hsub : l ⊆ s.calls.map Call.id := by
      intro i hi
      have := List.find?_eq_none.mp hf i hi
      simp only [List.all_eq_true, bne_iff_ne, not_forall, not_not] at this
      obtain ⟨c, hc, e⟩ := this
      exact List.mem_map.mpr ⟨c, hc, e⟩
    have := (hn.subperm hsub).length_le
    rw [← hl] at this
    simp only [List.length_map, List.length_range, Config.callTableBound] at this h
    omega

/-- A new call stands in the table with no channels, and its caller's record carries it (R87). -/
theorem State.newCall_agree {k a b cls} (h : s.Agree g) (hg : g.call = none) (hr : s.calls.length < Config.callTableBound)
    (ha : ∀ r, a = .tag r → (s.tags.get r).isSome = true ∧ s.carried r = none) :
    (s.newCall k a b cls).1.Agree { g with call := some (s.newCall k a b cls).2 } ∧
    (∃ c ∈ (s.newCall k a b cls).1.calls, c.id = (s.newCall k a b cls).2 ∧ c.a = a ∧ c.b = b ∧ c.chanA = none ∧ c.chanB = none) ∧
    (∀ r, (s.newCall k a b cls).1.carried r = some (s.newCall k a b cls).2 ↔ a = .tag r) ∧
    ∀ v, (s.newCall k a b cls).1.channel v ≠ some (s.newCall k a b cls).2 := by
  obtain ⟨f1, f2, f3⟩ := newCallId_fresh hr
  have f4 : ∀ r, s.carried r ≠ some s.newCallId := fun r e => by
    obtain ⟨c, hc, e, -⟩ := (h.calls.parties r _ (by simp [hg])).mp e
    exact f1 c hc e
  have f5 : ∀ v, s.channel v ≠ some s.newCallId := fun v e => by
    obtain ⟨c, hc, e, -⟩ := (h.calls.channels v _ (by simp [hg])).mp e
    exact f1 c hc e
  unfold newCall; dsimp only
  generalize s.newCallId = i at *
  generalize hc : ({ id := i, creation := s.nextCreation, kind := k, a := a, b := b, state := .setup, cls := cls,
                     deadline := some (s.now + Config.setupLimit) } : Call) = c
  have h1 : ({ s with calls := s.calls ++ [c], nextCallId := if i = 255 then 1 else i + 1, nextCreation := s.nextCreation + 1 } :
      State).Agree { g with call := some i } := by
    have hci : c.id = i := by rw [← hc]
    have key {P : Call → Prop} {j : Nat} (hj : some i ≠ some j) :
        (∃ d ∈ s.calls, d.id = j ∧ P d) ↔ ∃ d ∈ s.calls ++ [c], d.id = j ∧ P d := by
      constructor
      · rintro ⟨d, hd, e⟩; exact ⟨d, List.mem_append_left _ hd, e⟩
      · rintro ⟨d, hd, e⟩
        rcases List.mem_append.mp hd with hd | hd
        · exact ⟨d, hd, e⟩
        · rw [List.mem_singleton] at hd; subst hd; exact absurd (congrArg some (hci.symm.trans e.1)) hj
    refine { h with calls := ⟨?_, fun d hd => ?_, ?_, fun r j hj => (h.calls.parties r j (by simp [hg])).trans (key hj),
      fun v j hj => (h.calls.channels v j (by simp [hg])).trans (key hj), fun d hd => ?_, h.calls.points⟩ }
    · simp only [List.length_append, List.length_singleton]; exact hr
    · rcases List.mem_append.mp hd with hd | hd
      · exact h.calls.ids d hd
      · rw [List.mem_singleton] at hd; subst hd; rw [hci]; exact ⟨f2, f3⟩
    · simp only [List.map_append, List.map_cons, List.map_nil]
      refine List.nodup_append'.mpr ⟨h.calls.once, by simp, ?_⟩
      intro x hx hy
      rw [List.mem_singleton] at hy; subst hy
      obtain ⟨d, hd, e⟩ := List.mem_map.mp hx
      exact f1 d hd (e.trans hci)
    · rcases List.mem_append.mp hd with hd | hd
      · exact h.calls.apart d hd
      · rw [List.mem_singleton] at hd; subst hd; rw [← hc]; exact fun v e => by cases e
  refine ⟨writeCall_agree h1 rfl fun r e => (ha r e).2, ⟨c, ?_, ?_⟩, fun r => ?_, fun v => ?_⟩
  · have : (({ s with calls := s.calls ++ [c], nextCallId := if i = 255 then 1 else i + 1, nextCreation := s.nextCreation + 1 } :
        State).writeCall i a).calls = s.calls ++ [c] := by unfold writeCall; split <;> rfl
    rw [this]; exact List.mem_append_right _ (List.mem_singleton_self _)
  · rw [← hc]; exact ⟨rfl, rfl, rfl, rfl, rfl⟩
  · rw [writeCall_carried]
    constructor
    · intro e
      by_cases h' : a = .tag r ∧ (s.tags.get r).isSome = true
      · exact h'.1
      · rw [if_neg h'] at e; exact absurd e (f4 r)
    · intro e; rw [if_pos ⟨e, (ha r e).1⟩]
  · have : (({ s with calls := s.calls ++ [c], nextCallId := if i = 255 then 1 else i + 1, nextCreation := s.nextCreation + 1 } :
        State).writeCall i a).channel v = s.channel v := by unfold writeCall; split <;> rfl
    rw [this]; exact f5 v

@[simp] theorem State.connectNew_agree {i k} (h : s.Agree g) : (s.connectNew i k).Agree g :=
  reportCallNow_agree (modCall_agree h fun c => c.proceed_core s.now)
theorem State.csTakeNew_agree {i a} (h : s.Agree g) (hg : g.call = none) : (s.csTakeNew i a).Agree g := by
  cases a with
  | granted k => exact connectNew_agree h
  | queued => exact reportCallNow_agree (markWaiting_agree h)
  | noSlot => exact csEndFrom_agree h hg
  | noTrunk => exact csEndFrom_agree h hg
  | busy => exact h
theorem State.askSlot_agree {i c} (h : s.Agree {}) : (s.askSlot i c).Agree {} := by
  unfold askSlot; split
  · exact connectNew_agree h
  · exact settle_agree (requestAgain_agree sendStart_agrees (csTakeNew_agree (requestSlot_agree h) rfl))

theorem State.latestOf_mem {k p c} (h : s.latestOf k p = some c) : c ∈ s.calls ∧ p c = true := by
  have key : ∀ (l : List Call) (b : Option Call), l.foldl
      (fun best c => some (best.elim c fun b => if b.creation < c.creation then c else b)) b = some c → c ∈ l ∨ b = some c := by
    intro l
    induction l with
    | nil => intro b e; exact .inr e
    | cons a l ih =>
      intro b e
      rcases ih _ e with e | e
      · exact .inl (List.mem_cons_of_mem _ e)
      · cases b with
        | none => cases e; exact .inl List.mem_cons_self
        | some b =>
          simp only [Option.elim_some, Option.some.injEq] at e
          split at e
          · subst e; exact .inl List.mem_cons_self
          · subst e; exact .inr rfl
  rcases key _ _ h with e | e
  · have := List.mem_filter.mp e
    exact ⟨this.1, (Bool.and_eq_true _ _ ▸ this.2).2⟩
  · cases e

/-- The channels of a new call (R89). -/
theorem State.takeChannels_agree {i k a b t} (ht : s.takeChannels i k a b = some t) (h : s.Agree g) (hg : g.call = none)
    (hc : ∃ c ∈ s.calls, c.id = i) (hn : ∀ v, s.channel v ≠ some i) : t.Agree g := by
  unfold takeChannels at ht; split at ht
  · next h1 => cases ht; exact takeBoth_agree h1 h hg hc hn
  · split at ht
    · obtain ⟨u, h1, h2⟩ := Option.bind_eq_some_iff.mp ht
      unfold evictChannel at h1; split at h1
      · simp only [Option.bind_eq_bind, Option.bind_eq_some_iff, Option.pure_def, Option.some.injEq] at h1
        obtain ⟨e, -, c, hl, rfl⟩ := h1
        obtain ⟨hm, hp⟩ := latestOf_mem hl
        have hci : i ≠ c.id := by
          rintro rfl
          have hx (v : VoiceRef) (hv : c.chanA = some v ∨ c.chanB = some v) : False :=
            hn v ((h.calls.channels v c.id (by simp [hg])).mpr ⟨c, hm, rfl, hv⟩)
          unfold Call.onPoint at hp
          cases ha : c.chanA with
          | some v => exact hx v (.inl ha)
          | none =>
            cases hb : c.chanB with
            | some v => exact hx v (.inr hb)
            | none => simp [ha, hb] at hp
        exact takeBoth_agree h2 (csEnd_agree h hg) hg (csEndFrom_ids.mpr ⟨hci, hc⟩) fun v e => hn v (csEndFrom_rest.2.1 v i e)
      · cases h1
    · cases ht

/-- A call is made for a party without one (R87 to R91). -/
theorem State.makeCall_agree {k a b cls} (h : s.Agree {}) (hr : s.calls.length < Config.callTableBound)
    (ha : ∀ r, a = .tag r → (s.tags.get r).isSome = true ∧ s.carried r = none) : (s.makeCall k a b cls).Agree {} := by
  obtain ⟨h1, ⟨c, hc, hi, h2, h3, h4, h5⟩, h6, h7⟩ := newCall_agree (k := k) (b := b) (cls := cls) h rfl hr ha
  unfold makeCall
  generalize s.newCall k a b cls = x at *
  obtain ⟨s1, i⟩ := x
  dsimp only at *
  have hco : s1.callOf i = some c := hi ▸ h1.calls.callOf hc
  split
  · refine endCall_agree hco h1 rfl (fun v e => absurd e (h7 v)) (fun v e => ?_) fun r e => .inl ?_
    · rw [h4, h5] at e; rcases e with e | e <;> cases e
    · rw [h2]; exact (h6 r).mp e
  · next hf =>
    have hb : ∀ r, b = .tag r → (s1.tags.get r).isSome = true ∧ s1.carried r = none := by
      rintro r rfl
      unfold calleeFault at hf; dsimp only at hf
      split at hf
      · cases hf
      · split at hf
        · cases hf
        · next t ht =>
          split at hf
          · cases hf
          · split at hf
            · cases hf
            · split at hf
              · cases hf
              · next hn => rw [carried, ht]; exact ⟨rfl, by simpa using hn⟩
    have h8 := writeCall_agree (p := b) h1 rfl fun r e => (hb r e).2
    have hcs : (s1.writeCall i b).calls = s1.calls ∧ ∀ v, (s1.writeCall i b).channel v = s1.channel v := by
      unfold writeCall; split <;> exact ⟨rfl, fun _ => rfl⟩
    have h9 : (s1.writeCall i b).Agree {} := by
      refine State.Agree.close (c := c) h8 (hcs.1 ▸ hc) hi (fun r => ?_) fun v => ?_
      · rw [writeCall_carried, h2, h3]
        constructor
        · intro e
          split at e
          · next h' => exact .inr h'.1
          · exact .inl ((h6 r).mp e)
        · rintro (e | e)
          · split
            · rfl
            · exact (h6 r).mpr e
          · rw [if_pos ⟨e, (hb r e).1⟩]
      · rw [hcs.2, h4, h5]
        exact ⟨fun e => absurd e (h7 v), fun e => by rcases e with e | e <;> cases e⟩
    have h10 := modCall_agree (i := i) (f := fun c => { c with
      lostA := (s1.writeCall i b).lostDeadline a, lostB := (s1.writeCall i b).lostDeadline b }) h9 fun _ => rfl
    split
    · exact csEndFrom_agree h10 rfl
    · next ht =>
      refine askSlot_agree (takeChannels_agree ht h10 rfl ⟨_, List.mem_map_of_mem (hcs.1 ▸ hc), ?_⟩ fun v e => ?_)
      · split
        · exact hi
        · exact hi
      · refine h7 v ?_
        rw [← hcs.2]; exact e

@[simp] theorem State.refuseCall_agree {k a b c x} (h : s.Agree g) : (s.refuseCall k a b c x).Agree g := reportCall_agree h

theorem State.callsFull_false (h : s.callsFull = false) : s.calls.length < Config.callTableBound := by
  simpa [callsFull] using h

theorem State.csCallKey_agree {r d} (h : s.Agree {}) (hr : (s.tags.get r).isSome = true) : (s.csCallKey r d).Agree {} := by
  unfold csCallKey; dsimp only; split
  · exact refuseCall_agree h
  · next hc =>
    split
    · exact refuseCall_agree h
    · next hf =>
      refine makeCall_agree h (callsFull_false (by simpa using hf)) fun q e => ?_
      cases e
      refine ⟨hr, ?_⟩
      unfold carried
      cases ht : s.tags.get r with
      | none => rfl
      | some t => rw [ht] at hc; simpa using hc
theorem State.admitEmergency_agree {r} (h : s.Agree {}) (hr : (s.tags.get r).isSome = true) (hc : s.carried r = none) :
    (s.admitEmergency r).Agree {} := by
  unfold admitEmergency; dsimp only; split
  · split
    · next c hl =>
      have hm : c ∈ s.calls := by
        rw [Option.or_eq_some_iff] at hl
        rcases hl with hl | hl
        · exact (latestOf_mem hl).1
        · exact (latestOf_mem hl.2).1
      refine makeCall_agree (csEnd_agree h rfl) ?_ fun q e => ?_
      · have h1 := congrArg List.length (csEndFrom_rest (s := s) (i := c.id) (p := (s.callOf c.id).map Call.state)
          (k := .preempted)).1
        rw [List.length_map, List.length_map] at h1
        show (s.csEndFrom _ _ _).calls.length < _
        rw [h1]
        refine lt_of_lt_of_le ?_ h.calls.room
        exact List.length_filter_lt_length_iff_exists.mpr ⟨c, hm, by simp⟩
      · cases e
        refine ⟨(csEndFrom_rest.2.2.2 r).trans hr, ?_⟩
        cases hx : (s.csEnd c.id .preempted).carried r with
        | none => rfl
        | some j => rw [csEndFrom_rest.2.2.1 r j hx] at hc; cases hc
    · exact refuseCall_agree h
  · next hf =>
    refine makeCall_agree h (callsFull_false (by simpa using hf)) fun q e => ?_
    cases e; exact ⟨hr, hc⟩
theorem State.csEmergencyKey_agree {r} (h : s.Agree {}) (hr : (s.tags.get r).isSome = true) : (s.csEmergencyKey r).Agree {} := by
  unfold csEmergencyKey; split
  · next hn =>
    refine admitEmergency_agree h hr ?_
    cases hx : s.carried r with
    | none => rfl
    | some i =>
      obtain ⟨c, hc, rfl, -⟩ := (h.calls.parties r i (by simp)).mp hx
      have hx' : ((s.tags.get r).bind fun t => t.call) = some c.id := hx
      rw [hx', Option.bind_some, h.calls.callOf hc] at hn; cases hn
  · next c hc =>
    split
    · exact h
    · obtain ⟨i, hi, hc⟩ := Option.bind_eq_some_iff.mp hc
      refine admitEmergency_agree (csEnd_agree h rfl) ((csEndFrom_rest.2.2.2 r).trans hr) ?_
      cases hx : (s.csEnd c.id .superseded).carried r with
      | none => rfl
      | some j =>
        have hj : s.carried r = some j := csEndFrom_rest.2.2.1 r j hx
        have hj' : s.carried r = some i := hi
        rw [hj'] at hj; cases hj
        obtain ⟨d, hd, e, -⟩ := ((csEnd_agree (i := c.id) (c := .superseded) h rfl).calls.parties r i (by simp)).mp hx
        exact absurd (callOf_some hc).2.symm (csEndFrom_ids.mp ⟨d, hd, e⟩).1
@[simp] theorem State.csAnswerKey_agree {r i} (h : s.Agree g) : (s.csAnswerKey r i).1.Agree g := by
  unfold csAnswerKey; split
  · split
    · exact reportCallNow_agree (modCall_agree h fun _ => rfl)
    · exact h
  · exact h
@[simp] theorem State.moveDeadline_agree {i r} (h : s.Agree g) : (s.moveDeadline i r).Agree g :=
  modCall_agree h fun _ => rfl

/-- A channel is handed over (R95). -/
theorem State.handOver_agree {i r} (h : s.Agree g) (hg : g.call = none) : (s.handOver i r).Agree g := by
  unfold handOver; split
  · next c v hc hv =>
    obtain ⟨e, he, hv⟩ := Option.bind_eq_some_iff.mp hv
    obtain ⟨k, hk, rfl⟩ := Option.map_eq_some_iff.mp hv
    have hfree := freeChannel_some hk
    have hm := callOf_some hc
    have hchan : ∀ w, s.channel w = some i ↔ c.chanA = some w ∨ c.chanB = some w := fun w => by
      refine (h.calls.channels w i (by simp [hg])).trans ⟨?_, fun hx => ⟨c, hm.1, hm.2, hx⟩⟩
      rintro ⟨d, hd, e, hx⟩; rwa [h.calls.unique hd hm.1 (e.trans hm.2.symm)] at hx
    have hparty : ∀ q, s.carried q = some i ↔ c.a = .tag q ∨ c.b = .tag q := fun q => by
      refine (h.calls.parties q i (by simp [hg])).trans ⟨?_, fun hx => ⟨c, hm.1, hm.2, hx⟩⟩
      rintro ⟨d, hd, e, hx⟩; rwa [h.calls.unique hd hm.1 (e.trans hm.2.symm)] at hx
    have hapart := h.calls.apart c hm.1
    refine reportCallNow_agree ?_
    generalize ho : (if c.a = .tag r then c.chanA else c.chanB) = o
    have h1 := setVoice_agree (h.lift (i := i) hg) rfl hfree (curEntry_some he)
    have hoc : ∀ w, o = some w → s.channel w = some i := fun w e => by
      rw [hchan]; subst ho; split at e
      · exact .inl e
      · exact .inr e
    have hov : o ≠ some ⟨e, k⟩ := fun e' => by rw [hoc _ e'] at hfree; cases hfree
    have h2 := freeVoice_agree (o := o) h1 fun w e j hj => by
      rw [setVoice_channel] at hj; split at hj
      · exact hj
      · rw [← hj, hoc w e]
    have hx := freeVoice_rest (s := s.setVoice ⟨e, k⟩ (some i)) (o := o)
    have hch : ∀ w, ((s.setVoice ⟨e, k⟩ (some i)).freeVoice o).channel w =
        if o = some w then none else if ⟨e, k⟩ = w then some i else s.channel w := fun w => by
      rw [freeVoice_channel, setVoice_channel]
    generalize (s.setVoice ⟨e, k⟩ (some i)).freeVoice o = s2 at h2 hx hch
    have hvA : c.chanA ≠ some ⟨e, k⟩ := fun e' => by rw [(hchan _).mpr (.inl e')] at hfree; cases hfree
    have hvB : c.chanB ≠ some ⟨e, k⟩ := fun e' => by rw [(hchan _).mpr (.inr e')] at hfree; cases hfree
    have hcall : ∀ d ∈ s2.calls, d.id = i → d = c := fun d hd e' =>
      h.calls.unique (hx.1 ▸ hd) hm.1 (e'.trans hm.2.symm)
    refine State.Agree.close (c := if c.a = .tag r then { c with chanA := some ⟨e, k⟩ } else { c with chanB := some ⟨e, k⟩ })
      (modCall_rewire h2 rfl (fun c => by split <;> rfl) fun d hd e' w ha hb => ?_) ?_ ?_ (fun q => ?_) fun w => ?_
    · cases hcall d hd e'
      split at ha
      · next hr => rw [if_pos hr] at hb; cases ha; exact hvB hb
      · next hr => rw [if_neg hr] at hb; cases hb; exact hvA ha
    · exact List.mem_map.mpr ⟨c, hx.1.symm ▸ hm.1, if_pos hm.2⟩
    · split <;> exact hm.2
    · show (s2.tags.get q).bind Tag.call = some i ↔ _
      rw [hx.2.1]
      refine (hparty q).trans ?_
      split <;> rfl
    · show s2.channel w = some i ↔ _
      rw [hch]
      by_cases hr : c.a = .tag r
      · simp only [if_pos hr] at ho ⊢
        subst ho
        by_cases hw : c.chanA = some w
        · rw [if_pos hw]
          refine ⟨fun e => by (cases e), fun e' => ?_⟩
          rcases e' with e' | e'
          · cases e'; exact absurd hw hvA
          · exact absurd e' (hapart w hw)
        · rw [if_neg hw]
          by_cases hv : (⟨e, k⟩ : VoiceRef) = w
          · simp [hv]
          · rw [if_neg hv, hchan]; simp [hw, hv]
      · simp only [if_neg hr] at ho ⊢
        subst ho
        by_cases hw : c.chanB = some w
        · rw [if_pos hw]
          refine ⟨fun e => by (cases e), fun e' => ?_⟩
          rcases e' with e' | e'
          · exact absurd hw (hapart w e')
          · cases e'; exact absurd hw hvB
        · rw [if_neg hw]
          by_cases hv : (⟨e, k⟩ : VoiceRef) = w
          · simp [hv]
          · rw [if_neg hv, hchan]; simp [hw, hv]
  · exact h
theorem State.csHeard_agree {r i a b} (h : s.Agree g) (hg : g.call = none) : (s.csHeard r i a b).Agree g := by
  unfold csHeard; dsimp only; split
  · exact csEnd_agree (moveDeadline_agree h) hg
  · split
    · exact handOver_agree (moveDeadline_agree h) hg
    · exact moveDeadline_agree h

/-- The ends of several calls. -/
theorem State.forEach_csEnd {l : List Nat} {k} (h : s.Agree g) (hg : g.call = none) :
    (s.forEach l fun t i => t.csEnd i k).Agree g ∧
    (∀ v j, (s.forEach l fun t i => t.csEnd i k).channel v = some j → s.channel v = some j ∧ j ∉ l) := by
  unfold forEach
  induction l generalizing s with
  | nil => exact ⟨h, fun v j e => ⟨e, by simp⟩⟩
  | cons i l ih =>
    have h1 := csEnd_agree (i := i) (c := k) h hg
    obtain ⟨h2, h3⟩ := ih h1
    refine ⟨h2, fun v j e => ?_⟩
    obtain ⟨h4, h5⟩ := h3 v j e
    refine ⟨csEndFrom_rest.2.1 v j h4, ?_⟩
    rw [List.mem_cons, not_or]
    refine ⟨fun e' => ?_, h5⟩
    obtain ⟨c, hc, e, -⟩ := (h1.calls.channels v j (by simp [hg])).mp h4
    exact (csEndFrom_ids.mp ⟨c, hc, e⟩).1 e'

/-- The channels of a call point on which none is held. -/
theorem State.emptyPoint_agree {e : EntryNo} (h : s.Agree g) (hf : ∀ w : VoiceRef, w.entry = e → s.channel w = none) :
    ({ s with voice := s.voice.set e (Vector.replicate 4 none) } : State).Agree g ∧
    ∀ w, ({ s with voice := s.voice.set e (Vector.replicate 4 none) } : State).channel w = s.channel w := by
  have h6 : ∀ w : VoiceRef, ((s.voice.set e (Vector.replicate 4 none)).get w.entry).get w.chan = s.channel w := by
    intro w
    rw [get_set_entry]; split
    · next he => rw [hf w he.symm]; simp [Vector.get]
    · rfl
  refine ⟨{ h with calls := { h.calls with channels := fun w i hi => ?_, points := fun w i hw => ?_ } }, h6⟩
  · refine Iff.trans ?_ (h.calls.channels w i hi)
    rw [h6]; rfl
  · rw [h6] at hw; exact h.calls.points w i hw

/-- No call holds a channel of a call point that is removed or changed (R98). -/
theorem State.csPointRemoved_agree {e} (h : s.Agree g) (hg : g.call = none) :
    (s.csPointRemoved e).Agree g ∧ ∀ w : VoiceRef, w.entry = e → (s.csPointRemoved e).channel w = none := by
  obtain ⟨h1, h2⟩ := forEach_csEnd (l := s.callIdsOn e) (k := .partyLost) h hg
  have h3 : ∀ w : VoiceRef, w.entry = e → (s.forEach (s.callIdsOn e) fun t i => t.csEnd i .partyLost).channel w = none := by
    intro w hw
    cases hx : (s.forEach (s.callIdsOn e) fun t i => t.csEnd i .partyLost).channel w with
    | none => rfl
    | some j =>
      obtain ⟨h4, h5⟩ := h2 w j hx
      obtain ⟨c, hc, hj, hv⟩ := (h.calls.channels w j (by simp [hg])).mp h4
      refine absurd ?_ h5
      refine List.mem_filter.mpr ⟨List.mem_range.mpr ?_, List.any_eq_true.mpr ⟨c, hc, ?_⟩⟩
      · have := h.calls.ids c hc; omega
      · rcases hv with hv | hv <;> simp [hj, Call.onPoint, hv, hw]
  obtain ⟨h4, h5⟩ := emptyPoint_agree h1 h3
  exact ⟨h4, fun w hw => (h5 w).trans (h3 w hw)⟩

end calls

end Sys2Proof.Machine
end

