-- ==== Sys2Proof/Laws/AgreementTags.lean ====
section
/-! SUPPORT. Tags and the occupancy lists keep in agreement. -/

namespace Sys2Proof.Machine

/-! ## Tag Tracker -/

section tags
variable {g : Guard} {s : State}

@[simp] theorem State.reportTagMove_agree {r b x z p c} (h : s.Agree g) : (s.reportTagMove r b x z p c).Agree g := report_agree h
@[simp] theorem State.reportTagMissing_agree {r b f z p} (h : s.Agree g) : (s.reportTagMissing r b f z p).Agree g :=
  report_agree h
@[simp] theorem State.reportTagEmergency_agree {r p a} (h : s.Agree g) : (s.reportTagEmergency r p a).Agree g := report_agree h
@[simp] theorem State.reportPageAck_agree {r p} (h : s.Agree g) : (s.reportPageAck r p).Agree g := report_agree h
@[simp] theorem State.reportUnknownTag_agree {p l} (h : s.Agree g) : (s.reportUnknownTag p l).Agree g := report_agree h

/-- A tag that keeps its zone, and is placed after as before, keeps its lists. -/
theorem State.keepTag_agree {r : Roster} {t : Tag} {f : Tag → Tag} (h : s.Agree {}) (ht : s.tags.get r = some t)
    (hz : (f t).zone = t.zone) (hp : (f t).state = .placed ∨ (f t).state = .missing ↔ t.state = .placed ∨ t.state = .missing)
    (ha : (f t).absentAt.isSome = true → (f t).state = .placed) (hc : ∀ t, (f t).call = t.call) : (s.modTag r f).Agree {} := by
  refine ⟨⟨h.occupancy.within, fun z q => ?_, h.occupancy.once, fun q a hq => ?_⟩, h.presence, h.trunk, h.claims,
    h.calls.congr rfl (fun _ => modTag_carried hc) rfl fun _ => ⟨rfl, rfl⟩, h.apart, h.spare, h.room, h.emptied⟩
  · show q ∈ (s.zones.get z).occupancy ↔ _
    rw [h.occupancy.listed]
    simp only [Guard.tags, Option.elim_none, modTag, get_set_entry]
    split
    · next e => subst e; simp [ht, hz]
    · rfl
  · simp only [Guard.tags, Option.elim_none, modTag, get_set_entry] at hq
    split at hq
    · next e =>
      subst e
      rw [ht, Option.map_some, Option.some.injEq] at hq; subst hq
      refine ⟨?_, ha⟩
      rw [hz, hp]; exact (h.occupancy.placed r t ht).1
    · exact h.occupancy.placed q a hq

/-- A tag's record that keeps its call changes no other table. -/
theorem State.modTag_same {r : Roster} {f : Tag → Tag} (hf : ∀ t, (f t).call = t.call) : s.SameTables (s.modTag r f) :=
  ⟨rfl, rfl, rfl, rfl, rfl, rfl, rfl, rfl, fun _ => modTag_carried hf⟩
theorem State.reported_same {r : Report} {u : State} (h : s.SameTables u) : s.SameTables (u.report r) :=
  ⟨h.1, h.2, h.3, h.4, h.5, h.6, h.7, h.8, h.9⟩

theorem State.modTag_self {r q : Roster} {t : Tag} {f : Tag → Tag} (ht : s.tags.get r = some t) :
    (s.modTag r f).tags.get q = if r = q then some (f t) else s.tags.get q := by
  simp only [modTag, get_set_entry, ht, Option.map_some]

theorem State.heardAtGate_agree {r t p} (h : s.Agree {}) (ht : s.tags.get r = some t) : (s.heardAtGate r t p).1.Agree {} := by
  have hz := h.occupancy.placed r t ht
  unfold heardAtGate; split
  · exact modTag_agree h fun _ => rfl
  · dsimp only; split
    · refine unplace_agree (x := none) (s := s) h (reported_same (modTag_same fun _ => rfl)) (fun q hq => ?_) fun a ha => ?_
      · exact (modTag_self ht).trans (if_neg (Ne.symm hq))
      · have : some (t.outAt s.now) = some a := ((modTag_self ht).trans (if_pos rfl)).symm.trans ha
        cases this; simp [Tag.outAt]
    · next hn =>
      refine reportTagMove_agree (keepTag_agree h ht ?_ (by simp [Tag.outAt, hn]) (by simp [Tag.outAt]) fun _ => rfl)
      cases he : t.zone with
      | none => rfl
      | some z => exact absurd (hz.1.mp (by simp [he])) hn
theorem State.heardAnew_agree {r t p x} (h : s.Agree {}) (ht : s.tags.get r = some t)
    (hc : (s.zones.get p.zone).configured = true) : (s.heardAnew r t p x).1.Agree {} := by
  have hx : ∀ u : State, u.tags = (s.modTag r fun t => t.at s.now p x).tags → s.SameTables u → (u.place r p.zone).Agree {} := by
    intro u hu hs
    refine place_agree (a := t.at s.now p x) h hs (fun q hq => ?_) ?_ rfl rfl hc
    · rw [hu]; exact (modTag_self ht).trans (if_neg (Ne.symm hq))
    · rw [hu]; exact (modTag_self ht).trans (if_pos rfl)
  unfold heardAnew; dsimp only; split
  · exact hx _ rfl (reported_same (modTag_same fun _ => rfl))
  · exact hx _ rfl (reported_same (modTag_same fun _ => rfl))
theorem State.heardIn_agree {r t p x} (h : s.Agree {}) (ht : s.tags.get r = some t) (hp : t.state = .placed)
    (hc : (s.zones.get p.zone).configured = true) :
    (s.heardIn r t p x).1.Agree {} := by
  unfold heardIn; split
  · next hz => exact keepTag_agree h ht hz.symm (by simp [Tag.at, hp]) (by simp [Tag.at]) fun _ => rfl
  · split
    · refine place_agree (a := t.at s.now p x) h (reported_same (modTag_same fun _ => rfl)) (fun q hq => ?_) ?_ rfl rfl hc
      · exact (modTag_self ht).trans (if_neg (Ne.symm hq))
      · exact (modTag_self ht).trans (if_pos rfl)
    · exact keepTag_agree h ht rfl (by simp [Tag.keptAt]) (by simp [Tag.keptAt, hp]) fun _ => rfl
theorem State.placeHeard_agree {r t p x} (h : s.Agree {}) (ht : s.tags.get r = some t)
    (hc : (s.zones.get p.zone).configured = true) : (s.placeHeard r t p x).1.Agree {} := by
  unfold placeHeard; split
  · exact heardAtGate_agree h ht
  · split
    · next hp => exact heardIn_agree h ht hp hc
    · exact heardAnew_agree h ht hc
theorem enrolled_of_any {x : Option Tag} {p : Tag → Bool} (h : x.any p = true) : x.isSome = true := by cases x <;> simp_all
@[simp] theorem State.acknowledge_agree {r p} (h : s.Agree g) : (s.acknowledge r p).Agree g := by
  unfold acknowledge; split
  · exact reportPageAck_agree (modTag_agree h fun _ => rfl)
  · exact h
theorem State.emergencyButton_agree {r p} (h : s.Agree {}) : (s.emergencyButton r p).Agree {} := by
  have h1 {a} : ((s.modTag r fun t => { t with emergency := true }).reportTagEmergency r p a).Agree {} :=
    reportTagEmergency_agree (modTag_agree h fun _ => rfl)
  unfold emergencyButton; dsimp only
  refine emergencyIn_agree sendStart_agrees ?_
  split
  · next hp =>
    exact csEmergencyKey_agree h1 (enrolled_of_any hp)
  · exact h1
theorem State.takeButton_agree {r p b} (h : s.Agree {}) : (s.takeButton r p b).Agree {} := by
  unfold takeButton; dsimp only; split
  · exact h
  · split
    · next hp => exact csCallKey_agree h (enrolled_of_any hp)
    · exact h
  · exact emergencyButton_agree h
  · split
    · exact acknowledge_agree h
    · split
      · exact csAnswerKey_agree h
      · exact acknowledge_agree (csAnswerKey_agree h)
  · cases (s.tags.get r).bind fun t => t.call with
    | none => exact h
    | some i => exact csEnd_agree h rfl
theorem State.heardEntry_agree {r p x} (h : s.Agree {}) (hc : (s.zones.get p.zone).configured = true) :
    (s.heardEntry r p x).Agree {} := by
  unfold heardEntry; split
  · exact h
  · next t ht =>
    have h1 := placeHeard_agree (p := p) (x := x.strength) h ht hc
    dsimp only
    refine takeButton_agree ?_
    cases ((s.placeHeard r t p x.strength).1.tags.get r).bind fun t => t.call with
    | none => exact h1
    | some i => exact csHeard_agree h1 rfl

/-- Operations that keep the standing state keep which zones are CONFIGURED. -/
theorem State.zone_of_standing {s t : State} (h : t.standing = s.standing) (z : ZoneNo) :
    (t.zones.get z).configured = (s.zones.get z).configured := by
  have := congrArg (fun x => (x.configuration.zones.get z).configured) h
  simpa [standing, configuration, Vector.get_eq_getElem, Zone.afterReset] using this
theorem State.heardList_agree {p l} (h : s.Agree {}) (hc : (s.zones.get p.zone).configured = true) :
    (s.heardList p l).Agree {} := by
  have key : ∀ (l : List HeardEntry) (acc : State × List Nat), acc.1.Agree {} → (acc.1.zones.get p.zone).configured = true →
      (l.foldl (State.heardOne p) acc).1.Agree {} := by
    intro l
    induction l with
    | nil => intro acc h _; exact h
    | cons a l ih =>
      intro acc h hc
      refine ih _ ?_ ((zone_of_standing heardOne_standing _).trans hc)
      unfold heardOne; split
      · exact heardEntry_agree h hc
      · exact h
  have h1 := key l (s, []) h hc
  unfold heardList; dsimp only; split
  · exact h1
  · exact reportUnknownTag_agree h1
/-- The absence expiry of a tag whose timer runs (R75). -/
theorem State.absent_agree {r} (h : s.Agree {}) (ha : (s.tags.get r).any fun t => t.absentAt.isSome) : (s.absent r).Agree {} := by
  unfold absent; split
  · exact h
  · next t ht =>
    rw [ht, Option.any_some] at ha
    exact reportTagMissing_agree (keepTag_agree h ht rfl (by simp [(h.occupancy.placed r t ht).2 ha]) (by simp) fun _ => rfl)
@[simp] theorem State.ttPointCleared_agree {p} (h : s.Agree g) : (s.ttPointCleared p).Agree g :=
  { h with
    calls := h.calls.congr rfl (fun q => by
      simp only [ttPointCleared, Vector.get_eq_getElem, Vector.getElem_map]
      cases s.tags[q.1] with
      | none => rfl
      | some t => simp only [Option.map_some, Option.bind_some]; split <;> rfl) rfl fun _ => ⟨rfl, rfl⟩
    occupancy := h.occupancy.keep fun q => by
      rw [Guard.tags_get, Guard.tags_get]
      split
      · rfl
      · simp only [ttPointCleared, Vector.get_eq_getElem, Vector.getElem_map]
        cases s.tags[q.1] with
        | none => rfl
        | some t => simp only [Option.map_some]; split <;> rfl }
theorem State.testEmpty_tags {z} : (s.testEmpty z).tags = s.tags := by
  unfold testEmpty; split
  · next h => unfold setEvac; dsimp only; rw [h.1]; rfl
  · rfl
/-- A tag that leaves its list keeps its record. -/
theorem State.unplace_tags {r} : (s.unplace r).tags = s.tags := by
  unfold unplace; split
  · rfl
  · exact testEmpty_tags
/-- A roster number freed (R69). -/
theorem State.removeTag_agree {r t} (h : s.Agree {}) (ht : s.tags.get r = some t) (hc : t.call = none) :
    (s.removeTag r t).Agree {} := by
  have key : ∀ u : State, u.tags = s.tags → u.Agree { hidden := some r } → (u.setTag r none).Agree {} := fun u hu h =>
    { h with
      calls := h.calls.congr rfl (fun q => by
        simp only [setTag, get_set_entry]; split
        · next e => subst e; rw [hu, ht]; exact hc.symm
        · rfl) rfl fun _ => ⟨rfl, rfl⟩ }
  unfold removeTag; dsimp only; split
  · refine key _ unplace_tags (unplace_agree (s := s) h ⟨rfl, rfl, rfl, rfl, rfl, rfl, rfl, rfl, fun _ => rfl⟩
      (fun q hq => ?_) fun a ha => ?_)
    · rw [Guard.tags_get, if_neg (by simpa using Ne.symm hq)]; rfl
    · rw [Guard.tags_get, if_pos rfl] at ha; cases ha
  · next hn =>
    have hz : t.zone = none := by
      cases he : t.zone with
      | none => rfl
      | some z => exact absurd ((h.occupancy.placed r t ht).1.mp (by simp [he])) hn
    refine key _ rfl (unlisted_agree (r := r) h ⟨rfl, rfl, rfl, rfl, rfl, rfl, rfl, rfl, fun _ => rfl⟩ (fun q hq => ?_)
      (fun a ha => ?_) fun y hy => ?_)
    · rw [Guard.tags_get, if_neg (by simpa using Ne.symm hq)]
    · rw [Guard.tags_get, if_pos rfl] at ha; cases ha
    · obtain ⟨a, ha, e⟩ := (h.occupancy.listed y r).mp hy
      have : s.tags.get r = some a := ha
      rw [ht] at this; cases this; rw [hz] at e; cases e
/-- A roster number taken (R68). -/
theorem State.newTag_agree {r : Roster} {a : Tag} (h : s.Agree {}) (ht : s.tags.get r = none) (hz : a.zone = none)
    (hs : a.state = .unplaced) (ha : a.absentAt = none) (hc : a.call = none) : (s.setTag r (some a)).Agree {} := by
  refine unlisted_agree (x := none) (r := r) h ⟨rfl, rfl, rfl, rfl, rfl, rfl, rfl, rfl, fun q => by
    simp only [setTag, get_set_entry]; split
    · next e => subst e; rw [ht]; exact hc
    · rfl⟩ (fun q hq => ?_) (fun b hb => ?_) fun y hy => ?_
  · simp [setTag, Guard.tags, Ne.symm hq]
  · have : a = b := by simpa [setTag, Guard.tags] using hb
    subst this; simp [hz, hs, ha]
  · obtain ⟨b, hb, e⟩ := (h.occupancy.listed y r).mp hy
    have : s.tags.get r = some b := hb
    rw [ht] at this; cases this

end tags

/-! ## Beacon reads -/

section reads
variable {g : Guard} {s : State}

@[simp] theorem State.wake_agree {v} (h : s.Agree g) : (s.wake v).Agree g := by
  unfold wake; split
  · exact modVehicle_agree h rfl rfl
  · exact reportVehicle_agree (modVehicle_agree h rfl rfl)
  · exact h
@[simp] theorem State.stampRead_agree {v j} (h : s.Agree g) : (s.stampRead v j).Agree g := modVehicle_agree h rfl rfl
theorem State.moveVehicle_agree {v z} (h : s.Agree {}) (hc : (s.zones.get z).configured = true)
    : (s.moveVehicle v z).Agree {} := by
  unfold moveVehicle; split
  · exact h
  · next hz => exact matchEvacuation_agree (matchTrip_agree (vehicleEnters_agree sendStart_agrees h hz hc))

/-- The zone of a CONFIGURED junction is CONFIGURED (R2). -/
def State.Placing (s : State) (j : JuncNo) : Prop := ∀ z, (s.junctions.get j).zone = some z → (s.zones.get z).configured = true

theorem State.placing_of_standing {s t : State} (h : t.standing = s.standing) {j : JuncNo} (hj : s.Placing j) : t.Placing j := by
  have := congrArg (fun x => (x.configuration.junctions.get j).zone) h
  have e : (t.junctions.get j).zone = (s.junctions.get j).zone := by
    simpa [standing, configuration, Vector.get_eq_getElem, Junction.afterReset] using this
  intro z hz
  rw [zone_of_standing h]; exact hj z (e ▸ hz)
theorem State.updatePosition_agree {v j} (h : s.Agree {}) (hj : s.Placing j) : (s.updatePosition v j).Agree {} := by
  have h1 := stampRead_agree (v := v) (j := j) (wake_agree (v := v) h)
  have h2 : ((s.wake v).stampRead v j).Placing j := placing_of_standing (by simp) hj
  unfold updatePosition; dsimp only
  cases hz : (((s.wake v).stampRead v j).junctions.get j).zone with
  | none => exact h1
  | some z => exact moveVehicle_agree h1 (h2 z hz)
theorem State.knownRead_agree {b j i f} (hf : ∀ t v, t.Agree {} → (f t v).Agree {}) (h : s.Agree {}) (hj : s.Placing j) :
    (s.knownRead b j i f).Agree {} := by
  unfold knownRead; split
  · exact reportRouteInvalid_agree h
  · exact hf _ _ (updatePosition_agree h hj)
theorem State.takeRead_agree {b j r} (h : s.Agree {}) (hj : s.Placing j) : (s.takeRead b j r).Agree {} := by
  unfold takeRead; split
  · exact knownRead_agree (fun _ _ => approach_agree) h hj
  · exact knownRead_agree (fun _ _ => clear_agree) h hj
  · exact walkRead_agree h
theorem State.reads_agree {b j} {l : List Read} (h : s.Agree {}) (hj : s.Placing j) :
    (s.forEach l fun t r => t.takeRead b j r).Agree {} := by
  unfold forEach
  induction l generalizing s with
  | nil => exact h
  | cons a l ih => exact ih (takeRead_agree h hj) (placing_of_standing (takeRead_standing s) hj)
theorem State.beaconReads_agree {b l} (h : s.Agree {}) (hn : s.Named) : (s.beaconReads b l).Agree {} := by
  unfold beaconReads; cases hb : s.beaconJunction b with
  | none => exact h
  | some j =>
    refine reads_agree h fun z hz => hn.junctions j z ?_ hz
    have := List.find?_some hb
    simp only [Bool.and_eq_true] at this
    exact this.1
/-- The vehicle leaves its list and its zone (R119). -/
theorem State.leaveZone_agree {v} (h : s.Agree {}) : (s.leaveZone v).Agree {} := by
  have h1 := leave_agree (v := v) h
  unfold leaveZone; dsimp only
  refine followOnboard_agree sendStart_agrees ?_
  split
  · exact tgZoneChange_agree h1
  · exact h1
theorem State.renewVehicle_agree {v b} (h : s.Agree {}) : (s.renewVehicle v b).Agree {} := by
  have h1 := removeReason_agree (v := v) (r := .evacuation) (removeReason_agree (v := v) (r := .trip) (leaveZone_agree (v :=
      v) h))
  unfold renewVehicle; dsimp only
  refine modVehicle_agree ?_ rfl rfl
  split
  · exact h1
  · exact removeReason_agree h1
theorem State.writeVehicle_agree {v x} (h : s.Agree {}) : (s.writeVehicle v x).Agree {} := by
  have h1 : (s.modVehicle v fun y => { y with
    configured := x.configured, tagId := x.tagId, kind := x.kind, overstay := x.overstay, period := x.period
    firstQuarter := x.firstQuarter, periodAt := periodAfter s.now (s.vehicles.get v) x }).Agree {} := modVehicle_agree h rfl rfl
  unfold writeVehicle; dsimp only
  generalize hs : s.modVehicle v _ = s1 at h1
  clear hs
  have h2 := renewVehicle_agree (v := v) (b := x.configured) h1
  split_ifs <;> (try first
    | refine tgUnconfigured_agree sendStart_agrees ?_
    | refine tgTagChanged_agree sendStart_agrees ?_) <;> first
    | exact h1 | exact h2 | exact matchTrip_agree h1 | exact matchTrip_agree h2

end reads

end Sys2Proof.Machine
end

