-- ==== Sys2Proof/Laws/AgreementSpur.lean ====
section
/-! SUPPORT. The ends of spur transactions and the device table keep the tables in agreement. -/

namespace Sys2Proof.Machine

/-! ## Spur Controllers -/

section spurs
variable {g : Guard} {s : State}

/-- Operations that keep the configuration keep what places tags and vehicles in CONFIGURED zones. -/
theorem State.named_of_configuration {s t : State} (h : t.configuration = s.configuration) (hn : s.Named) : t.Named := by
  have hz : ∀ z, (t.zones.get z).configured = (s.zones.get z).configured := fun z => by
    have := congrArg (fun x => (x.zones.get z).configured) h
    simpa [configuration, Vector.get_eq_getElem, Zone.afterReset] using this
  refine ⟨fun e z he => ?_, fun j z hc hj => ?_⟩
  · have hd := congrArg (fun x => (x.devices.get e)) h
    simp only [configuration, Vector.get_eq_getElem, Vector.getElem_map, Device.settings_eq] at hd
    rw [Vector.get_eq_getElem, hd.2.2.2.1] at he
    have := hn.points e z he
    rw [hz, Vector.get_eq_getElem, hd.1, hd.2.2.1]
    exact this
  · have hd := congrArg (fun x => (x.junctions.get j)) h
    simp only [configuration, Vector.get_eq_getElem, Vector.getElem_map, Junction.afterReset_eq] at hd
    rw [Vector.get_eq_getElem, hd.1] at hc
    rw [Vector.get_eq_getElem, hd.2.1] at hj
    rw [hz]
    exact hn.junctions j z hc hj
theorem State.named_of_standing {s t : State} (h : t.standing = s.standing) (hn : s.Named) : t.Named :=
  named_of_configuration (congrArg (fun x => x.configuration) h) hn

@[simp] theorem State.reportDevice_agree {e p c} (h : s.Agree g) : (s.reportDevice e p c).Agree g := report_agree h
@[simp] theorem State.beginPoll_agree {p e} (h : s.Agree g) : (s.beginPoll p e).Agree g := modSpur_agree h
@[simp] theorem State.beginRound_agree {p} (h : s.Agree g) : (s.beginRound p).Agree g := by
  unfold beginRound; dsimp only; split <;> simp [h]
@[simp] theorem State.endRound_agree {p} (h : s.Agree g) : (s.endRound p).Agree g := modSpur_agree h
@[simp] theorem State.pollOn_agree {p} (h : s.Agree g) : (s.pollOn p).Agree g := by
  unfold pollOn; split
  · exact beginPoll_agree h
  · split <;> simp [h]
theorem State.takeFetch_agree {p n} (h : s.Agree {}) : (s.takeFetch p n).1.Agree {} := by
  induction n generalizing s with
  | zero => exact h
  | succ n ih =>
    unfold takeFetch; split
    · exact h
    · dsimp only; split
      · exact ih (tgAnswer_agree sendStart_agrees (modSpur_agree h))
      · split
        · exact ih (modSpur_agree h)
        · dsimp only; exact modSpur_agree (modSpur_agree h)
theorem State.spurNext_agree {p m} (h : s.Agree {}) : (s.spurNext p m).Agree {} := by
  unfold spurNext; split
  · exact h
  · dsimp only; split <;> split <;> first
      | exact takeFetch_agree h
      | exact h
      | exact pollOn_agree (takeFetch_agree h)
      | exact pollOn_agree h
theorem State.handDevice_agree {e} (h : s.Agree {}) : (s.handDevice e).Agree {} := by
  unfold handDevice; dsimp only; split
  · exact aruDevice_agree sendStart_agrees h
  · exact h
  · exact tgBeacon_agree sendStart_agrees (hlcBeacon_agree h)
  · exact rfmDevice_agree h
theorem State.deviceTo_agree {e n m c} (h : s.Agree {}) : (s.deviceTo e n m c).Agree {} := by
  unfold deviceTo; dsimp only; split
  · exact modDevice_agree h fun _ => ⟨rfl, rfl⟩
  · split
    · exact handDevice_agree (reportDevice_agree (modDevice_agree h fun _ => ⟨rfl, rfl⟩))
    · exact handDevice_agree (modDevice_agree h fun _ => ⟨rfl, rfl⟩)
theorem State.deviceGood_agree {e} (h : s.Agree {}) : (s.deviceGood e).Agree {} := deviceTo_agree h
theorem State.deviceMiss_agree {e c} (h : s.Agree {}) : (s.deviceMiss e c).Agree {} := by
  unfold deviceMiss; dsimp only; split
  · split <;> exact deviceTo_agree (modDevice_agree h fun _ => ⟨rfl, rfl⟩)
  · exact deviceTo_agree (modDevice_agree h fun _ => ⟨rfl, rfl⟩)
  · exact deviceTo_agree (modDevice_agree h fun _ => ⟨rfl, rfl⟩)
  · exact modDevice_agree h fun _ => ⟨rfl, rfl⟩
theorem State.handContents_agree {t b c} (h : s.Agree {}) (hn : s.Named) : (s.handContents t b c).Agree {} := by
  unfold handContents; split
  · exact headReply_agree sendStart_agrees h
  · next e _ _ =>
    dsimp only; cases hz : (s.devices.get e).zone with
    | none => exact h
    | some z => exact heardList_agree h (hn.points e z hz).2.2
  · exact beaconReads_agree h hn
  · cases b with
    | none => exact h
    | some b => exact panelReply_agree sendStart_agrees h
  · exact tgAnswer_agree sendStart_agrees h
  · exact tgAnswer_agree sendStart_agrees h
  · exact h
@[simp] theorem State.pollSent_agree {t} (h : s.Agree g) : (s.pollSent t).Agree g := by
  unfold pollSent; split
  · exact modDevice_agree h fun _ => ⟨rfl, rfl⟩
  · exact h
theorem State.endMiss_agree {p t c} (h : s.Agree {}) : (s.endMiss p t c).Agree {} := by
  have h1 : (s.modSpur p fun x => { x with underWay := none }).Agree {} := modSpur_agree h
  unfold endMiss; dsimp only
  refine spurNext_agree ?_
  split <;> split <;> first
    | exact tgAnswer_agree sendStart_agrees (deviceMiss_agree h1)
    | exact tgAnswer_agree sendStart_agrees (deviceMiss_agree (pollSent_agree h1))
    | exact deviceMiss_agree h1
    | exact deviceMiss_agree (pollSent_agree h1)
theorem State.endGood_agree {p t c} (h : s.Agree {}) (hn : s.Named) : (s.endGood p t c).Agree {} :=
  spurNext_agree (handContents_agree (deviceGood_agree (pollSent_agree (modSpur_agree h))) (named_of_standing (by simp) hn))
theorem State.dropTransaction_agree {p} (h : s.Agree {}) : (s.dropTransaction p).Agree {} := by
  unfold dropTransaction; split
  · exact h
  · dsimp only; split
    · exact tgAnswer_agree sendStart_agrees (modSpur_agree h)
    · exact modSpur_agree h
theorem State.spurReply_agree {p b r} (h : s.Agree {}) (hn : s.Named) : (s.spurReply p b r).Agree {} := by
  unfold spurReply; split
  · split
    · exact endMiss_agree h
    · exact endGood_agree h hn
  · exact h
theorem State.spurNoReply_agree {p b} (h : s.Agree {}) : (s.spurNoReply p b).Agree {} := by
  unfold spurNoReply; split
  · exact h
  · exact endMiss_agree h
theorem State.emptyRoundEnds_agree {p} (h : s.Agree {}) : (s.emptyRoundEnds p).Agree {} := by
  unfold emptyRoundEnds; dsimp only; split
  · exact spurNext_agree (modSpur_agree (endRound_agree h))
  · exact h
theorem State.devicesTo_agree {p n} (h : s.Agree {}) : (s.devicesTo p n).Agree {} :=
  forEach_agree h fun _ _ => deviceTo_agree
theorem State.enterStandby_agree {p} (h : s.Agree {}) : (s.enterStandby p).Agree {} := devicesTo_agree (modSpur_agree h)
theorem State.leaveStandby_agree {p} (h : s.Agree {}) : (s.leaveStandby p).Agree {} :=
  beginRound_agree (modSpur_agree (devicesTo_agree (modSpur_agree h)))
theorem State.fallBack_agree {p} (h : s.Agree {}) : (s.fallBack p).Agree {} := forEach_agree h fun _ _ h => modDevice_agree h fun _ => ⟨rfl, rfl⟩
theorem State.broadcast_agree {p} (h : s.Agree {}) : (s.broadcast p).Agree {} := by
  unfold broadcast; split
  · exact h
  · dsimp only
    have h1 := devicesTo_agree (p := p) (n := .suspect) (fallBack_agree (p := p) (modSpur_agree (p := p)
      (f := fun x => { x with counter := 0, broadcasts := x.broadcasts + 1 }) (dropTransaction_agree (p := p) h)))
    cases (s.spurs.get p).underWay with
    | none => exact h1
    | some t => exact spurNext_agree h1
theorem State.spursLoading_agree (h : s.Agree {}) : s.spursLoading.Agree {} := forEach_agree h fun _ _ => broadcast_agree
theorem State.pointChanged_agree {e o n} (h : s.Agree {}) : (s.pointChanged e o n).Agree {} := by
  unfold pointChanged; split
  · split
    · exact ttPointCleared_agree (csPointRemoved_agree h rfl).1
    · split
      · exact ttPointCleared_agree h
      · exact h
  · exact h
/-- No channel is held at an entry that is no call point or is removed or moved. -/
theorem State.pointChanged_free {e : EntryNo} {n : Device} (h : s.Agree {})
    (hn : ¬((s.devices.get e).configured = true ∧ (s.devices.get e).kind = .callPoint ∧ n.configured = true ∧
      samePlace (s.devices.get e) n = true)) {w : VoiceRef} (hw : w.entry = e) :
    (s.pointChanged e (s.devices.get e) n).channel w = none := by
  unfold pointChanged; split
  · next hc =>
    simp only [Bool.and_eq_true, beq_iff_eq] at hc
    split
    · exact (csPointRemoved_agree h rfl).2 w hw
    · next hm => simp_all
  · next hc =>
    cases hx : s.channel w with
    | none => rfl
    | some i =>
      have := h.calls.points w i hx
      rw [hw] at this
      simp [this.1, this.2] at hc
/-- A record is written at an entry without held channels. -/
theorem State.writeRecord_agree {e : EntryNo} {f : Device → Device} (h : s.Agree g)
    (hf : ∀ w : VoiceRef, w.entry = e → s.channel w = none) : (s.modDevice e f).Agree g :=
  { h with
    calls := { h.calls with
      points := fun w i hw => by
        have hne : e ≠ w.entry := fun e' => by
          have := hf w e'.symm
          rw [show s.channel w = some i from hw] at this; cases this
        simp only [modDevice, get_set_entry, if_neg hne]
        exact h.calls.points w i hw } }
theorem State.writeDevice_agree {e n} (h : s.Agree {}) : (s.writeDevice e n).Agree {} := by
  have h0 := pointChanged_agree (e := e) (o := s.devices.get e) (n := n) h
  have h1 : ((s.pointChanged e (s.devices.get e) n).modDevice e fun _ =>
      (s.pointChanged e (s.devices.get e) n).deviceWritten (s.devices.get e) n).Agree {} := by
    by_cases hn : (s.devices.get e).configured = true ∧ (s.devices.get e).kind = .callPoint ∧ n.configured = true ∧
      samePlace (s.devices.get e) n = true
    · have hd : (s.pointChanged e (s.devices.get e) n).devices = s.devices := by
        unfold pointChanged
        rw [if_pos (by simp [hn.1, hn.2.1]), if_neg (by simp [hn.2.2])]
        split <;> rfl
      have hw : (s.pointChanged e (s.devices.get e) n).deviceWritten (s.devices.get e) n =
          { s.devices.get e with zone := n.zone, exitGate := n.exitGate } := by
        unfold deviceWritten
        rw [if_neg (by simp [hn.2.2.1]), if_pos (by simp [hn.1, hn.2.2.2])]
      rw [hw]
      exact { h0 with
        calls := h0.calls.congr rfl (fun _ => rfl) rfl fun i => by
          simp only [modDevice, get_set_entry]; split
          · next e' => subst e'; rw [hd]; exact ⟨rfl, rfl⟩
          · exact ⟨rfl, rfl⟩ }
    · exact writeRecord_agree h0 fun w => pointChanged_free h hn
  have h2 (hc : (n.configured && !((s.devices.get e).configured && samePlace (s.devices.get e) n)) = true) :=
    (emptyPoint_agree (e := e) h1 fun w hw => show (s.pointChanged e (s.devices.get e) n).channel w = none from
      pointChanged_free h (fun hn => by simp [hn.1, hn.2.2.2] at hc) hw).1
  unfold writeDevice; dsimp only
  split_ifs with hc hd hd <;> first
    | exact spurNext_agree (dropTransaction_agree (h2 hc))
    | exact spurNext_agree (dropTransaction_agree h1)
    | exact h2 hc
    | exact h1

end spurs

end Sys2Proof.Machine
end

