-- ==== Sys2Proof/Laws/AgreementRequests.lean ====
section
/-! SUPPORT. Every request of the link keeps the tables in agreement. -/

namespace Sys2Proof.Machine

/-! ## The requests -/

section requests
variable {s : State}

/-- The tables agree after a request as before it. -/
def State.Whole (s : State) : Prop := s.Named ∧ s.Agree {}

theorem State.whole_iff : s.TablesAgree ↔ s.Whole ∧ s.Silent := s.tablesAgree_iff.trans and_assoc.symm

/-- An operation that keeps the standing state and the agreement. -/
theorem State.whole_of {t : State} (hs : t.standing = s.standing) (h : s.Whole) (ha : s.Agree {} → t.Agree {}) : t.Whole :=
  ⟨named_of_standing hs h.1, ha h.2⟩

theorem State.zone_of_writes {t : State} (h : s.Named) (hz : t.zones = s.zones) (hd : t.devices = s.devices)
    (hj : t.junctions = s.junctions) : t.Named := by
  show NamesAgree t.zones t.devices t.junctions
  rw [hz, hd, hj]; exact h

/-! ### Zones -/

theorem State.clearZone_agree {z : ZoneNo} {new : Zone} (h : s.Agree {}) (ho : (s.zones.get z).occupancy = [])
    (hv : (s.zones.get z).vehicles = []) (ho' : new.occupancy = []) (hv' : new.vehicles = []) :
    (s.modZone z fun _ => new).Agree {} := by
  refine { h with
    occupancy := ⟨fun i hi => ?_, fun i r => ?_, fun i => ?_, h.occupancy.placed⟩
    presence := ⟨fun i hi => ?_, fun i v => ?_, fun i => ?_⟩
    emptied := fun i hg he => ?_ }
  · simp only [modZone_zones, get_set_entry] at hi ⊢
    split
    · exact ho'
    · next e => rw [if_neg e] at hi; exact h.occupancy.within i hi
  · rw [show r ∈ ((s.modZone z fun _ => new).zones.get i).occupancy ↔ r ∈ (s.zones.get i).occupancy from ?_]
    · exact h.occupancy.listed i r
    · simp only [modZone_zones, get_set_entry]; split
      · next e => subst e; rw [ho, ho']
      · rfl
  · simp only [modZone_zones, get_set_entry]; split
    · rw [ho']; exact List.nodup_nil
    · exact h.occupancy.once i
  · simp only [modZone_zones, get_set_entry] at hi ⊢
    split
    · exact hv'
    · next e => rw [if_neg e] at hi; exact h.presence.within i hi
  · rw [show v ∈ ((s.modZone z fun _ => new).zones.get i).vehicles ↔ v ∈ (s.zones.get i).vehicles from ?_]
    · exact h.presence.listed i v
    · simp only [modZone_zones, get_set_entry]; split
      · next e => subst e; rw [hv, hv']
      · rfl
  · simp only [modZone_zones, get_set_entry]; split
    · rw [hv']; exact List.nodup_nil
    · exact h.presence.once i
  · simp only [modZone_zones, get_set_entry] at he ⊢
    split
    · exact ho'
    · next e => rw [if_neg e] at he; exact h.emptied i hg he

/-- A zone stays CONFIGURED, or nothing names it. -/
theorem State.modZone_named {z : ZoneNo} {f : Zone → Zone} (h : s.Named)
    (hz : (s.zones.get z).configured = true → (f (s.zones.get z)).configured = true ∨ s.inUse z = false) :
    (s.modZone z f).Named := by
  have key : ∀ i, (s.zones.get i).configured = true → (i = z → s.inUse z = false → False) →
      ((s.modZone z f).zones.get i).configured = true := by
    intro i hi hu
    simp only [modZone_zones, get_set_entry]; split
    · next e => subst e; exact (hz hi).resolve_right fun hu' => hu rfl hu'
    · exact hi
  refine ⟨fun e i he => ?_, fun j i hc hj => ?_⟩
  · obtain ⟨h1, h2, h3⟩ := h.points e i he
    refine ⟨h1, h2, key i h3 fun e' hu => ?_⟩
    subst e'
    simp only [inUse, Bool.or_eq_false_iff, List.any_eq_false, allOf, List.mem_finRange, forall_const] at hu
    have := hu.1.1.1.1.2 e
    have he' : (s.devices.get e).zone = some i := he
    have h1' : (s.devices.get e).configured = true := h1
    have h2' : (s.devices.get e).kind = .callPoint := h2
    simp [h1', h2', he'] at this
  · refine key i (h.junctions j i hc hj) fun e' hu => ?_
    subst e'
    simp only [inUse, Bool.or_eq_false_iff, List.any_eq_false, allOf, List.mem_finRange, forall_const] at hu
    have := hu.1.1.1.2 j
    have hj' : (s.junctions.get j).zone = some i := hj
    simp [hj'] at this
theorem State.inUse_lists {z : ZoneNo} (h : s.inUse z = false) : (s.zones.get z).occupancy = [] ∧
    (s.zones.get z).vehicles = [] := by
  simp only [inUse, Bool.or_eq_false_iff, Bool.not_eq_false', List.isEmpty_iff] at h
  exact ⟨h.1.2, h.2⟩

theorem State.writeZone_whole {z : ZoneNo} {new : Zone} (h : s.Whole) (ho : new.occupancy = []) (hv : new.vehicles = [])
    (hu : (s.zones.get z).configured = true → new.configured = false → s.inUse z = false) : (s.writeZone z new).Whole := by
  have hl : (s.zones.get z).configured = false ∨ new.configured = false →
      (s.zones.get z).occupancy = [] ∧ (s.zones.get z).vehicles = [] := by
    intro hc
    cases hz : (s.zones.get z).configured with
    | false => exact ⟨h.2.occupancy.within z hz, h.2.presence.within z hz⟩
    | true => exact inUse_lists (hu hz (hc.resolve_left (by simp [hz])))
  unfold writeZone; dsimp only; split
  · next hc =>
    simp only [Bool.and_eq_true] at hc
    refine whole_of (updateView_standing _) ⟨modZone_named h.1 fun _ => .inl hc.1, modZone_agree h.2 rfl rfl rfl .inl⟩ updateView_agree
  · next hc =>
    split
    · next hn =>
      have h1 : (s.zones.get z).configured = false := by
        cases hz : (s.zones.get z).configured <;> simp_all
      have h2 := hl (.inl h1)
      exact whole_of (updateView_standing _) ⟨modZone_named h.1 fun e => by simp [h1] at e, clearZone_agree h.2 h2.1 h2.2 ho hv⟩
        updateView_agree
    · next hn =>
      have hn' : new.configured = false := by simpa using hn
      have h2 := hl (.inr hn')
      exact ⟨modZone_named h.1 fun e => .inr (hu e hn'), clearZone_agree h.2 h2.1 h2.2 ho hv⟩
theorem zoneWritten_lists {f : ZoneFields} {z : ZoneNo} {new : Zone} (h : zoneWritten? f = some (z, new)) :
    new.occupancy = [] ∧ new.vehicles = [] := by
  unfold zoneWritten? at h
  simp only [Option.bind_eq_bind, Option.bind_eq_some_iff, Option.pure_def, Option.some.injEq, Prod.mk.injEq] at h
  obtain ⟨_, _, _, _, _, _, _, _, _, _, _, _, _, _, _, _, _, rfl⟩ := h
  exact ⟨rfl, rfl⟩
theorem State.doSetZone_whole {f} (h : s.Whole) : (s.doSetZone f).state.Whole := by
  unfold doSetZone; split
  · exact h
  · next z new hw =>
    dsimp only; split_ifs with h1 h2 h3
    · exact h
    · exact h
    · exact h
    · refine writeZone_whole h (zoneWritten_lists hw).1 (zoneWritten_lists hw).2 fun hc hn => ?_
      have hb : s.zoneBusy z = false := by simpa [hc, hn] using h2
      simp only [zoneBusy, Bool.or_eq_false_iff] at hb
      exact hb.1.1.1.1
theorem State.doOrderEvacuation_whole {z} (h : s.Whole) : (s.doOrderEvacuation z).state.Whole := by
  unfold doOrderEvacuation; split
  · exact h
  · split
    · exact whole_of (by simp) h orderEvac_agree
    · exact h
theorem State.doLiftEvacuation_whole {z k} (h : s.Whole) : (s.doLiftEvacuation z k).state.Whole := by
  unfold doLiftEvacuation; split
  · split_ifs <;> first | exact h | exact whole_of (by simp) h fun h => setEvac_agree h fun e => by cases e
  · exact h

/-! ### Channels and outputs -/

theorem State.writeChannel_whole {c x} (h : s.Whole) : (s.writeChannel sendStart c x).Whole := by
  refine ⟨?_, writeChannel_agree sendStart_agrees h.2⟩
  have h1 : (s.modChannel c fun _ => x.cleared).Named := zone_of_writes h.1 rfl rfl rfl
  refine named_of_standing ?_ h1
  unfold writeChannel; dsimp only
  split_ifs <;> simp
theorem State.doSetChannel_whole {f} (h : s.Whole) : (s.doSetChannel f).state.Whole := by
  unfold doSetChannel; split
  · exact h
  · split_ifs <;> first | exact h | exact writeChannel_whole h
theorem State.doSetService_whole {c v} (h : s.Whole) : (s.doSetService c v).state.Whole := by
  unfold doSetService; split
  · dsimp only; split_ifs
    · exact h
    · exact h
    · split
      · refine ⟨?_, takeOut_agree sendStart_agrees h.2⟩
        have h1 : ∀ c f, (s.modChannel c f).Named := fun _ _ => zone_of_writes h.1 rfl rfl rfl
        unfold takeOut; dsimp only
        split
        · exact named_of_standing (reportChannel_standing _) (h1 _ _)
        · exact named_of_standing (handOn_standing _ sendStart_quiet) (h1 _ _)
      · exact ⟨zone_of_writes h.1 rfl rfl rfl, takeIn_agree h.2⟩
  · exact h
theorem State.doSetTrip_whole {f} (h : s.Whole) : (s.doSetTrip f).state.Whole := by
  unfold doSetTrip; split
  · exact h
  · dsimp only; split_ifs <;> first | exact h | skip
    refine ⟨named_of_standing (settle_standing _) ?_, settle_agree (rereadFeedback_agree h.2)⟩
    have h1 : ∀ o f, (s.modTrip o f).Named := fun _ _ => zone_of_writes h.1 rfl rfl rfl
    unfold rereadFeedback; dsimp only
    split
    · exact h1 _ _
    · exact named_of_standing (feedbackEvent_standing _) (h1 _ _)
theorem State.doTrip_whole {o} (h : s.Whole) : (s.doTrip o).state.Whole := by
  unfold doTrip; split
  · exact h
  · split
    · exact h
    · exact whole_of (by simp) h fun h => settle_agree (tripNow_agree h)
theorem State.doRestore_whole {o k} (h : s.Whole) : (s.doRestore o k).state.Whole := by
  have moved (o : OutNo) : (s.restoreTrip o).Named :=
    zone_of_writes (s := s.moveTrip o .closed .restore) (named_of_configuration (congrArg (fun x => x.configuration)
      (s.moveTrip_standing_set (o := o) (n := .closed) (c := .restore))) h.1) rfl rfl rfl
  unfold doRestore; split
  · split_ifs <;> first | exact h | skip
    refine ⟨?_, restoreTrip_agree h.2⟩
    exact moved _
  · exact h

/-! ### Tags and calls -/

theorem State.enroll_whole {r i a} (h : s.Whole) : (s.enroll r i a).state.Whole := by
  unfold enroll; split
  · next ht => exact ⟨zone_of_writes h.1 rfl rfl rfl, newTag_agree h.2 ht rfl rfl rfl rfl⟩
  · next t ht =>
    split
    · refine ⟨zone_of_writes h.1 rfl rfl rfl, ?_⟩
      have := modTag_agree (r := r) (f := fun t => { t with absence := a }) h.2 fun _ => rfl
      simpa only [modTag, setTag, ht, Option.map_some, reply_state] using this
    · exact h
theorem State.doEnrollTag_whole {r t a} (h : s.Whole) : (s.doEnrollTag r t a).state.Whole := by
  unfold doEnrollTag; split
  · exact h
  · split_ifs
    · exact h
    · exact h
    · split
      · exact h
      · exact enroll_whole h
theorem State.withTag_whole {r f} (h : s.Whole) (hf : ∀ r t, s.tags.get r = some t → (f r t).state.Whole) :
    (s.withTag r f).state.Whole := by
  unfold withTag; split
  · exact h
  · next r _ => cases ht : s.tags.get r with
    | none => exact h
    | some t => exact hf r t ht
theorem State.doRemoveTag_whole {r} (h : s.Whole) : (s.doRemoveTag r).state.Whole :=
  withTag_whole h fun r t ht => by
    split
    · exact h
    · next hc =>
      refine ⟨?_, removeTag_agree h.2 ht (by simpa using hc)⟩
      unfold removeTag; dsimp only
      refine zone_of_writes (s := if t.state = .placed ∨ t.state = .missing then
        (s.reportTagMove r t .unplaced none none .removed).unplace r else s) ?_ rfl rfl rfl
      split
      · exact named_of_standing (by simp) h.1
      · exact h.1
theorem State.doPageTag_whole {r a} (h : s.Whole) : (s.doPageTag r a).state.Whole := by
  unfold doPageTag; split
  · split
    · exact h
    · split
      · exact h
      · exact ⟨zone_of_writes h.1 rfl rfl rfl, modTag_agree h.2 fun _ => rfl⟩
  · exact h
theorem State.doAckTag_whole {r} (h : s.Whole) : (s.doAckTag r).state.Whole :=
  withTag_whole h fun _ _ _ => ⟨zone_of_writes h.1 rfl rfl rfl, modTag_agree h.2 fun _ => rfl⟩
theorem State.doPlaceCall_whole {r} (h : s.Whole) : (s.doPlaceCall r).state.Whole :=
  withTag_whole h fun _ _ _ => by
    split
    · exact h
    · split
      · exact h
      · next hf =>
        exact whole_of (by simp) h fun h => withAnswering_agree (makeCall_agree (withAnswering_agree h)
          (callsFull_false (s := s) (by simpa using hf)) fun _ e => by cases e)
theorem State.doEndCall_whole {i} (h : s.Whole) : (s.doEndCall i).state.Whole := by
  unfold doEndCall; split_ifs <;> first | exact h | exact whole_of (by simp) h fun h => csEnd_agree h rfl

/-! ### The trunk, haulage and bursts -/

theorem State.doSetTrunk_whole {l} (h : s.Whole) : (s.doSetTrunk l).state.Whole := by
  unfold doSetTrunk; split
  · exact h
  · split
    · exact h
    · next hb =>
      refine ⟨?_, setAllotment_agree h.2 fun y hy => ?_⟩
      · have h1 : ∀ f, (s.modTrunk f).Named := fun _ => zone_of_writes h.1 rfl rfl rfl
        exact named_of_standing (forEach_standing _ fun t k => t.slotFreed_standing) (h1 _)
      · simp only [List.any_eq_true, decide_eq_true_eq, not_exists, not_and, Decidable.not_not] at hb
        exact hb y hy (h.2.trunk.allotted y hy)
theorem State.writeVehicle_whole {v x} (h : s.Whole) : (s.writeVehicle v x).Whole := by
  refine ⟨?_, writeVehicle_agree h.2⟩
  have h1 : ∀ f, (s.modVehicle v f).Named := fun _ => zone_of_writes h.1 rfl rfl rfl
  unfold writeVehicle; dsimp only
  generalize hs : s.modVehicle v _ = s1
  have h2 : s1.Named := by subst hs; exact h1 _
  refine named_of_standing ?_ h2
  split <;> split <;> split <;> simp
theorem State.doSetVehicle_whole {f} (h : s.Whole) : (s.doSetVehicle f).state.Whole := by
  unfold doSetVehicle; split
  · exact h
  · dsimp only; split_ifs <;> first | exact h | exact writeVehicle_whole h
theorem State.withVehicle_whole {v f} (h : s.Whole) (hf : ∀ v, (f v).state.Whole) : (s.withVehicle v f).state.Whole := by
  unfold withVehicle; split
  · exact h
  · split
    · exact hf _
    · exact h
theorem State.doStopVehicle_whole {v} (h : s.Whole) : (s.doStopVehicle v).state.Whole :=
  withVehicle_whole h fun _ => whole_of (by simp) h addReason_agree
theorem State.doReleaseVehicle_whole {v} (h : s.Whole) : (s.doReleaseVehicle v).state.Whole :=
  withVehicle_whole h fun _ => whole_of (by simp) h removeReason_agree
theorem State.junctionAfter_cases (s : State) (x : Junction) (hx : x.holder = .none) :
    (s.junctionAfter x).configured = x.configured ∧ (s.junctionAfter x).zone = x.zone ∧
      ∀ v, (s.junctionAfter x).holder ≠ .claim v := by
  unfold junctionAfter; split
  · exact ⟨rfl, rfl, by simp [hx]⟩
  · dsimp only; split
    · have := (Junction.afterReset_eq _ _).mp (evacHolder_afterReset { x with
        state := if s.deviceOnline .beacon x.beacon then .inService else .failed, fresh := !s.deviceOnline .beacon x.beacon })
      exact ⟨this.1, this.2.1, by simp [evacHolder]⟩
    · exact ⟨rfl, rfl, by simp [hx]⟩
theorem junctionWritten_holder {f : JunctionFields} {j : JuncNo} {new : Junction} (h : junctionWritten? f = some (j, new)) :
    new.holder = .none := by
  unfold junctionWritten? at h
  simp only [Option.bind_eq_bind, Option.bind_eq_some_iff] at h
  obtain ⟨_, _, _, _, _, _, _, _, h⟩ := h
  split at h
  · cases h; rfl
  · cases h
theorem State.writeJunction_whole {j : JuncNo} {new : Junction} (h : s.Whole) (hu : s.junctionInUse j = false)
    (hn : new.holder = .none)
    (hz : new.configured = true → ∀ z, new.zone = some z → (s.zones.get z).configured = true) :
    (s.modJunction j fun _ => s.junctionAfter new).Whole := by
  obtain ⟨h1, h2, h3⟩ := s.junctionAfter_cases new hn
  have hf : (s.junctions.get j).holder = .none := by
    simp only [junctionInUse, Bool.or_eq_false_iff, bne_eq_false_iff_eq] at hu
    exact hu.1.1.1
  refine ⟨⟨h.1.points, fun i z hc hi => ?_⟩, modJunction_free_agree h.2 (fun v => by simp [hf]) h3⟩
  simp only [modJunction, get_set_entry] at hc hi
  split at hc
  · next e => rw [if_pos e] at hi; rw [h1] at hc; rw [h2] at hi; exact hz hc z hi
  · next e => rw [if_neg e] at hi; exact h.1.junctions i z hc hi
theorem State.doSetJunction_whole {f} (h : s.Whole) : (s.doSetJunction f).state.Whole := by
  unfold doSetJunction; split
  · exact h
  · next j new hw =>
    have hh := junctionWritten_holder hw
    split_ifs with h1 h2 h3 h4
    · exact h
    · exact writeJunction_whole h (by simpa using h1) hh fun e => by simp [h2] at e
    · exact h
    · exact h
    · refine writeJunction_whole h (by simpa using h1) hh fun _ z hz => ?_
      simp only [hz, Option.any_some, Bool.or_eq_true, Bool.not_eq_true', not_or, Bool.not_eq_false] at h3
      exact h3.1
theorem State.doBurstNow_whole {v q} (h : s.Whole) : (s.doBurstNow v q).state.Whole := by
  unfold doBurstNow; split
  · split_ifs <;> first | exact h | exact whole_of (by simp) h fun h => settle_agree (tgStart_agree sendStart_agrees h)
  · exact h

/-! ### Stations, programs and spurs -/

theorem State.newInside_agree {n a b} (h : s.Agree {}) : (s.newInside n a b).Agree {} := by
  unfold newInside; split
  · exact distress_agree sendStart_agrees h
  · exact h
theorem State.writeStation_whole {n x} (h : s.Whole) : (s.writeStation n x).Whole := by
  unfold writeStation; dsimp only; split
  · exact ⟨zone_of_writes h.1 rfl rfl rfl, modStation_agree h.2⟩
  · have h1 : ∀ f, (s.modStation n f).Whole := fun _ => ⟨zone_of_writes h.1 rfl rfl rfl, modStation_agree h.2⟩
    exact whole_of ((newInside_standing _).trans (newInside_standing _)) (h1 _) fun h => newInside_agree (newInside_agree h)
theorem State.doSetStation_whole {f} (h : s.Whole) : (s.doSetStation f).state.Whole := by
  unfold doSetStation; split
  · exact h
  · split_ifs <;> first | exact h | exact writeStation_whole h
theorem State.doRefugeReset_whole {n k} (h : s.Whole) : (s.doRefugeReset n k).state.Whole := by
  unfold doRefugeReset; split
  · dsimp only; split_ifs <;> first | exact h | exact whole_of (by simp) h resetStation_agree
  · exact h
theorem State.doLoadSteps_whole {i l} (h : s.Whole) : (s.doLoadSteps i l).state.Whole := by
  unfold doLoadSteps; split
  · exact h
  · split
    · exact h
    · split
      · exact h
      · exact ⟨h.1, { h.2 with }⟩
theorem State.doSetProgram_whole {p d i u k} (h : s.Whole) : (s.doSetProgram p d i u k).state.Whole := by
  unfold doSetProgram; split
  · exact h
  · split
    · exact h
    · exact ⟨h.1, { h.2 with }⟩
theorem State.doStartProgram_whole {p z} (h : s.Whole) : (s.doStartProgram p z).state.Whole := by
  unfold doStartProgram; split
  · split_ifs
    · exact h
    · exact h
    · dsimp only; rw [startAnswer_state]; exact whole_of (by simp) h fun h => settle_agree (apuTake_agree h)
  · exact h
theorem State.doCancelRunner_whole {r} (h : s.Whole) : (s.doCancelRunner r).state.Whole := by
  unfold doCancelRunner; split
  · exact h
  · split
    · exact whole_of (by simp) h cancelRun_agree
    · exact h
theorem State.doCancelPair_whole {p z} (h : s.Whole) : (s.doCancelPair p z).state.Whole := by
  unfold doCancelPair; split
  · split
    · exact whole_of (by simp) h cancelRun_agree
    · split
      · exact whole_of (by simp) h cancelQueued_agree
      · exact h
  · exact h
theorem State.doSetSpur_whole {p v} (h : s.Whole) : (s.doSetSpur p v).state.Whole := by
  unfold doSetSpur; split
  · split_ifs <;> first | exact h | exact whole_of (by simp) h enterStandby_agree | exact whole_of (by simp) h leaveStandby_agree
  · exact h
theorem deviceWritten_zone {f : DeviceFields} {e : EntryNo} {new : Device} (h : deviceWritten? f = some (e, new)) {z : ZoneNo}
    (hz : new.zone = some z) : new.kind = .callPoint := by
  unfold deviceWritten? at h
  simp only [Option.bind_eq_bind, Option.bind_eq_some_iff] at h
  obtain ⟨_, _, _, _, k, _, _, _, h⟩ := h
  split at h
  · next hk => 
    simp only [Option.bind_eq_some_iff, Option.pure_def, Option.some.injEq, Prod.mk.injEq] at h
    obtain ⟨_, _, _, _, _, rfl⟩ := h
    exact hk
  · simp only [Option.pure_def, Option.some.injEq, Prod.mk.injEq] at h
    obtain ⟨_, rfl⟩ := h
    cases hz
theorem State.writeDevice_whole {e : EntryNo} {new : Device} (h : s.Whole)
    (hk : new.configured = true → ∀ z, new.zone = some z → new.kind = .callPoint ∧ (s.zones.get z).configured = true) :
    (s.writeDevice e new).Whole := by
  refine ⟨?_, writeDevice_agree h.2⟩
  have h1 : (s.pointChanged e (s.devices.get e) new).Named := named_of_standing (by simp) h.1
  have hz : ∀ z, ((s.pointChanged e (s.devices.get e) new).zones.get z).configured = (s.zones.get z).configured :=
    zone_of_standing (by simp)
  have h2 : ((s.pointChanged e (s.devices.get e) new).modDevice e fun _ =>
      (s.pointChanged e (s.devices.get e) new).deviceWritten (s.devices.get e) new).Named := by
    refine ⟨fun i z hi => ?_, h1.junctions⟩
    simp only [modDevice, get_set_entry] at hi ⊢
    split at hi
    · next e =>
      rw [if_pos e]
      unfold deviceWritten at hi ⊢
      split at hi
      · cases hi
      · next hc =>
        have hc' : new.configured = true := by simpa using hc
        rw [if_neg hc]
        split at hi
        · next hs =>
          obtain ⟨h3, h4⟩ := hk hc' z hi
          simp only [Bool.and_eq_true, samePlace, beq_iff_eq] at hs
          rw [if_pos (by simp [hs, samePlace])]
          exact ⟨hs.1, hs.2.1.trans h3, (hz z).trans h4⟩
        · next hs =>
          obtain ⟨h3, h4⟩ := hk hc' z hi
          rw [if_neg hs]
          exact ⟨hc', h3, (hz z).trans h4⟩
    · next e => rw [if_neg e]; exact h1.points i z hi
  have h3 : ∀ v : Vector (Vector (Option Nat) 4) 96, State.Named { ((s.pointChanged e (s.devices.get e) new).modDevice e fun _ =>
      (s.pointChanged e (s.devices.get e) new).deviceWritten (s.devices.get e) new) with voice := v } := fun _ => h2
  unfold writeDevice; dsimp only
  have h4 : ∀ (t : State) (p : SpurNo) (b : Bool), t.Named → ((t.dropTransaction p).spurNext p b).Named :=
    fun t p b ht => named_of_standing (by simp) ht
  split <;> split <;> first | exact h2 | exact h3 _ | exact h4 _ _ _ h2
theorem State.doSetDevice_whole {f} (h : s.Whole) : (s.doSetDevice f).state.Whole := by
  unfold doSetDevice; split
  · exact h
  · next e new hw =>
    dsimp only; split_ifs with h1 h2 h3 h4 h5
    · exact h
    · exact h
    · exact h
    · exact h
    · exact h
    · refine writeDevice_whole h fun hc z hz => ⟨deviceWritten_zone hw hz, ?_⟩
      simpa [hc, hz] using h5

/-! ### Modes -/

theorem State.setMode_agree {g : Guard} {m} (h : s.Agree g) : (s.setMode m).Agree g := { h with }
theorem State.startRun_whole (h : s.Whole) : s.startRun.Whole := by
  refine ⟨named_of_configuration ?_ h.1, settle_agree (tcuStart_agree (setMode_agree h.2))⟩
  exact (congrArg Standing.configuration s.startRun_standing :)
theorem State.enterLoading_whole (h : s.Whole) : s.enterLoading.Whole := by
  refine ⟨named_of_configuration ?_ h.1, ?_⟩
  · exact (congrArg Standing.configuration s.enterLoading_standing :)
  · exact spursLoading_agree (hlcLoading_agree (apuLoading_agree (tcuLoading_agree (setMode_agree h.2))))
theorem State.doStartRun_whole (h : s.Whole) : s.doStartRun.state.Whole := by
  unfold doStartRun; split
  · exact h
  · split
    · exact h
    · simp only [accept_state]; exact startRun_whole h
theorem State.doEnterLoading_whole (h : s.Whole) : s.doEnterLoading.state.Whole := by
  unfold doEnterLoading; split
  · exact h
  · simp only [accept_state]; exact enterLoading_whole h

/-- Every request leaves the tables in agreement. -/
theorem State.handle_whole {r : Request} (h : s.Whole) : (s.handle r).state.Whole := by
  by_cases hr : r.isRead = true
  · rw [s.handle_read hr]; exact h
  · cases r <;> simp [Request.isRead] at hr <;> simp only [handle]
    case setZone => exact doSetZone_whole h
    case orderEvacuation => exact doOrderEvacuation_whole h
    case liftEvacuation => exact doLiftEvacuation_whole h
    case setChannel => exact doSetChannel_whole h
    case setService => exact doSetService_whole h
    case setTrip => exact doSetTrip_whole h
    case trip => exact doTrip_whole h
    case restore => exact doRestore_whole h
    case enrollTag => exact doEnrollTag_whole h
    case removeTag => exact doRemoveTag_whole h
    case pageTag => exact doPageTag_whole h
    case ackTag => exact doAckTag_whole h
    case placeCall => exact doPlaceCall_whole h
    case endCall => exact doEndCall_whole h
    case setTrunk => exact doSetTrunk_whole h
    case setVehicle => exact doSetVehicle_whole h
    case setJunction => exact doSetJunction_whole h
    case stopVehicle => exact doStopVehicle_whole h
    case releaseVehicle => exact doReleaseVehicle_whole h
    case burstNow => exact doBurstNow_whole h
    case setStation => exact doSetStation_whole h
    case refugeReset => exact doRefugeReset_whole h
    case loadSteps => exact doLoadSteps_whole h
    case setProgram => exact doSetProgram_whole h
    case startProgram => exact doStartProgram_whole h
    case cancelRunner => exact doCancelRunner_whole h
    case cancelPair => exact doCancelPair_whole h
    case cancelOther => exact h
    case setSpur => exact doSetSpur_whole h
    case setDevice => exact doSetDevice_whole h
    case startRun => exact doStartRun_whole h
    case enterLoading => exact doEnterLoading_whole h
    case reset => exact ⟨h.1, { h.2 with }⟩

end requests

end Sys2Proof.Machine
end

