-- ==== Sys2Proof/Laws/AgreementLink.lean ====
section
/-! SUPPORT. The link, resets and the form of an event keep the tables in agreement. -/

namespace Sys2Proof.Machine

/-! ## The link, resets and the events -/

section part
variable {s : State}

/-- What the tables do not share with the link, the time base and the queue of commands. -/
theorem State.whole_of_tables {t : State} (h : s.Whole) (hz : t.zones = s.zones) (ht : t.tags = s.tags)
    (hv : t.vehicles = s.vehicles)
    (hj : t.junctions = s.junctions) (hw : t.waits = s.waits) (hx : t.trunk = s.trunk) (hd : t.devices = s.devices)
    (hc : t.calls = s.calls) (hu : t.voice = s.voice) : t.Whole := by
  refine ⟨zone_of_writes h.1 hz hd hj, ?_⟩
  have := h.2
  exact ⟨by rw [hz, ht]; exact this.occupancy, by rw [hz, hv]; exact this.presence, by rw [hx]; exact this.trunk,
    by rw [hv, hj, hw]; exact this.claims, by rw [hc, ht, hu, hd]; exact this.calls, by simp, by simp,
      by rw [hx]; exact this.room, by rw [hz]; exact this.emptied⟩

theorem State.modSlp_whole {f} (h : s.Whole) : (s.modSlp f).Whole := whole_of_tables h rfl rfl rfl rfl rfl rfl rfl rfl rfl

/-- The tables agree and the part operates. -/
def State.Running (s : State) : Prop := s.Whole ∧ s.slp.inReset = none

/-- The tables agree, and no call stands while a reset lasts. -/
def State.Sound (s : State) : Prop := s.Whole ∧ s.Silent

theorem State.Running.sound (h : s.Running) : s.Sound := ⟨h.1, fun e => by rw [h.2] at e; cases e⟩
theorem State.running_of {t : State} (hs : t.standing = s.standing) (h : s.Running) (ha : s.Agree {} → t.Agree {}) : t.Running :=
  ⟨whole_of hs h.1 ha, (congrArg (fun x => x.link.inReset) hs).trans h.2⟩
theorem State.modSlp_running {f : Slp → Slp} (h : s.Running) (hf : (f s.slp).inReset = s.slp.inReset) : (s.modSlp f).Running :=
  ⟨modSlp_whole h.1, hf.trans h.2⟩
theorem State.beginSending_running (h : s.Running) : s.beginSending.Running :=
  modSlp_running h (by unfold Slp.beginSending; split <;> first | rfl | (split <;> first | rfl | (split <;> rfl)))
theorem State.reach_running {t} (h : s.Running) : (s.reach t).Running :=
  ⟨whole_of_tables h.1 rfl rfl rfl rfl rfl rfl rfl rfl rfl, h.2⟩
theorem State.report_running {r} (h : s.Running) : (s.report r).Running := running_of (s.report_standing _) h report_agree
theorem State.takeRequest_running (h : s.Running) : s.takeRequest.Running := by
  unfold takeRequest; split
  · exact h
  · split
    · exact h
    · next f rest _ =>
      refine modSlp_running ?_ rfl
      have h1 : (s.modSlp fun l => { l with buffer := rest }).Running := modSlp_running h rfl
      cases f.content with
      | request r => exact ⟨handle_whole h1.1, (State.handle_link _ r).1.trans h1.2⟩
      | unknownCode c => exact h1
      | badFrame c => exact h1
theorem State.submit_running {f} (h : s.Running) : (s.submit f).Running := by
  unfold submit
  refine takeRequest_running ?_
  split
  · exact modSlp_running h rfl
  · exact report_running h
theorem State.receiveByte_running {b} (h : s.Running) : (s.receiveByte b).Running := by
  unfold receiveByte; split
  · split
    · exact modSlp_running h rfl
    · exact h
  · split
    · exact modSlp_running h rfl
    · exact modSlp_running h rfl
    · exact submit_running (modSlp_running h rfl)
theorem State.receiveBytes_running {l} (h : s.Running) : (s.receiveBytes l).Running := by
  unfold receiveBytes
  induction l generalizing s with
  | nil => exact h
  | cons b l ih => exact ih (receiveByte_running h)

/-- An event leaves the tables in agreement when its effect on an operating part does. -/
theorem State.event_sound {f : State → State} (h : s.Sound) (hf : s.Running → (f s).Running) : (s.event f).Sound := by
  unfold event; split
  · exact h
  · next hr => exact (beginSending_running (hf ⟨h.1, by simpa using hr⟩)).sound
theorem State.pinEvent_sound {l f : State → State} (h : s.Sound) (hl : (l s).Sound) (hf : s.Running → (f s).Running) :
    (s.pinEvent l f).Sound := by
  unfold pinEvent; split
  · exact hl
  · next hr => exact (beginSending_running (hf ⟨h.1, by simpa using hr⟩)).sound
theorem State.request_sound {t r} (h : s.Sound) : (s.request t r).Sound :=
  event_sound h fun h => submit_running (modSlp_running h rfl)
theorem State.expiry_running {t : Option Time} {f : State → State} (h : s.Running)
    (hf : ∀ a, t = some a → (s.reach a).Running → (f (s.reach a)).Running) : (s.expiry t f).Running := by
  unfold expiry; split
  · exact h
  · exact hf _ rfl (reach_running h)

/-! ### Resets (R187) -/

theorem State.clearDynamic_whole (h : s.Named) : s.clearDynamic.Whole := by
  have hz : ∀ z, (s.clearDynamic.zones.get z) = (s.zones.get z).afterReset := fun z => by
    simp [clearDynamic, Vector.get_eq_getElem]
  have ht : ∀ r, (s.clearDynamic.tags.get r) = (s.tags.get r).map Tag.afterReset := fun r => by
    simp [clearDynamic, Vector.get_eq_getElem]
  have hv : ∀ v, (s.clearDynamic.vehicles.get v) = (s.vehicles.get v).afterReset := fun r => by
    simp [clearDynamic, Vector.get_eq_getElem]
  have hj : ∀ j, (s.clearDynamic.junctions.get j) = (s.junctions.get j).afterReset := fun r => by
    simp [clearDynamic, Vector.get_eq_getElem]
  have hd : ∀ e, (s.clearDynamic.devices.get e) = (s.devices.get e).afterReset := fun r => by
    simp [clearDynamic, Vector.get_eq_getElem]
  refine ⟨⟨fun e z he => ?_, fun j z hc hi => ?_⟩, ⟨fun z _ => by rw [hz]; rfl, fun z r => ?_, fun z => ?_, fun r t hr => ?_⟩,
    ⟨fun z _ => by rw [hz]; rfl, fun z v => ?_, fun z => ?_⟩,
    ⟨List.nodup_nil, by simp [clearDynamic], List.nodup_nil, by simp [clearDynamic], List.Pairwise.nil⟩,
    ⟨fun j v => ?_, List.nodup_nil, by simp [clearDynamic]⟩,
    ⟨by simp [clearDynamic], by simp [clearDynamic], List.nodup_nil, fun r i _ => ?_, fun v i _ => ?_, by simp [clearDynamic],
      fun v i e => ?_⟩, by simp, by simp, by simp [clearDynamic], fun z _ _ => by rw [hz]; rfl⟩
  · rw [hd] at he ⊢; rw [hz]; exact h.points e z he
  · rw [hj] at hc hi; rw [hz]; exact h.junctions j z hc hi
  · rw [hz]
    show r ∈ (s.zones.get z).afterReset.occupancy ↔ ∃ t, s.clearDynamic.tags.get r = some t ∧ t.zone = some z
    rw [ht]; cases s.tags.get r <;> simp [Zone.afterReset, Tag.afterReset]
  · rw [hz]; exact List.nodup_nil
  · have hr' : s.clearDynamic.tags.get r = some t := hr
    rw [ht] at hr'
    cases hx : s.tags.get r with
    | none => simp [hx] at hr'
    | some y => rw [hx] at hr'; cases hr'; simp [Tag.afterReset]
  · rw [hz, hv]; simp [Zone.afterReset, Vehicle.afterReset]
  · rw [hz]; exact List.nodup_nil
  · rw [hj, hv]; simp [Junction.afterReset, Vehicle.afterReset]
  · rw [ht]; cases s.tags.get r <;> simp [Tag.afterReset, clearDynamic]
  · simp [clearDynamic, Vector.get]
  · simp [clearDynamic, Vector.get] at e
theorem State.beginReset_sound {c} (h : s.Named) : (s.beginReset c).Sound := ⟨modSlp_whole (clearDynamic_whole h), fun _ => rfl⟩
theorem State.resetCause_sound {c} (h : s.Sound) : (s.resetCause c).Sound := by
  unfold resetCause; split
  · exact beginReset_sound h.1.1
  · next d hd => exact ⟨modSlp_whole h.1, fun _ => h.2 (by rw [hd]; rfl)⟩
theorem State.loseConfiguration_whole (h : s.Whole) (hc : s.calls = []) : s.loseConfiguration.Whole := by
  have hv : ∀ (v : VoiceRef) i, (s.voice.get v.entry).get v.chan ≠ some i := fun v i e => by
    have := (h.2.calls.channels v i (by simp)).mp e
    simp [hc] at this
  refine ⟨⟨?_, ?_⟩, ⟨?_, ?_, ?_, ?_⟩, ⟨?_, ?_, ?_⟩, h.2.trunk, ⟨?_, h.2.claims.once, fun w hw => ⟨?_,
      (h.2.claims.waiting w hw).2⟩⟩,
    ⟨h.2.calls.room, h.2.calls.ids, h.2.calls.once, ?_, ?_, h.2.calls.apart, fun v i e => absurd e (hv v i)⟩,
    by simp, by simp, h.2.room, ?_⟩ <;> simp [loseConfiguration, Vector.get_eq_getElem, Guard.tags, hc]
  intro v i
  have := hv v i
  rwa [Vector.get_eq_getElem, Vector.get_eq_getElem] at this
theorem State.linkStart_running {c} (h : s.Whole) : (s.linkStart c).Running :=
  beginSending_running (report_running ⟨modSlp_whole h, rfl⟩)
theorem State.periodsStart_running (h : s.Running) : s.periodsStart.Running := by
  have hv : ∀ v, (s.periodsStart.vehicles.get v).zone = (s.vehicles.get v).zone ∧
      (s.periodsStart.vehicles.get v).claim = (s.vehicles.get v).claim := fun v => by
    simp [periodsStart, Vector.get_eq_getElem]
  exact ⟨⟨h.1.1, { h.1.2 with
    presence := h.1.2.presence.keep fun v => (hv v).1
    claims := h.1.2.claims.congr (fun v => (hv v).2) fun _ => rfl }⟩, h.2⟩
theorem State.spursStart_running (h : s.Running) : s.spursStart.Running :=
  running_of ((forEach_standing _ fun t p => by simp))
      h fun h => forEach_agree h fun _ _ ht => beginRound_agree (modSpur_agree ht)
theorem State.signalFaults_running (h : s.Running) : s.signalFaults.Running :=
  running_of (forEach_standing _ fun t _ => t.report_standing _) h fun h => forEach_agree h fun _ _ => report_agree
theorem State.resume_sound {c} (h : s.Whole) (hc : s.calls = []) : (s.resume c).Sound := by
  have h1 : ∀ t : State, t.Whole → ((({ t with now := 0 } : State).linkStart c).gradeReset sendStart).Running := fun t ht =>
    have h2 : (({ t with now := 0 } : State).linkStart c).Running :=
      linkStart_running (s := { t with now := 0 }) (whole_of_tables ht rfl rfl rfl rfl rfl rfl rfl rfl rfl)
    running_of (gradeReset_standing _ sendStart_quiet) h2 (gradeReset_agree sendStart_agrees)
  unfold resume; dsimp only
  refine (spursStart_running (periodsStart_running (signalFaults_running (h1 _ ?_)))).sound
  split
  · exact h
  · exact loseConfiguration_whole h hc
theorem State.endReset_sound (h : s.Sound) : s.endReset.Sound := by
  unfold endReset; split
  · exact h
  · next c hc => exact resume_sound h.1 (h.2 (by rw [hc]; rfl))
/-- The end of a frame: a reset, the next request, or neither. -/
theorem State.frameSent_sound (h : s.Sound) : (s.event State.frameEnds).Sound := by
  unfold event; split
  · exact h
  · next hr =>
    have h0 : s.Running := ⟨h.1, by simpa using hr⟩
    unfold frameEnds; split
    · exact (beginSending_running h0).sound
    · have h1 : (s.modSlp fun l => { l with sending := none }).Running := modSlp_running h0 rfl
      dsimp only; split
      · split
        · exact ⟨modSlp_whole (beginReset_sound h1.1.1).1, fun _ => rfl⟩
        · exact (beginSending_running (takeRequest_running h1)).sound
      · exact (beginSending_running h1).sound

end part

end Sys2Proof.Machine
end

