-- ==== Sys2Proof/Laws/PerInstr.lean ====
section
/-! SUPPORT. For every command: when it stands for the frame of a request and fits the wire, the request fits its frame
(R178). One lemma for each constructor. -/

namespace Sys2Proof.Laws

/-- The request that a well-formed command stands for is well-formed. -/
def Framed.Statement (i : Instr) : Prop :=
  ∀ (tag : Byte) (r : Request), i.frame? = some (tag, r) → i.wf = true → r.wf = true

theorem Framed.setZone (tag : Byte) (f : ZoneFields) : Framed.Statement (.setZone tag f) := by rintro _ _ ⟨⟩ h; exact h
theorem Framed.orderEvacuation (tag : Byte) (zone : Nat) : Framed.Statement (.orderEvacuation tag zone) := by rintro _ _ ⟨⟩ h; exact h
theorem Framed.liftEvacuation (tag : Byte) (zone key : Nat) : Framed.Statement (.liftEvacuation tag zone key) := by rintro _ _ ⟨⟩ h; exact h
theorem Framed.readZone (tag : Byte) (zone : Nat) : Framed.Statement (.readZone tag zone) := by rintro _ _ ⟨⟩ h; exact h
theorem Framed.setChannel (tag : Byte) (f : ChannelFields) : Framed.Statement (.setChannel tag f) := by rintro _ _ ⟨⟩ h; exact h
theorem Framed.setServiceOut (tag : Byte) (channel : Nat) : Framed.Statement (.setServiceOut tag channel) := by rintro _ _ ⟨⟩ h; exact h
theorem Framed.setServiceIn (tag : Byte) (channel : Nat) : Framed.Statement (.setServiceIn tag channel) := by rintro _ _ ⟨⟩ h; exact h
theorem Framed.readChannel (tag : Byte) (channel : Nat) : Framed.Statement (.readChannel tag channel) := by rintro _ _ ⟨⟩ h; exact h
theorem Framed.setTrip (tag : Byte) (f : TripFields) : Framed.Statement (.setTrip tag f) := by rintro _ _ ⟨⟩ h; exact h
theorem Framed.trip (tag : Byte) (output : Nat) : Framed.Statement (.trip tag output) := by rintro _ _ ⟨⟩ h; exact h
theorem Framed.restore (tag : Byte) (output key : Nat) : Framed.Statement (.restore tag output key) := by rintro _ _ ⟨⟩ h; exact h
theorem Framed.readTrip (tag : Byte) (output : Nat) : Framed.Statement (.readTrip tag output) := by rintro _ _ ⟨⟩ h; exact h
theorem Framed.readSignal (tag : Byte) (output : Nat) : Framed.Statement (.readSignal tag output) := by rintro _ _ ⟨⟩ h; exact h
theorem Framed.enrollTag (tag : Byte) (roster tagId absence : Nat) : Framed.Statement (.enrollTag tag roster tagId absence) := by rintro _ _ ⟨⟩ h; exact h
theorem Framed.removeTag (tag : Byte) (roster : Nat) : Framed.Statement (.removeTag tag roster) := by rintro _ _ ⟨⟩ h; exact h
theorem Framed.pageTagSend (tag : Byte) (roster : Nat) : Framed.Statement (.pageTagSend tag roster) := by rintro _ _ ⟨⟩ h; exact h
theorem Framed.pageTagCancel (tag : Byte) (roster : Nat) : Framed.Statement (.pageTagCancel tag roster) := by rintro _ _ ⟨⟩ h; exact h
theorem Framed.ackTag (tag : Byte) (roster : Nat) : Framed.Statement (.ackTag tag roster) := by rintro _ _ ⟨⟩ h; exact h
theorem Framed.readTag (tag : Byte) (roster : Nat) : Framed.Statement (.readTag tag roster) := by rintro _ _ ⟨⟩ h; exact h
theorem Framed.placeCall (tag : Byte) (roster : Nat) : Framed.Statement (.placeCall tag roster) := by rintro _ _ ⟨⟩ h; exact h
theorem Framed.endCall (tag : Byte) (id : Nat) : Framed.Statement (.endCall tag id) := by rintro _ _ ⟨⟩ h; exact h
theorem Framed.readCall (tag : Byte) (id : Nat) : Framed.Statement (.readCall tag id) := by rintro _ _ ⟨⟩ h; exact h
theorem Framed.setTrunk (tag : Byte) (slots : List Nat) : Framed.Statement (.setTrunk tag slots) := by rintro _ _ ⟨⟩ h; exact h
theorem Framed.readTrunk (tag : Byte) : Framed.Statement (.readTrunk tag) := by rintro _ _ ⟨⟩ h; exact h
theorem Framed.setVehicle (tag : Byte) (f : VehicleFields) : Framed.Statement (.setVehicle tag f) := by rintro _ _ ⟨⟩ h; exact h
theorem Framed.setJunction (tag : Byte) (f : JunctionFields) : Framed.Statement (.setJunction tag f) := by rintro _ _ ⟨⟩ h; exact h
theorem Framed.stopVehicle (tag : Byte) (vehicle : Nat) : Framed.Statement (.stopVehicle tag vehicle) := by rintro _ _ ⟨⟩ h; exact h
theorem Framed.releaseVehicle (tag : Byte) (vehicle : Nat) : Framed.Statement (.releaseVehicle tag vehicle) := by rintro _ _ ⟨⟩ h; exact h
theorem Framed.readVehicle (tag : Byte) (vehicle : Nat) : Framed.Statement (.readVehicle tag vehicle) := by rintro _ _ ⟨⟩ h; exact h
theorem Framed.readJunction (tag : Byte) (junction : Nat) : Framed.Statement (.readJunction tag junction) := by rintro _ _ ⟨⟩ h; exact h
theorem Framed.burstNow (tag : Byte) (vehicle firstQuarter : Nat) : Framed.Statement (.burstNow tag vehicle firstQuarter) := by rintro _ _ ⟨⟩ h; exact h
theorem Framed.readBurst (tag : Byte) (vehicle : Nat) : Framed.Statement (.readBurst tag vehicle) := by rintro _ _ ⟨⟩ h; exact h
theorem Framed.setStation (tag : Byte) (f : StationFields) : Framed.Statement (.setStation tag f) := by rintro _ _ ⟨⟩ h; exact h
theorem Framed.refugeReset (tag : Byte) (station key : Nat) : Framed.Statement (.refugeReset tag station key) := by rintro _ _ ⟨⟩ h; exact h
theorem Framed.readStation (tag : Byte) (station : Nat) : Framed.Statement (.readStation tag station) := by rintro _ _ ⟨⟩ h; exact h
theorem Framed.loadSteps (tag : Byte) (first : Nat) (steps : List StepFields) : Framed.Statement (.loadSteps tag first steps) := by rintro _ _ ⟨⟩ h; exact h
theorem Framed.setProgram (tag : Byte) (program defined first urgency key : Nat) : Framed.Statement (.setProgram tag program defined first urgency key) := by rintro _ _ ⟨⟩ h; exact h
theorem Framed.startProgram (tag : Byte) (program zone : Nat) : Framed.Statement (.startProgram tag program zone) := by rintro _ _ ⟨⟩ h; exact h
theorem Framed.cancelProgramByRunner (tag : Byte) (runner : Nat) : Framed.Statement (.cancelProgramByRunner tag runner) := by rintro _ _ ⟨⟩ h; exact h
theorem Framed.cancelProgramByPair (tag : Byte) (program zone : Nat) : Framed.Statement (.cancelProgramByPair tag program zone) := by rintro _ _ ⟨⟩ h; exact h
theorem Framed.readProgram (tag : Byte) (program : Nat) : Framed.Statement (.readProgram tag program) := by rintro _ _ ⟨⟩ h; exact h
theorem Framed.readSteps (tag : Byte) (first count : Nat) : Framed.Statement (.readSteps tag first count) := by rintro _ _ ⟨⟩ h; exact h
theorem Framed.readRunner (tag : Byte) (runner : Nat) : Framed.Statement (.readRunner tag runner) := by rintro _ _ ⟨⟩ h; exact h
theorem Framed.setSpurStandby (tag : Byte) (spur : Nat) : Framed.Statement (.setSpurStandby tag spur) := by rintro _ _ ⟨⟩ h; exact h
theorem Framed.setSpurActive (tag : Byte) (spur : Nat) : Framed.Statement (.setSpurActive tag spur) := by rintro _ _ ⟨⟩ h; exact h
theorem Framed.setDevice (tag : Byte) (f : DeviceFields) : Framed.Statement (.setDevice tag f) := by rintro _ _ ⟨⟩ h; exact h
theorem Framed.readDevice (tag : Byte) (entry : Nat) : Framed.Statement (.readDevice tag entry) := by rintro _ _ ⟨⟩ h; exact h
theorem Framed.readSpur (tag : Byte) (spur : Nat) : Framed.Statement (.readSpur tag spur) := by rintro _ _ ⟨⟩ h; exact h
theorem Framed.startRun (tag : Byte) : Framed.Statement (.startRun tag) := by rintro _ _ ⟨⟩ h; exact h
theorem Framed.enterLoading (tag : Byte) : Framed.Statement (.enterLoading tag) := by rintro _ _ ⟨⟩ h; exact h
theorem Framed.reset (tag : Byte) : Framed.Statement (.reset tag) := by rintro _ _ ⟨⟩ h; exact h
theorem Framed.readStatus (tag : Byte) : Framed.Statement (.readStatus tag) := by rintro _ _ ⟨⟩ h; exact h
theorem Framed.unknownRequestCode (tag : Byte) (body : Bytes) : Framed.Statement (.unknownRequestCode tag body) := by rintro _ _ ⟨⟩
theorem Framed.malformedRequest (tag : Byte) (body : Bytes) : Framed.Statement (.malformedRequest tag body) := by rintro _ _ ⟨⟩
theorem Framed.frameReceived (bytes : Bytes) : Framed.Statement (.frameReceived bytes) := by rintro _ _ ⟨⟩
theorem Framed.frameGapTimeout : Framed.Statement .frameGapTimeout := by rintro _ _ ⟨⟩
theorem Framed.frameSent : Framed.Statement .frameSent := by rintro _ _ ⟨⟩
theorem Framed.powerUp : Framed.Statement .powerUp := by rintro _ _ ⟨⟩
theorem Framed.supplyDip : Framed.Statement .supplyDip := by rintro _ _ ⟨⟩
theorem Framed.resetPinLow : Framed.Statement .resetPinLow := by rintro _ _ ⟨⟩
theorem Framed.resetEnd : Framed.Statement .resetEnd := by rintro _ _ ⟨⟩
theorem Framed.deviceReply (spur : SpurNo) (lineBusy : Bool) (reply : DeviceReply) : Framed.Statement (.deviceReply spur lineBusy reply) := by rintro _ _ ⟨⟩
theorem Framed.replyLimitExpiry (spur : SpurNo) (lineBusy : Bool) : Framed.Statement (.replyLimitExpiry spur lineBusy) := by rintro _ _ ⟨⟩
theorem Framed.emptyRoundExpiry (spur : SpurNo) : Framed.Statement (.emptyRoundExpiry spur) := by rintro _ _ ⟨⟩
theorem Framed.staleExpiry (channel : ChanNo) : Framed.Statement (.staleExpiry channel) := by rintro _ _ ⟨⟩
theorem Framed.waitExpiry (output : OutNo) : Framed.Statement (.waitExpiry output) := by rintro _ _ ⟨⟩
theorem Framed.confirmExpiry (output : OutNo) : Framed.Statement (.confirmExpiry output) := by rintro _ _ ⟨⟩
theorem Framed.closeConfirmExpiry (output : OutNo) : Framed.Statement (.closeConfirmExpiry output) := by rintro _ _ ⟨⟩
theorem Framed.feedbackChange (output : OutNo) (high : Bool) : Framed.Statement (.feedbackChange output high) := by rintro _ _ ⟨⟩
theorem Framed.manualEdge (output : OutNo) (high : Bool) : Framed.Statement (.manualEdge output high) := by rintro _ _ ⟨⟩
theorem Framed.faultSenseChange (signal : SigNo) (openCircuit : Bool) : Framed.Statement (.faultSenseChange signal openCircuit) := by rintro _ _ ⟨⟩
theorem Framed.absenceExpiry (roster : Roster) : Framed.Statement (.absenceExpiry roster) := by rintro _ _ ⟨⟩
theorem Framed.setupExpiry (call : Nat) : Framed.Statement (.setupExpiry call) := by rintro _ _ ⟨⟩
theorem Framed.ringExpiry (call : Nat) : Framed.Statement (.ringExpiry call) := by rintro _ _ ⟨⟩
theorem Framed.heldExpiry (call : Nat) : Framed.Statement (.heldExpiry call) := by rintro _ _ ⟨⟩
theorem Framed.partyLostExpiry (call : Nat) (side : Side) : Framed.Statement (.partyLostExpiry call side) := by rintro _ _ ⟨⟩
theorem Framed.goodMark : Framed.Statement .goodMark := by rintro _ _ ⟨⟩
theorem Framed.missedMark : Framed.Statement .missedMark := by rintro _ _ ⟨⟩
theorem Framed.lostExpiry (vehicle : VehNo) : Framed.Statement (.lostExpiry vehicle) := by rintro _ _ ⟨⟩
theorem Framed.waitEntryExpiry (vehicle : VehNo) : Framed.Statement (.waitEntryExpiry vehicle) := by rintro _ _ ⟨⟩
theorem Framed.walkDeadline (junction : JuncNo) : Framed.Statement (.walkDeadline junction) := by rintro _ _ ⟨⟩
theorem Framed.overstayExpiry (vehicle : VehNo) : Framed.Statement (.overstayExpiry vehicle) := by rintro _ _ ⟨⟩
theorem Framed.periodExpiry (vehicle : VehNo) : Framed.Statement (.periodExpiry vehicle) := by rintro _ _ ⟨⟩
theorem Framed.stepCountEnd (runner : RunnerNo) : Framed.Statement (.stepCountEnd runner) := by rintro _ _ ⟨⟩
theorem Framed.slotWaitExpiry (runner : RunnerNo) : Framed.Statement (.slotWaitExpiry runner) := by rintro _ _ ⟨⟩
theorem Framed.manualInputLeavesActiveLevel (output : OutNo) (high : Bool) : Framed.Statement (.manualInputLeavesActiveLevel output high) := by rintro _ _ ⟨⟩

end Sys2Proof.Laws
end

