-- ==== Sys2Proof/Tests/Slice0.lean ====
section
/-! SUPPORT. Tests: ill-formed commands refused, request bodies written out by R178, single steps of the manual's worked
sequences, and for each statement a concrete state and operands that meet its hypotheses, clause by clause. -/

namespace Sys2Proof.Tests

open Sys2Proof Sys2Proof.Machine

set_option Elab.async false

/-! ## Ill-formed commands -/

theorem test_wf_zone_wide : (Instr.readZone 0 256).wf = false := by decide
theorem test_wf_key_wide : (Instr.liftEvacuation 0 1 256).wf = false := by decide
theorem test_wf_channel_level_wide :
    (Instr.setChannel 0 ⟨1, 0, 0, .vehicle 1, 0, 0, 1, 65536, 1, 0, 1, 2, 0, 1, 0⟩).wf = false := by decide
theorem test_wf_source_wide :
    (Instr.setChannel 0 ⟨1, 0, 0, .head 1 256 1, 1, 0, 1, 1, 1, 0, 1, 2, 0, 1, 0⟩).wf = false := by decide
theorem test_wf_wait_wide : (Instr.setTrip 0 ⟨1, 0, 65536, 20, 0, 0, 0, 0⟩).wf = false := by decide
theorem test_wf_tag_id_wide : (Instr.enrollTag 0 0 16777216 30).wf = false := by decide
theorem test_wf_slot_list_long : (Instr.setTrunk 0 (List.replicate 247 8)).wf = false := by decide +kernel
theorem test_wf_served_list_long :
    (Instr.setStation 0 ⟨1, 0, 1, List.replicate 238 1, 1, 1, 0, 0, 0, 0⟩).wf = false := by decide +kernel
theorem test_wf_step_field_wide : (Instr.loadSteps 0 0 [⟨5, 0, 0, .absent, 256, 1⟩]).wf = false := by decide
theorem test_wf_steps_too_long : (Instr.loadSteps 0 0 (List.replicate 40 ⟨0, 0, 1, .present 0, 1, 1⟩)).wf = false := by decide +kernel
theorem test_wf_presence_in_list : (Instr.loadSteps 0 0 [⟨0, 0, 1, .other 1, 1, 1⟩]).wf = false := by decide
theorem test_wf_selector_in_list :
    (Instr.setChannel 0 ⟨1, 0, 0, .other 1, 1, 0, 1, 1, 1, 0, 1, 2, 0, 1, 0⟩).wf = false := by decide
theorem test_wf_call_id_zero : (Instr.ringExpiry 0).wf = false := by decide
theorem test_wf_call_id_wide : (Instr.partyLostExpiry 256 .a).wf = false := by decide
theorem test_wf_known_code : (Instr.unknownRequestCode 0 [0x16]).wf = false := by decide
theorem test_wf_whole_body : (Instr.malformedRequest 0 [0x04, 0x01]).wf = false := by decide

/-! ## Bodies written out by R178 and R179 -/

theorem test_body_order_evacuation : parseBody [0x02, 0x05] = .request (.orderEvacuation 5) := by decide
theorem test_body_set_service : parseBody [0x06, 0x20, 0x01] = .request (.setService 32 1) := by decide
theorem test_body_step_presence : parseBody [0x22, 0x00, 0x01, 0x00, 0x00, 0x01, 0x02, 0x01, 0x01] =
    .request (.loadSteps 0 [⟨0, 0, 1, .other 2, 1, 1⟩]) := by decide
theorem test_body_set_trip : parseBody [0x08, 0x03, 0x01, 0x2C, 0x01, 0x14, 0x04, 0x00, 0x02, 0x01] =
    .request (.setTrip ⟨3, 1, 300, 20, 4, 0, 2, 1⟩) := by decide
theorem test_body_enroll : parseBody [0x0D, 0x00, 0x56, 0x34, 0x12, 0x58, 0x02] =
    .request (.enrollTag 0 0x123456 600) := by decide
theorem test_body_end_call : parseBody [0x13, 0xFF] = .request (.endCall 255) := by decide
theorem test_body_set_trunk : parseBody [0x15, 0x02, 0x08, 0x1F] = .request (.setTrunk [8, 31]) := by decide
theorem test_body_stop_vehicle : parseBody [0x19, 0x0C] = .request (.stopVehicle 12) := by decide
theorem test_body_burst_now : parseBody [0x1D, 0x03, 0x02] = .request (.burstNow 3 2) := by decide
theorem test_body_refuge_reset : parseBody [0x20, 0x04, 0x0F] = .request (.refugeReset 4 15) := by decide
theorem test_body_cancel_by_pair : parseBody [0x25, 0x01, 0x07, 0x02] = .request (.cancelPair 7 2) := by decide
theorem test_body_set_spur : parseBody [0x29, 0x08, 0x01] = .request (.setSpur 8 1) := by decide
theorem test_body_read_status : parseBody [0x30] = .request .readStatus := by decide
theorem test_body_unknown : parseBody [0x31, 0x01] = .unknownCode 0x31 := by decide
theorem test_body_short : parseBody [0x0A, 0x01] = .badFrame 0x0A := by decide

/-! ## Small states -/

/-- A table with one record changed. -/
def put {α : Type} {n : Nat} (i : Fin n) (a : α) (v : Vector α n) : Vector α n := v.set i a

/-- The part right after reset, in a mode. -/
def part (m : Mode) : State := { State.reset with slp := { State.reset.slp with mode := m } }

/-- The part in RUN. -/
abbrev run : State := part .run

theorem ready_of {s : State} (m : Mode) (h : s.slp = (part m).slp) : s.Ready :=
  ⟨by rw [h]; rfl, by rw [h]; rfl, by rw [h]; rfl, by rw [h]; rfl⟩

theorem ready_part (m : Mode) : (part m).Ready := ready_of m rfl

/-! ## Single steps of the worked sequences -/

/-- Channel 7 of section 2.13 before sample 1. -/
def chan7 : Channel :=
  { configured := true, source := some (.head ⟨0, 0⟩ 0), zone := some 2, zero := 200, span := 500, alert := 100, alarm := 150
    hysteresis := 10, filter := 4, rateInterval := 4, rise := 25, stale := 10, qualification := .alarm, service := .inService
    level := .normal, cause := none, window := [98, 101, 103], mark := 90, count := 3 }

theorem test_section_2_13_sample_1 :
    chan7.convert 1033 = some (104, false) ∧ (chan7.enter 0 104 false).f = 102 ∧
      (chan7.enter 0 104 false).level = .alert ∧ (chan7.enter 0 104 false).mark = 102 := by decide

theorem test_section_2_13_sample_5 :
    let x := { chan7 with level := .alert, window := [104, 118, 126, 134], mark := 102, count := 3 }
    x.convert 1336 = some (142, false) ∧ (x.enter 0 142 false).window = [118, 126, 134, 142] ∧
      (x.enter 0 142 false).f = 130 ∧ (x.enter 0 142 false).riseSet = true ∧ (x.enter 0 142 false).level = .alarm := by decide

/-- Output T3 of section 3.12, with no zone bound. -/
def outT3 : Trip :=
  { mode := .delayed, wait := 100, waitPending := 100, backup := some 3, warning := some 3, edge := .falling
    state := .closed, feedbackHigh := true, manualHigh := true }

def waitT3 : State := { run with trips := put 2 outT3 run.trips }

theorem test_section_3_12_demand :
    let t := waitT3.demand 2 1 10
    (t.trips.get 2).state = .waiting ∧ (t.trips.get 2).waitAt = some 100 ∧ (t.trips.get 2).origin = some (1, 10) ∧
      (t.signals.get 3).shown = some .fast := by decide +kernel

theorem test_section_3_12_wait_expires :
    let t := (waitT3.demand 2 1 10).endWait 2
    (t.trips.get 2).state = .closed ∧ (t.signals.get 3).drivers = [] := by decide +kernel

/-- A head at spur 3, address 4, ONLINE (section 11.10). -/
def headOn : State := { run with devices := put 5 { configured := true, ref := ⟨2, 3⟩, state := .online } run.devices }

theorem test_section_11_10_misses :
    let t := ((headOn.deviceMiss 5 .noReply).deviceMiss 5 .badCheck).deviceMiss 5 .noReply
    (t.devices.get 5).state = .offline ∧ (t.devices.get 5).misses = 3 ∧ ((t.deviceGood 5).devices.get 5).state = .online ∧
      ((t.deviceGood 5).devices.get 5).misses = 0 := by decide +kernel

/-- The order of the allotment and the rank of a request (section 6.5, R107). -/
theorem test_request_queue_order :
    placeWaiting [⟨.call 1, .priority⟩, ⟨.call 2, .routine⟩] ⟨.burst 0, .telemetry⟩ =
      [⟨.call 1, .priority⟩, ⟨.burst 0, .telemetry⟩, ⟨.call 2, .routine⟩] := by decide

/-! ## Witnesses: the queue, resets and the link -/

theorem witness_StepLetsTimePass :
    (State.reset.pending = [] ∧ ∀ x ∈ State.reset.timers, State.reset.now < x.1) ∧
    (let s := { run with now := 5, channels := put 0 { staleAt := some 5 } run.channels }
     s.pending = [] ∧ ∃ x ∈ s.timers, x.1 ≤ s.now) := by
  refine ⟨⟨rfl, by decide +kernel⟩, rfl, ?_⟩
  exact ⟨(5, .staleExpiry 0), by decide +kernel, Nat.le_refl 5⟩

theorem witness_ResetBegins :
    State.reset.slp.inReset = none ∧ (∃ s : State, s.slp.inReset = some { line := true }) :=
  ⟨rfl, { State.reset with slp := { State.reset.slp with inReset := some { line := true } } }, rfl⟩

/-- A part that a reset by LINE has stopped. -/
def stopped : State := State.reset.beginReset { line := true }

theorem stopped_tags (r : Roster) : stopped.tags.get r = none := by revert r; decide +kernel

theorem witness_ResetEnds : stopped.Stopped { line := true } where
  cleared := {
    zones := by decide +kernel
    channels := by decide +kernel
    trips := by decide +kernel
    signals := by decide +kernel
    tags := fun r t h => by rw [stopped_tags r] at h; cases h
    calls := ⟨rfl, rfl, rfl⟩
    voice := by decide +kernel
    trunk := ⟨rfl, rfl, rfl, rfl, rfl, rfl⟩
    vehicles := by decide +kernel
    junctions := by decide +kernel
    waits := rfl
    bursts := by decide +kernel
    stations := by decide +kernel
    runners := by decide +kernel
    starts := ⟨rfl, rfl, rfl, rfl⟩
    devices := by decide +kernel
    spurs := by decide +kernel }
  mode := rfl
  receiver := rfl
  buffer := rfl
  replySlot := rfl
  sending := rfl
  queue := rfl
  marker := rfl
  resetDue := rfl
  causes := rfl

theorem witness_PowerUpThenEndIsReset : State.reset.slp.inReset = none ∧ stopped.Stopped { line := true } ∧
    (∀ o : OutNo, (State.reset.trips.get o).feedbackHigh = false ∧ (State.reset.trips.get o).manualHigh = false) ∧
      ∀ g : SigNo, (State.reset.signals.get g).openCircuit = false :=
  ⟨rfl, witness_ResetEnds, by decide +kernel, by decide +kernel⟩

theorem witness_BodyRoundTrip :
    (Request.readZone 255).wf = true ∧ (Request.enrollTag 255 0xFFFFFF 65535).wf = true ∧
      (Request.setTrunk (List.replicate 246 255)).wf = true := by decide +kernel

theorem witness_CommandIsItsFrame :
    (Instr.readZone 9 1).frame? = some (9, .readZone 1) ∧ (Request.readZone 1).wf = true ∧ State.reset.slp.inReset = none ∧
      State.reset.slp.receiver = .hunt ∧ State.reset.Ready :=
  ⟨rfl, by decide, rfl, rfl, rfl, rfl, rfl, rfl⟩

theorem witness_FramesDiscarded :
    State.reset.slp.inReset = none ∧ State.reset.slp.receiver = .hunt ∧ syncByte ∉ ([0x00, 0x59, 0x5B] : Bytes) ∧
      (0x02 : Byte) ≠ kindRequest ∧ 248 < (249 : Byte).toNat ∧
      (([0x30] : Bytes).length ≤ 248 ∧ ([0x00, 0x00] : Bytes).length = 2 ∧
        ([0x00, 0x00] : Bytes) ≠ checkBytes (kindRequest :: 9 :: BitVec.ofNat 8 1 :: [0x30])) := by decide +kernel

/-- A link that is sending, with a reply waiting or not, reports queued and frames received. -/
def sends (isReply : Bool) (slot : Option Reply) (queue : List Report) (buffer : List Received) (due : Bool) : State :=
  { run with slp := { run.slp with
    sending := some ⟨isReply, []⟩, replySlot := slot, queue := queue, buffer := buffer, resetDue := due } }

theorem witness_FrameSent :
    (let s := sends false (some ⟨1, [0x30, 0x00]⟩) [] [] false
     s.slp.inReset = none ∧ s.slp.sending = some ⟨false, []⟩ ∧ s.slp.replySlot = some ⟨1, [0x30, 0x00]⟩) ∧
    (let s := sends true none [⟨.routine, 0x81, []⟩] [] false
     s.slp.buffer = [] ∧ s.slp.resetDue = false ∧ s.slp.replySlot = none ∧ s.slp.queue = [⟨.routine, 0x81, []⟩]) ∧
    (let s := sends true none [] [] false
     s.slp.buffer = [] ∧ s.slp.resetDue = false ∧ s.slp.replySlot = none ∧ s.slp.queue = []) ∧
    (let s := sends true none [] [⟨3, .request .readStatus⟩] false
     s.slp.resetDue = false ∧ s.slp.replySlot = none ∧ s.slp.buffer = [⟨3, .request .readStatus⟩]) ∧
    (sends true none [] [] true).slp.resetDue = true ∧
    (∃ s : State, s.slp.inReset = none ∧ s.slp.sending = none) := by
  refine ⟨by decide, by decide, by decide, by decide, by decide, { run with slp := { run.slp with sending := none } }, ?_⟩
  decide

theorem witness_ReportQueue :
    (sends true none (List.replicate 31 ⟨.safety, 0x80, []⟩) [] false).slp.queue.length < 32 ∧
      (sends true none (List.replicate 32 ⟨.safety, 0x80, []⟩) [] false).slp.queue.length = 32 := by decide

theorem witness_RequestWaits :
    (Instr.readStatus 9).frame? = some (9, .readStatus) ∧
    (let s := sends true none [] [⟨3, .request .readStatus⟩] false
     s.slp.inReset = none ∧ s.slp.replyPending = true ∧ s.slp.buffer.length < 2) ∧
    (let s := sends true none [] [⟨3, .request .readStatus⟩, ⟨4, .request .readStatus⟩] false
     s.slp.inReset = none ∧ s.slp.replyPending = true ∧ 2 ≤ s.slp.buffer.length) := by decide

theorem witness_MalformedRequestsAnswered :
    State.reset.Ready ∧ ¬(1 ≤ (0x00 : Byte).toNat ∧ (0x00 : Byte).toNat ≤ 0x30) ∧
      ¬(1 ≤ (0x31 : Byte).toNat ∧ (0x31 : Byte).toNat ≤ 0x30) ∧
      (1 ≤ (0x01 : Byte).toNat ∧ (0x30 : Byte).toNat ≤ 0x30 ∧ isBadFrame [0x01] = true ∧ isBadFrame [0x30, 0x00] = true) ∧
      ((Request.readZone 1).wf = true ∧ ([0x00] : Bytes) ≠ []) ∧
      (([0x04] : Bytes) ≠ [] ∧ ([0x04] : Bytes) <+: encodeBody (.readZone 1) ∧ ([0x04] : Bytes) ≠ encodeBody (.readZone 1)) :=
  ⟨⟨rfl, rfl, rfl, rfl⟩, by decide⟩

theorem witness_ResetHoldsThePart :
    stopped.slp.inReset.isSome = true ∧ Instr.goodMark ≠ .powerUp ∧ Instr.goodMark ≠ .supplyDip ∧
      Instr.goodMark ≠ .resetPinLow ∧ Instr.goodMark ≠ .resetEnd ∧
      (∀ o h, Instr.goodMark ≠ .feedbackChange o h ∧ Instr.goodMark ≠ .manualEdge o h ∧
        Instr.goodMark ≠ .manualInputLeavesActiveLevel o h) ∧ ∀ g b, Instr.goodMark ≠ .faultSenseChange g b :=
  ⟨rfl, by simp, by simp, by simp, by simp, by simp, by simp⟩

theorem witness_RefusalChangesNothing :
    (Instr.readZone 9 17).frame? = some (9, .readZone 17) ∧ State.reset.Ready ∧
      (∀ t p z, Instr.readZone 9 17 ≠ .startProgram t p z) ∧ (State.reset.handle (.readZone 17)).status ≠ .ok :=
  ⟨rfl, ⟨rfl, rfl, rfl, rfl⟩, by simp, by decide⟩

/-! ## Witnesses: reads, zones, air -/

/-- A routine call between two tags. -/
def call7 : Call := { id := 7, creation := 3, kind := .routine, a := .tag 0, b := .tag 1, state := .active }

theorem witness_ReadsAnswer :
    (part .run).Ready ∧
    (∃ s : State, s.Ready ∧ s.callOf 7 = some call7) ∧ (1 ≤ 255 ∧ 127 + 1 ≤ 128) ∧ 96 + 32 ≤ 128 :=
  ⟨ready_part _, ⟨{ run with calls := [call7] }, ready_of .run rfl, by decide⟩, by decide, by decide⟩

theorem witness_ReadsRefused :
    (part .run).Ready ∧ run.callOf 1 = none ∧ run.callOf 255 = none ∧ (127 < 128 ∨ False) ∧ 128 < 96 + 33 ∧ 16 < 17 ∧
      24 < 25 :=
  ⟨ready_part _, by decide, by decide, by decide, by decide, by decide, by decide⟩

/-- The zone Z1 in a state of the part. -/
def withZone (m : Mode) (x : Zone) : State := { part m with zones := put 0 x (part m).zones }

theorem witness_SetZone :
    (part .run).Ready ∧ (part .loading).Ready ∧
    -- an undefined binding in RUN
    (run.slp.mode = .run ∧ (run.programs.get 31).defined = false) ∧
    -- a zone that R5 keeps CONFIGURED
    (let s := withZone .run { configured := true, evac := .ordered }
     (s.zones.get 0).configured = true ∧ (s.zones.get 0).evac ≠ .none) ∧
    -- an output that does not let go
    (let s := { withZone .run { configured := true, trip := some 5 } with trips := put 5 { state := .closed } run.trips }
     (s.zones.get 0).trip = some 5 ∧ ¬((s.trips.get 5).state = .opened ∨ (s.trips.get 5).state = .held)) ∧
    -- accepted: rewritten with the view that fits, configured anew, unconfigured
    (let s := withZone .loading { configured := true }
     (s.zones.get 0).configured = true ∧ (s.zones.get 0).view = none) ∧
    ((part .loading).zones.get 0).configured = false ∧ (part .loading).inUse 0 = false :=
  ⟨ready_part _, ready_part _, by decide +kernel, by decide +kernel, by decide +kernel, by decide +kernel, by decide +kernel,
    by decide +kernel⟩

theorem witness_OrderEvacuation :
    (∀ x, (withZone .run x).Ready) ∧ (16 < 17) ∧
    ((withZone .run {}).zones.get 0).configured = false ∧
    ((withZone .run { configured := true, evac := .ordered }).zones.get 0).evac = .ordered ∧
    ((withZone .run { configured := true, evac := .cleared, occupancy := [63] }).zones.get 0).occupancy ≠ [] ∧
    ((withZone .run { configured := true }).zones.get 0).occupancy = [] :=
  ⟨fun _ => ready_of .run rfl, by decide, by decide, by decide, by decide, by decide⟩

theorem witness_LiftEvacuation :
    (∀ x, (withZone .run x).Ready) ∧ 15 < 16 ∧
    ((withZone .run {}).zones.get 0).configured = false ∧
    ((withZone .run { configured := true }).zones.get 0).evac = .none ∧
    (let x := (withZone .run { configured := true, evac := .cleared, key := 15 }).zones.get 0
     x.evac ≠ .none ∧ x.key ≠ 0 ∧ x.key ≠ 14 ∧ x.key = 15) ∧
    ((withZone .run { configured := true, evac := .ordered }).zones.get 0).key = 0 :=
  ⟨fun _ => ready_of .run rfl, by decide, by decide, by decide, by decide, by decide⟩

/-- A channel in a state of the part. -/
def withChannel (x : Channel) : State := { run with channels := put 0 x run.channels }

/-- A channel as SET_CHANNEL writes it, on vehicle 1. -/
def chanV : Channel := { configured := true, source := some (.vehicle 0), alert := 100, alarm := 150 }

/-- The same on input 1 of the head at spur 1, address 1. -/
def chanH : Channel := { chanV with source := some (.head ⟨0, 0⟩ 0), zone := some 0 }

/-- A part with that head and that vehicle, zone 1 CONFIGURED or not, and another channel. -/
def forChannel (home : Bool) (other : Channel) : State :=
  { withChannel {} with
    channels := put 1 other run.channels
    zones := put 0 { configured := home } run.zones
    devices := put 0 { configured := true } run.devices
    vehicles := put 0 { configured := true } run.vehicles }

theorem forChannel_head (home : Bool) (other : Channel) : (forChannel home other).deviceAt ⟨0, 0⟩ = some 0 := by
  cases home <;> rfl

theorem witness_SetChannel :
    (∀ x, (withChannel x).Ready) ∧ (∀ b x, (forChannel b x).Ready) ∧
    ((withChannel { service := .inService }).channels.get 0).service = .inService ∧
    ((forChannel true {}).channels.get 0).service = .outOfService ∧ (forChannel true {}).channelZone 0 = none ∧
    -- check 4 to 7 fail: a stale limit over 60 s on a head; the levels in the wrong order
    ¬(61 ≤ 60) ∧ ¬(150 ≤ 100) ∧
    -- no source; the source taken; no zone
    (run.vehicles.get 0).configured = false ∧
    (∃ d : ChanNo, d ≠ 0 ∧ ((forChannel true chanV).channels.get d).configured = true ∧
      ((forChannel true chanV).channels.get d).source = some (.vehicle 0)) ∧
    ((forChannel false {}).zones.get 0).configured = false ∧
    -- accepted on a head and on a vehicle that stands in no list
    (∃ e, (forChannel true {}).deviceAt ⟨0, 0⟩ = some e ∧ ((forChannel true {}).devices.get e).kind = .gasHead) ∧
    ((forChannel true {}).vehicles.get 0).configured = true ∧ (forChannel true {}).listZone 0 = none ∧
    (chanV.zero ≤ 1023 ∧ chanV.span ≤ 2000 ∧ 1 ≤ chanV.alert ∧ chanV.alert ≤ chanV.alarm ∧
      chanV.hysteresis < chanV.alert ∧ chanV.alarm ≤ 500 ∧ chanV.gas = .ch4) :=
  ⟨fun _ => ready_of .run rfl, fun _ _ => ready_of .run rfl, by decide +kernel, by decide +kernel, by decide +kernel,
    by decide, by decide, by decide +kernel, ⟨1, by decide +kernel⟩, by decide +kernel,
    ⟨0, forChannel_head _ _, by decide +kernel⟩, by decide +kernel, by decide +kernel, by decide⟩

theorem witness_SetService :
    (∀ x, (withChannel x).Ready) ∧ 32 < 33 ∧
    ((withChannel {}).channels.get 0).configured = false ∧
    ((withChannel chanV).channels.get 0).service = .outOfService ∧
    (((withChannel { chanV with service := .inService }).channels.get 0).level = .fault) ∧
    (((withChannel { chanV with service := .inService, level := .normal }).channels.get 0).level ≠ .fault) ∧
    (∀ st, ∃ s : State, s.Ready ∧ (s.channels.get 0).source = some (.head ⟨0, 0⟩ 0) ∧ (s.channels.get 0).configured = true ∧
      (s.channels.get 0).service = .outOfService ∧ s.deviceAt ⟨0, 0⟩ = some 0 ∧ (s.devices.get 0).state = st) ∧
    ((withChannel chanV).channels.get 0).source = some (.vehicle 0) :=
  ⟨fun _ => ready_of .run rfl, by decide, by decide +kernel, by decide +kernel, by decide +kernel, by decide +kernel,
    fun st => ⟨{ withChannel chanH with devices := put 0 { configured := true, state := st } run.devices },
      ready_of .run rfl, rfl, rfl, rfl, rfl, rfl⟩, by decide +kernel⟩

theorem witness_SampleConversion :
    chan7.zero ≤ 1023 ∧ 99 ≤ 4079 ∧ (99 : Int) - 200 < -100 ∧ -100 ≤ (100 : Int) - 200 ∧ (200 : Int) - 200 ≤ 0 ∧
      1 ≤ (201 : Int) - 200 ∧ (3800 * 500 + 2000) / 4000 ≤ rangeMax .ch4 ∧
      rangeMax .ch4 < (3879 * 2000 + 2000) / 4000 := by decide

/-- The same channel with N = 1 and an empty window. -/
def one : Channel := { chan7 with filter := 1, window := [] }

theorem witness_LevelGrading :
    (∀ l ∈ [Level.normal, .alert, .alarm], ({ chan7 with level := l } : Channel).level ≠ .fault) ∧
    (({ chan7 with level := .alarm } : Channel).enter 0 101 false).f + 10 < 150 ∧
    150 ≤ (one.enter 0 150 false).f ∧
    (one.enter 0 99 false).f < 100 ∧
    (({ one with level := .alarm } : Channel).enter 0 89 false).f + 10 < 100 ∧
    ¬(({ one with level := .alarm } : Channel).enter 0 90 false).f + 10 < 100 ∧
    150 ≤ (({ one with level := .alarm } : Channel).enter 0 140 false).f + 10 ∧
    (let y := ({ one with gas := .o2, alert := 190, alarm := 180, rise := 0 } : Channel)
     (y.enter 0 180 false).f ≤ 180 ∧ 180 < (y.enter 0 181 false).f ∧ 190 < (y.enter 0 191 false).f ∧
       190 + 10 ≤ (y.enter 0 200 false).f ∧ ¬190 + 10 ≤ (y.enter 0 199 false).f ∧ 180 + 10 ≤ (y.enter 0 190 false).f ∧
       (y.enter 0 189 false).f < 180 + 10) := by decide

theorem witness_SampleEntered :
    ({ chan7 with level := .fault } : Channel).level = .fault ∧ chan7.level ≠ .fault ∧ 1 ≤ chan7.filter ∧
    chan7.window.length < chan7.filter ∧ ({ chan7 with window := [1, 2, 3, 4] } : Channel).window.length = chan7.filter ∧
    isRising chan7.gas = true ∧ 0 < chan7.rise ∧ ({ chan7 with count := 2 } : Channel).count + 1 < chan7.rateInterval ∧
    chan7.count + 1 = chan7.rateInterval ∧ isRising .o2 = false := by decide

theorem witness_SamplesAndFaults :
    ((withChannel chan7).channels.get 0).service = .inService ∧ ((withChannel chan7).channels.get 0).level ≠ .fault ∧
    ((withChannel chanV).channels.get 0).service = .outOfService ∧
    (let x := (withChannel { chan7 with level := .fault, cause := some .stale }).channels.get 0
     x.level = .fault ∧ x.cause = some .stale ∧ x.cause ≠ some .head) ∧
    4080 ≤ 4080 ∧ 4079 ≤ 4079 ∧ chan7.convert 99 = none ∧ chan7.convert 100 = some (0, false) ∧
    ((chan7.enter 0 90 false).level = chan7.level) ∧ ((chan7.enter 0 104 false).level ≠ chan7.level) ∧
    (let s := withChannel { chan7 with zone := none, staleAt := some 9 }
     s.slp.inReset = none ∧ (s.channels.get 0).staleAt = some 9 ∧ s.channelZone 0 = none) ∧
    ((withChannel chan7).channels.get 0).staleAt = none := by decide +kernel

/-- Channel 1 assigned to zone 1, and the reset by LINE of a part with that channel and signal output 3 reading open. -/
def stoppedAir : State :=
  ({ run with
    zones := put 0 { configured := true } run.zones
    channels := put 0 { chanH with service := .inService, level := .normal, cause := none } run.channels
    signals := put 2 { openCircuit := true } run.signals } : State).beginReset { line := true }

theorem stoppedAir_tags (r : Roster) : stoppedAir.tags.get r = none := by revert r; decide +kernel

theorem witness_ResetEnds_grading : stoppedAir.Stopped { line := true } ∧
    stoppedAir.channelZone 0 = some 0 ∧ (∀ e : ChanNo, e ≠ 0 → stoppedAir.channelZone e = none) ∧
    (stoppedAir.zones.get 0).configured = true ∧ (stoppedAir.zones.get 0).onFault = none ∧
    (∀ d : ChanNo, stopped.channelZone d = none) :=
  ⟨{ cleared := {
      zones := by decide +kernel
      channels := by decide +kernel
      trips := by decide +kernel
      signals := by decide +kernel
      tags := fun r t h => by rw [stoppedAir_tags r] at h; cases h
      calls := ⟨rfl, rfl, rfl⟩
      voice := by decide +kernel
      trunk := ⟨rfl, rfl, rfl, rfl, rfl, rfl⟩
      vehicles := by decide +kernel
      junctions := by decide +kernel
      waits := rfl
      bursts := by decide +kernel
      stations := by decide +kernel
      runners := by decide +kernel
      starts := ⟨rfl, rfl, rfl, rfl⟩
      devices := by decide +kernel
      spurs := by decide +kernel }
     mode := rfl
     receiver := rfl
     buffer := rfl
     replySlot := rfl
     sending := rfl
     queue := rfl
     marker := rfl
     resetDue := rfl
     causes := rfl },
    by decide +kernel, by decide +kernel, by decide +kernel, by decide +kernel, by decide +kernel⟩

/-- The records that the first check of a request refuses: a value one past its list or range in each field but one. -/
theorem witness_FirstChecks :
    (16 < 17 ∧ 32 < 33 ∧ 3 < 4 ∧ 2 < 3 ∧ 1 < 2 ∧ 6 < 7 ∧ 300 < 301 ∧ 4 < 5 ∧ 100 < 101 ∧ 12 < 13 ∧ 24 < 25 ∧ 31 < 32 ∧ 96 < 97 ∧
      16777216 ≤ 16777216 ∧ 29 < 30 ∧ 600 < 601 ∧ 8 < 9) ∧
    (∃ f : ChannelFields, f.source = .head 9 1 1) ∧ (∃ f : ChannelFields, f.source = .vehicle 13) ∧
    (∃ f : ChannelFields, f.source = .other 9) ∧
    (∃ f : DeviceFields, f.kind = deviceKinds.idxOf .callPoint ∧ f.zone = 17 ∧ f.exitGate = 0) ∧
    (∃ f : StationFields, f.served = [16, 17]) ∧ ∃ x : StepFields, x.action = 9 ∧ x.pattern = .other 2 :=
  ⟨by decide, ⟨⟨1, 0, 0, .head 9 1 1, 1, 0, 1, 1, 1, 0, 1, 2, 0, 1, 0⟩, rfl⟩,
    ⟨⟨1, 0, 0, .vehicle 13, 1, 0, 1, 1, 1, 0, 1, 2, 0, 1, 0⟩, rfl⟩, ⟨⟨1, 0, 0, .other 9, 1, 0, 1, 1, 1, 0, 1, 2, 0, 1, 0⟩, rfl⟩,
    ⟨⟨1, 0, 1, 1, deviceKinds.idxOf .callPoint, 17, 0⟩, rfl, rfl, rfl⟩, ⟨⟨1, 0, 1, [16, 17], 1, 1, 0, 0, 0, 0⟩, rfl⟩,
    ⟨⟨9, 0, 0, .other 2, 0, 0⟩, rfl, rfl⟩⟩

/-! ## Witnesses: trip and signal outputs -/

/-- Output T1 in a state of the part. -/
def withTrip (x : Trip) : State := { run with trips := put 0 x run.trips }

/-- Output T1 as the output of zone 1. -/
def boundTrip (x : Trip) (z : Zone) : State :=
  { withTrip x with zones := put 0 { z with configured := true, trip := some 0 } run.zones }

theorem free_output (x : Trip) : (withTrip x).boundZones 0 = [] := rfl

theorem witness_TripRequest :
    (∀ x, (withTrip x).Ready) ∧ 6 < 7 ∧ ((withTrip {}).trips.get 0).state = .held ∧
    (∀ st ∈ [TripState.opening, .opened, .unconfirmed, .closed, .waiting],
      ((withTrip { state := st }).trips.get 0).state = st) ∧
    (withTrip { state := .closed }).boundZones 0 = [] ∧ ((withTrip { state := .closed }).trips.get 0).warning = none ∧
    ((withTrip { state := .closed, feedbackHigh := true }).trips.get 0).powerOff = false ∧
    ((withTrip { state := .closed }).trips.get 0).powerOff = true :=
  ⟨fun _ => ready_of .run rfl, by decide, by decide +kernel, by decide +kernel, rfl, by decide +kernel, by decide +kernel,
    by decide +kernel⟩

theorem witness_RestoreRequest :
    (∀ x z, (boundTrip x z).Ready) ∧ 15 < 16 ∧
    -- not OPEN and not UNCONFIRMED
    ((withTrip { state := .closed }).trips.get 0).state = .closed ∧
    -- locked: the key of the bound zone is 15 and the key given 14
    (let s := boundTrip { state := .opened } { key := 15 }
     (s.trips.get 0).state = .opened ∧ (s.zones.get 0).configured = true ∧ (s.zones.get 0).trip = some 0 ∧
       (s.zones.get 0).key ≠ 0 ∧ (s.zones.get 0).key ≠ 14) ∧
    -- barred: an evacuation, and a manual input at its level
    ((boundTrip { state := .opened } { evac := .cleared }).zones.get 0).evac ≠ .none ∧
    (((withTrip { state := .opened, edge := .falling }).trips.get 0).manualHigh = false) ∧
    -- accepted
    (let s := withTrip { state := .unconfirmed }
     (s.trips.get 0).state = .unconfirmed ∧ s.boundZones 0 = [] ∧ (s.trips.get 0).warning = none ∧
       (s.trips.get 0).edge = .disabled ∧ (∀ z, (s.zones.get z).configured = false)) :=
  ⟨fun _ _ => ready_of .run rfl, by decide, by decide +kernel, by decide +kernel, by decide +kernel, by decide +kernel,
    by decide +kernel⟩

theorem witness_SetTrip :
    (∀ x, (withTrip x).Ready) ∧ ¬(301 ≤ 300) ∧ ¬(5 ≤ 4) ∧
    -- a warning output that another trip output names
    (∃ q : OutNo, ∃ n : SigNo, q ≠ 0 ∧
      (({ run with trips := put 1 { warning := some 3 } run.trips } : State).trips.get q).warning = some n) ∧
    -- a change of mode in WAITING, a change of edge in CLOSED
    (((withTrip { state := .waiting }).trips.get 0).state = .waiting ∧ TripMode.delayed ≠ .direct) ∧
    (((withTrip { state := .closed }).trips.get 0).state ≠ .held ∧ ManualEdge.rising ≠ .disabled) ∧
    -- accepted, the reading kept and the reading changed
    ((withTrip {}).trips.get 0).powerOff = ({ sense := .offWhenLow } : Trip).powerOff ∧
    ({ sense := .offWhenHigh } : Trip).powerOff ≠ ((withTrip {}).trips.get 0).powerOff :=
  ⟨fun _ => ready_of .run rfl, by decide, by decide, ⟨1, 3, by decide +kernel⟩, by decide +kernel, by decide +kernel,
    by decide +kernel, by decide +kernel⟩

theorem witness_TripDemand :
    ((withTrip { state := .opened }).trips.get 0).state ≠ .closed ∧
    (((withTrip { state := .closed }).trips.get 0).state = .closed ∧ ((withTrip { state := .closed }).trips.get 0).mode = .direct) ∧
    -- a wait above 0 with a bound zone and a warning output; a wait of 0 with a zone that qualifies, and with one that does not
    (let s := boundTrip { state := .closed, mode := .delayed, waitPending := 1, warning := some 7 } {}
     (s.trips.get 0).state = .closed ∧ (s.trips.get 0).mode = .delayed ∧ 0 < (s.trips.get 0).waitPending ∧
       s.boundZones 0 = [0] ∧ (s.trips.get 0).warning = some 7) ∧
    (let s := boundTrip { state := .closed, mode := .delayed, waitPending := 0, warning := some 7 } {}
     (s.trips.get 0).waitPending = 0 ∧ .warning 0 ∉ (s.signals.get 7).drivers ∧ (∀ y ∈ s.boundZones 0, s.zoneQualifies y = false)) ∧
    (let s := { boundTrip { state := .closed, mode := .delayed, waitPending := 0 } {} with
       channels := put 0 { chanH with qualification := .alarm, level := .alarm } run.channels }
     ∃ y ∈ s.boundZones 0, s.zoneQualifies y = true) := by
  refine ⟨by decide +kernel, by decide +kernel, by decide +kernel, by decide +kernel, 0, by decide +kernel, by decide +kernel⟩

theorem witness_WaitExpiry :
    (∀ x, (withTrip x).slp.inReset = none) ∧ ((withTrip { state := .closed }).trips.get 0).state ≠ .waiting ∧
    (let s := withTrip { state := .waiting, waitAt := some 9 }
     (s.trips.get 0).state = .waiting ∧ (s.trips.get 0).waitAt = some 9 ∧ s.boundZones 0 = [] ∧
       (s.trips.get 0).warning = none ∧ ∀ z, ¬((s.zones.get z).configured = true)) ∧
    (let s := { boundTrip { state := .waiting, waitAt := some 9 } {} with
       channels := put 0 { chanH with qualification := .alarm, level := .alarm } run.channels }
     ∃ z, (s.zones.get z).configured = true ∧ (s.zones.get z).trip = some 0 ∧ s.zoneQualifies z = true) :=
  ⟨fun _ => rfl, by decide +kernel, by decide +kernel, 0, by decide +kernel⟩

theorem witness_ConfirmExpiries :
    (∀ x, (withTrip x).slp.inReset = none) ∧ ((withTrip { state := .held }).trips.get 0).state ≠ .opening ∧
    ((withTrip { state := .held }).trips.get 0).state ≠ .closed ∧
    (∀ st ∈ [TripState.opening, .closed], let s := withTrip { state := st, confirmAt := some 20 }
      (s.trips.get 0).state = st ∧ (s.trips.get 0).confirmAt = some 20 ∧ s.boundZones 0 = [] ∧
        (s.trips.get 0).warning = none ∧ (s.trips.get 0).backup = none) :=
  ⟨fun _ => rfl, by decide +kernel, by decide +kernel, by decide +kernel⟩

theorem witness_FeedbackChange :
    stopped.slp.inReset.isSome = true ∧ (∀ x, (withTrip x).slp.inReset = none) ∧
    (∀ st, ((withTrip { state := st }).trips.get 0).state = st ∧ ((withTrip { state := st }).trips.get 0).powerOff = true ∧
      ((withTrip { state := st, feedbackHigh := true }).trips.get 0).powerOff = false) :=
  ⟨rfl, fun _ => rfl, fun _ => ⟨rfl, rfl, rfl⟩⟩

theorem witness_ManualInput :
    stopped.slp.inReset.isSome = true ∧ (∀ x, (withTrip x).slp.inReset = none) ∧
    (let x := (withTrip { state := .closed, edge := .falling, manualHigh := true }).trips.get 0
     x.manualHigh ≠ false ∧ x.edge = .falling ∧ x.state = .closed) ∧
    (let x := (withTrip { state := .waiting, edge := .rising }).trips.get 0
     x.manualHigh ≠ true ∧ x.edge = .rising ∧ x.state = .waiting) ∧
    ((withTrip { state := .opened, edge := .rising }).trips.get 0).state ≠ .closed :=
  ⟨rfl, fun _ => rfl, by decide +kernel, by decide +kernel, by decide +kernel⟩

theorem witness_FaultSense :
    stopped.slp.inReset.isSome = true ∧ run.slp.inReset = none ∧ (run.signals.get 7).openCircuit = false ∧
      (run.signals.get 7).openCircuit ≠ true := by decide +kernel

theorem witness_SignalPattern :
    Driver.warning 5 ∈ [Driver.runner 0 .slow 7, .warning 5] ∧
    ((∀ d ∈ [Driver.runner 1 .slow 3], ∃ q p w, d = .runner q p w ∧ w < 4) ∧
      ∀ d ∈ [Driver.runner 2 .steady 4], ∃ q p w, d = .runner q p w ∧ w ≤ 4) ∧
    (let s (p : Option Pattern) : State := { run with now := 29, signals := put 0 { shown := p, phaseFrom := 3 } run.signals }
     ((s none).signals.get 0).shown = none ∧ ((s (some .steady)).signals.get 0).shown = some .steady ∧
       29 = ((s (some .slow)).signals.get 0).phaseFrom + 10 * 2 + 6 ∧
       29 = ((s (some .fast)).signals.get 0).phaseFrom + 2 * 13 + 0) :=
  ⟨by simp, ⟨by simp, by simp⟩, by decide +kernel⟩

/-! ## Witnesses: tags, calls, trunk -/

/-- Roster number 1 in a state of the part. -/
def withTag (x : Tag) : State := { run with tags := put 0 (some x) run.tags }

theorem no_tags (r : Roster) : run.tags.get r = none := by revert r; decide +kernel

theorem witness_EnrollAndRemoveTag :
    (∀ x, (withTag x).Ready) ∧ run.Ready ∧ 64 < 65 ∧ 16777216 ≤ 16777216 ∧ 29 < 30 ∧ 600 < 601 ∧
    (∃ (q : Roster) (t : Tag), number q ≠ 2 ∧ (withTag { id := 5, absence := 30 }).tags.get q = some t ∧ t.id = 5) ∧
    (¬∃ (q : Roster) (t : Tag), number q ≠ 64 ∧ run.tags.get q = some t ∧ t.id = 5) ∧
    (∃ s : State, s.Ready ∧ ∀ q, s.tags.get q ≠ none) ∧
    (run.tags.get 63 = none ∧ run.tags.get 0 = none ∧ ∀ q < (0 : Roster), run.tags.get q ≠ none) ∧
    (withTag { id := 5, absence := 30 }).tags.get 0 = some { id := 5, absence := 30 } ∧
    (withTag { id := 5, absence := 30, call := some 3 }).tags.get 0 = some { id := 5, absence := 30, call := some 3 } ∧
    (let s := { withTag { id := 5, absence := 30, state := .placed, zone := some 15 } with
       zones := put 15 { configured := true, occupancy := [0] } run.zones }
     s.tagZone 0 = some 15 ∧ (s.zones.get 15).evac ≠ .ordered) :=
  ⟨fun _ => ready_of .run rfl, ready_part _, by decide, by decide, by decide, by decide,
    ⟨0, { id := 5, absence := 30 }, by decide, rfl, rfl⟩, (by rintro ⟨q, t, -, h, -⟩; rw [no_tags] at h; cases h),
    ⟨{ run with tags := Vector.replicate 64 (some { id := 5, absence := 30 }) }, ready_of .run rfl, by simp [Vector.get]⟩,
    ⟨no_tags _, no_tags _, fun q h => absurd h (by simp)⟩, rfl, rfl, by decide +kernel⟩

theorem witness_PageAckAbsence :
    (∀ x, (withTag x).Ready) ∧ 64 < 65 ∧ run.tags.get 63 = none ∧
    (∀ st, ∃ t, (withTag { id := 5, absence := 30, state := st }).tags.get 0 = some t ∧ t.state = st) ∧
    (∀ x, (withTag x).slp.inReset = none) ∧ (∀ t, run.tags.get 0 = some t → t.absentAt = none) ∧
    ∃ t, (withTag { id := 5, absence := 30, absentAt := some 300 }).tags.get 0 = some t ∧ t.absentAt = some 300 :=
  ⟨fun _ => ready_of .run rfl, by decide, no_tags _, fun _ => ⟨_, rfl, rfl⟩, fun _ => rfl,
    (fun t h => by rw [no_tags] at h; cases h), ⟨_, rfl, rfl⟩⟩

theorem witness_TagPlacement :
    (∀ x, (withTag x).tags.get 0 = some x) ∧
    (∀ st, ({ id := 5, absence := 30, state := st } : Tag).state = st) ∧
    (⟨⟨0, 0⟩, 15, true⟩ : Point).exitGate = true ∧ (⟨⟨0, 0⟩, 15, false⟩ : Point).exitGate = false ∧
    -- moved: 10 s unheard at the current call point, or two steps stronger; kept: one step and 9.9 s
    (let t : Tag := { id := 5, absence := 30, state := .placed, zone := some 0, cur := some ⟨0, 0⟩, strength := 5
                      curHeard := some 100 }
     t.zone ≠ some 15 ∧ t.cur ≠ none ∧ 100 + 100 ≤ 200 ∧ ¬100 + 100 ≤ 199 ∧ t.strength + 2 ≤ 7 ∧ ¬t.strength + 2 ≤ 6) ∧
    (let s := { run with zones := put 15 { configured := true, occupancy := [0] } run.zones }
     (0 : Roster) ∈ (s.zones.get 15).occupancy ∧ s.tagZone 1 = none ∧ (s.zones.get 15).evac ≠ .cleared) :=
  ⟨fun _ => rfl, fun _ => rfl, rfl, rfl, by decide, by decide +kernel⟩

/-- The trunk UP, a call point, and a tag that stands at it. -/
def reachable (x : Tag) : State :=
  { withTag x with
    trunk := { state := .up }, devices := put 4 { configured := true, kind := .callPoint, zone := some 0 } run.devices }

/-- That tag. -/
def tag5 : Tag :=
  { id := 5, absence := 30, state := .placed, zone := some 0, cur := some ⟨0, 0⟩, lastHeard := some 0 }

theorem witness_PlaceCall :
    (∀ x, (reachable x).Ready) ∧ 64 < 65 ∧ run.tags.get 63 = none ∧ run.trunk.state ≠ .up ∧
    (let s := { reachable tag5 with calls := List.replicate 16 call7 }
     s.trunk.state = .up ∧ 16 ≤ s.calls.length) ∧
    (let s := { reachable { tag5 with state := .missing } with nextCallId := 255 }
     s.trunk.state = .up ∧ s.calls.length < 16 ∧ s.tags.get 0 = some { tag5 with state := .missing } ∧
       (1 ≤ s.nextCallId ∧ s.nextCallId ≤ 255 ∧ (∀ c ∈ s.calls, c.id ≠ s.nextCallId) ∧
         (∀ x ∈ s.trunk.held, x.holder ≠ .call s.nextCallId) ∧ ∀ w ∈ s.trunk.queue, w.holder ≠ .call s.nextCallId)) ∧
    (let s := { reachable tag5 with now := 149 }
     s.tags.get 0 = some tag5 ∧ tag5.call = none ∧ s.now < 0 + 150 ∧ s.curEntry 0 = some 4 ∧ s.freeChannel 4 = some 0 ∧
       s.trunk.freeSlot = some 0 ∧ s.handOffs = []) :=
  ⟨fun _ => ready_of .run rfl, by decide, no_tags _, by decide, by decide, by decide, rfl, rfl, by decide, rfl, rfl, rfl, rfl⟩

/-- A part with one call in its table. -/
def withCall (c : Call) : State := { run with calls := [c] }

theorem witness_CallEnds :
    (∀ c, (withCall c).Ready) ∧ run.callOf 1 = none ∧ run.callOf 255 = none ∧
    (withCall { call7 with id := 255 }).callOf 255 ≠ none ∧ (withCall call7).slp.inReset = none ∧
    (∀ c, (withCall call7).callOf 7 = some c → c.state ≠ .held ∨ c.deadline = none) ∧
    (∀ st, (withCall { call7 with state := st, deadline := some 100 }).callOf 7 =
      some { call7 with state := st, deadline := some 100 }) ∧
    (∀ c, (withCall call7).callOf 7 = some c → c.lostA = none ∧ c.lostB = none) ∧
    (withCall { call7 with lostA := some 150, lostB := some 150 }).callOf 7 =
      some { call7 with lostA := some 150, lostB := some 150 } ∧ (withCall call7).trunk.queue = [] :=
  ⟨fun _ => ready_of .run rfl, by decide, by decide, by decide, rfl, fun c h => by cases h; exact .inl (by decide),
    fun _ => rfl, fun c h => by cases h; exact ⟨rfl, rfl⟩, rfl, rfl⟩

/-- Tag 1 at the call point of `reachable`, in a call. -/
def inCall (t : Tag) (c : Call) : State := { reachable { t with call := some 7 } with calls := [c] }

/-- A call of tag 1 that rings it. -/
def rings : Call := { call7 with a := .surface, b := .tag 0, state := .ringing, chanB := some ⟨4, 3⟩, lostB := some 150 }

theorem witness_TagPlacement_entries :
    -- the list: an enrolled tag, alone with its id; entries of no enrolled tag
    (let h : HeardEntry := ⟨5, 3, .none⟩
     (withTag tag5).tags.get 0 = some tag5 ∧ tag5.id = h.tagId ∧ (∀ q : Roster, q ≠ 0 → (withTag tag5).tags.get q = none)) ∧
    (∀ h ∈ [(⟨9, 1, .none⟩ : HeardEntry), ⟨9, 1, .emergency⟩], ∀ q, run.tags.get q = none ∧ h.tagId = 9) ∧
    -- one entry: no call; a call and the tag left, heard at a changed call point, kept
    (let p : Point := ⟨⟨0, 0⟩, 0, true⟩
     tag5.call = none ∧ p.exitGate = true ∧ tag5.state ≠ .out) ∧
    (let p : Point := ⟨⟨0, 1⟩, 0, false⟩
     p.exitGate = false ∧ tag5.cur ≠ some p.ref ∧ tag5.zone = some p.zone) ∧
    (let p : Point := ⟨⟨0, 0⟩, 0, false⟩
     ¬(p.exitGate = true) ∧ tag5.cur = some p.ref) ∧
    (inCall tag5 rings).tags.get 0 = some { tag5 with call := some 7 } := by
  refine ⟨by decide +kernel, fun h hh q => ⟨no_tags q, ?_⟩, by decide, by decide, by decide, rfl⟩
  simp only [List.mem_cons, List.not_mem_nil, or_false] at hh
  rcases hh with rfl | rfl <;> rfl

theorem witness_TagPlacement_buttons :
    -- the CALL dial codes: surface, a roster number, none of the roster
    ((0 : Nat) = 0 ∧ number (63 : Roster) = 64 ∧ 64 < 65) ∧
    (tag5.state = .placed ∧ tag5.call = none ∧ ({ tag5 with state := .missing } : Tag).state ≠ .placed) ∧
    -- the table of calls: room, full, full of EMERGENCY calls, full with a latest ROUTINE call, full with a latest PRIORITY call
    ¬16 ≤ (reachable tag5).calls.length ∧ 16 ≤ (List.replicate 16 call7).length ∧
    (∀ c ∈ List.replicate 16 { call7 with kind := .emergency }, c.kind = .emergency) ∧
    (let last : Call := { call7 with creation := 4 }
     let l := List.replicate 14 call7 ++ [{ call7 with kind := .priority, creation := 9 }, last]
     16 ≤ l.length ∧ last ∈ l ∧ last.kind = .routine ∧ ∀ d ∈ l, d ≠ last → d.kind = last.kind → d.creation < last.creation) ∧
    (let last : Call := { call7 with kind := .priority, creation := 4 }
     let l := List.replicate 15 { call7 with kind := .priority } ++ [last]
     16 ≤ l.length ∧ last ∈ l ∧ (∀ d ∈ l, d.kind ≠ .routine) ∧
       ∀ d ∈ l, d ≠ last → d.kind = last.kind → d.creation < last.creation) ∧
    -- a tag in a call: an EMERGENCY call, another that ends SUPERSEDED, one that rings it, one that does not; with a page or not
    ((inCall tag5 { call7 with kind := .emergency }).callOf 7 = some { call7 with kind := .emergency }) ∧
    ((inCall tag5 rings).callOf 7 = some rings ∧ rings.kind ≠ .emergency ∧
      ((inCall tag5 rings).csEnd 7 .superseded).calls.length < 16 ∧ rings.state = .ringing ∧ rings.b = .tag 0) ∧
    ((inCall tag5 call7).callOf 7 = some call7 ∧ call7.state ≠ .ringing) ∧
    ∀ page, ({ tag5 with page := page } : Tag).page = page :=
  ⟨by decide, by decide, by decide, by decide, by decide, by decide, by decide, rfl, by decide +kernel, by decide +kernel,
    fun _ => rfl⟩

theorem witness_CallEnds_heard :
    -- a free channel at the call point where the tag is heard, and none
    (let s := inCall tag5 rings
     s.callOf 7 = some rings ∧ s.curEntry 0 = some 4 ∧ s.freeChannel 4 = some 0) ∧
    (let s := { inCall tag5 rings with voice := put 4 (Vector.replicate 4 (some 7)) run.voice }
     s.callOf 7 = some rings ∧ s.curEntry 0 = some 4 ∧ s.freeChannel 4 = none) := by decide +kernel

/-- A part with a trunk. -/
def withTrunk (x : Trunk) : State := { run with trunk := x }

theorem witness_SetTrunk :
    (∀ x, (withTrunk x).Ready) ∧
    -- out of range: slot 7, slot 32, twice the same, none, 25
    ¬(8 ≤ 7) ∧ ¬(32 ≤ 31) ∧ ¬([8, 8] : List Nat).Nodup ∧ ¬(1 ≤ ([] : List Nat).length) ∧
    ¬((List.range 25).length ≤ 24) ∧
    (([8, 31] : List Nat).Nodup ∧ (∀ n ∈ ([8, 31] : List Nat), 8 ≤ n ∧ n ≤ 31)) ∧
    (let s := withTrunk { state := .up, held := [⟨1, .call 7, .routine⟩] }
     ∃ x ∈ s.trunk.held, x.slot ∈ s.trunk.allotment ∧ x.slot.val + 8 ∉ ([8, 31] : List Nat)) ∧
    (withTrunk { state := .up }).trunk.queue = [] ∧ (withTrunk {}).trunk.state ≠ .up :=
  ⟨fun _ => ready_of .run rfl, by decide, by decide, by decide, by decide, by decide, by decide,
    ⟨⟨1, .call 7, .routine⟩, by decide, by decide, by decide⟩, rfl, by decide⟩

theorem no_bursts (v : VehNo) : run.bursts.get v = none := by revert v; decide +kernel

/-- A burst of vehicle 1 that holds a slot and has one quarter to send. -/
def sending : Burst :=
  { origin := .host, first := 0, forwarding := .holding, slot := some 0, received := [.q1 300 .ok] }

theorem witness_TrunkMarks :
    (∀ x, (withTrunk x).slp.inReset = none) ∧
    (∀ v b, (withTrunk { state := .up }).bursts.get v = some b →
      ¬(b.inProgress = true ∧ b.forwarding = .holding ∧ b.forwarded < b.received.length)) ∧
    (let s := { withTrunk { state := .up } with bursts := put 0 (some sending) run.bursts }
     s.bursts.get 0 = some sending ∧ sending.inProgress = true ∧ sending.forwarding = .holding ∧
       sending.forwarded < sending.received.length ∧ sending.gatherEnd = none ∧
       ∀ w : VehNo, w ≠ 0 → s.bursts.get w = none) ∧
    ((withTrunk {}).trunk.state ≠ .up ∧ (withTrunk {}).trunk.marks = 0) ∧ 1 ≤ (withTrunk { marks := 1 }).trunk.marks ∧
    (withTrunk { state := .up, misses := 2 }).trunk.misses < 3 ∧ 3 ≤ (withTrunk { state := .up, misses := 3 }).trunk.misses ∧
    ((withTrunk { state := .up, misses := 3 }).trunk.held = [] ∧ (withTrunk { state := .up, misses := 3 }).trunk.queue = []) ∧
    (withTrunk { misses := 2 }).trunk.misses < 3 ∧ 3 ≤ (withTrunk { misses := 3 }).trunk.misses := by
  refine ⟨fun _ => rfl, fun v b h => ?_, by decide +kernel, by decide, by decide, by decide, by decide, by decide, by decide,
    by decide⟩
  have h' : run.bursts.get v = some b := h
  rw [no_bursts] at h'; cases h'

/-- A trunk with one slot, held by a class. -/
def oneSlot (c : TrunkClass) (q : List Waiting) : State :=
  withTrunk { state := .up, allotment := [0], held := [⟨0, .call 7, c⟩], queue := q }

theorem witness_SlotRequest :
    (withTrunk {}).trunk.state ≠ .up ∧
    (∃ y ∈ (oneSlot .routine []).trunk.held, y.holder = .call 7) ∧
    (∃ w ∈ (oneSlot .routine [⟨.burst 0, .telemetry⟩]).trunk.queue, w.holder = .burst 0) ∧
    (let x := (withTrunk { state := .up }).trunk
     x.state = .up ∧ ¬((∃ y ∈ x.held, y.holder = .runner 0) ∨ ∃ w ∈ x.queue, w.holder = .runner 0) ∧
       ((0 : SlotNo) ∈ x.allotment ∧ ∀ y ∈ x.held, y.slot ≠ 0)) ∧
    (let x := (oneSlot .routine []).trunk
     (∀ k : SlotNo, ¬(k ∈ x.allotment ∧ ∀ y ∈ x.held, y.slot ≠ k)) ∧ x.held = [] ++ ⟨0, .call 7, .routine⟩ :: [] ∧
       mayPreempt .alarm .routine = true) ∧
    (let x := (oneSlot .alarm [⟨.call 8, .alarm⟩, ⟨.burst 0, .telemetry⟩]).trunk
     (∀ y ∈ x.held, mayPreempt .alarm y.cls = false) ∧ x.queue.length < 16 ∧
       x.queue = [⟨.call 8, .alarm⟩] ++ [⟨.burst 0, .telemetry⟩] ∧ classRank .alarm ≤ classRank .alarm ∧
       classRank .alarm < classRank .telemetry) := by
  refine ⟨by decide, ⟨_, .head _, rfl⟩, ⟨_, .head _, rfl⟩, ⟨rfl, ?_, by decide, by decide⟩, by decide, by decide⟩
  rintro (⟨y, h, -⟩ | ⟨y, h, -⟩) <;> simp [withTrunk] at h

/-- A burst of vehicle 1 that waits for a slot. -/
def asking : Burst := { sending with forwarding := .pending, slot := none }

/-- A full request queue whose last entry is that burst, or a routine call. -/
def fullQueue (last : Waiting) : State :=
  { oneSlot .alarm (List.replicate 15 ⟨.call 8, .alarm⟩ ++ [last]) with bursts := put 0 (some asking) run.bursts }

theorem witness_SlotRequest_full :
    (let s := fullQueue ⟨.call 9, .routine⟩
     (∀ y ∈ s.trunk.held, mayPreempt .routine y.cls = false) ∧ 16 ≤ s.trunk.queue.length ∧
       s.trunk.queue = List.replicate 15 ⟨.call 8, .alarm⟩ ++ [⟨.call 9, .routine⟩] ∧ classRank .routine ≤ classRank .routine) ∧
    (let s := fullQueue ⟨.burst 0, .telemetry⟩
     (∀ y ∈ s.trunk.held, mayPreempt .alarm y.cls = false) ∧ 16 ≤ s.trunk.queue.length ∧
       s.trunk.queue = List.replicate 15 ⟨.call 8, .alarm⟩ ++ [⟨.burst 0, .telemetry⟩] ∧
       classRank .alarm < classRank .telemetry ∧ s.bursts.get 0 = some asking ∧ asking.inProgress = true ∧
       asking.gatherEnd = none ∧
       (List.replicate 15 ⟨.call 8, .alarm⟩ : List Waiting) = List.replicate 15 ⟨.call 8, .alarm⟩ ++ [] ∧
       (∀ w ∈ (List.replicate 15 ⟨.call 8, .alarm⟩ : List Waiting), classRank w.cls ≤ classRank .alarm)) := by decide

/-! ## Witnesses: haulage, bursts and refuges -/

/-- A part with vehicle V1. -/
def withVehicle (x : Vehicle) : State := { run with vehicles := put 0 x run.vehicles }

/-- A leg over junction 24. -/
def leg24 : Leg := ⟨23, 1, 2, false⟩

theorem witness_StopAndReleaseVehicle :
    (∀ x, (withVehicle x).Ready) ∧ 12 < 13 ∧ ((withVehicle {}).vehicles.get 0).configured = false ∧
    (∀ stop, ((withVehicle { configured := true, stop := stop }).vehicles.get 0).configured = true ∧
      ((withVehicle { configured := true, stop := stop }).vehicles.get 0).stop = stop) ∧
    (({ trip := true } : StopSet).host = false ∧ ({ trip := true } : StopSet).trip = true) ∧
    ({ host := true } : StopSet).host = true ∧
    (withVehicle { configured := true }).waits = [] ∧ ((withVehicle { configured := true }).vehicles.get 0).claim = none ∧
    (let s := withVehicle { configured := true, claim := some { legs := [leg24], granted := 7 } }
     (s.vehicles.get 0).claim = some { legs := [leg24], granted := 7 } ∧ leg24.cleared = false ∧ s.waits = [] ∧
       (s.junctions.get leg24.junction).walkPending = false) :=
  ⟨fun _ => ready_of .run rfl, by decide, by decide +kernel, fun _ => ⟨rfl, rfl⟩, by decide, by decide, rfl, by decide +kernel,
    by decide +kernel⟩

theorem witness_SetVehicle :
    (∀ x, (withVehicle x).Ready) ∧ ¬(601 ≤ 600) ∧ ¬(2 ≤ 1) ∧ (16777215 < 16777216 ∧ 30 ≤ 600 ∧ 600 ≤ 600 ∧ 2 ≤ 30 ∧ 30 ≤ 30) ∧
    (∃ w : VehNo, w ≠ 5 ∧ ((withVehicle { configured := true, tagId := 9 }).vehicles.get w).configured = true ∧
      ((withVehicle { configured := true, tagId := 9 }).vehicles.get w).tagId = 9) ∧
    (¬∃ w : VehNo, w ≠ 0 ∧ ((withVehicle { configured := true, tagId := 9 }).vehicles.get w).configured = true ∧
      ((withVehicle { configured := true, tagId := 9 }).vehicles.get w).tagId = 9) ∧
    (∃ c : ChanNo, ((withChannel chanV).channels.get c).configured = true ∧
      ((withChannel chanV).channels.get c).source = some (.vehicle 0)) ∧
    (¬∃ c : ChanNo, ((withVehicle {}).channels.get c).configured = true ∧
      ((withVehicle {}).channels.get c).source = some (.vehicle 0)) ∧
    ((withVehicle { claim := some { legs := [leg24], granted := 7 } }).vehicles.get 0).claim ≠ none ∧
    ((withVehicle { configured := true, tagId := 9, kind := .scoop }).vehicles.get 0).kind = .scoop ∧
    (let s := withVehicle {}
     (s.vehicles.get 0).configured = false ∧ s.listZone 0 = none ∧ (s.vehicles.get 0).stop = {} ∧ s.bursts.get 0 = none ∧
       (s.vehicles.get 0).claim = none ∧ s.waits = []) :=
  ⟨fun _ => ready_of .run rfl, by decide, by decide, by decide, ⟨0, by decide +kernel⟩, by decide +kernel,
    ⟨0, by decide +kernel⟩, by decide +kernel, by decide +kernel, by decide +kernel, by decide +kernel⟩

/-- Zone 16, junction 24 and a beacon at spur 8, address 31. -/
def forJunction (x : Junction) (z : Zone) (d : DeviceState) : State :=
  { run with
    zones := put 15 z run.zones, junctions := put 23 x run.junctions
    devices := put 95 { configured := true, ref := ⟨7, 30⟩, kind := .beacon, state := d } run.devices }

theorem witness_SetJunction :
    (∀ x z d, (forJunction x z d).Ready) ∧ ¬(5 ≤ 4) ∧ ¬(2 ≤ 1) ∧ (2 ≤ 4 ∧ 4 ≤ 4 ∧ 5 ≤ 60 ∧ 60 ≤ 60) ∧
    (((forJunction { holder := .walk } {} .online).junctions.get 23).holder ≠ .none) ∧
    ((forJunction {} {} .online).zones.get 15).configured = false ∧
    (∃ k : JuncNo, k ≠ 5 ∧ ((forJunction { configured := true, beacon := some ⟨7, 30⟩ } {} .online).junctions.get k).configured = true ∧
      ((forJunction { configured := true, beacon := some ⟨7, 30⟩ } {} .online).junctions.get k).beacon = some ⟨7, 30⟩) ∧
    (∀ d ∈ [DeviceState.online, .suspect], let s := forJunction {} { configured := true, evac := .cleared } d
      (s.junctions.get 23).holder = .none ∧ (s.junctions.get 23).walkPending = false ∧
      (¬∃ v c l, (s.vehicles.get v).claim = some c ∧ l ∈ c.legs ∧ l.junction = 23) ∧ s.waits = [] ∧
      (s.zones.get 15).configured = true ∧ s.deviceAt ⟨7, 30⟩ = some 95 ∧ (s.devices.get 95).kind = .beacon ∧
      (s.devices.get 95).state = d ∧
      ¬∃ k : JuncNo, k ≠ 23 ∧ (s.junctions.get k).configured = true ∧ (s.junctions.get k).beacon = some ⟨7, 30⟩) := by
  have none_claims : ∀ v : VehNo, (run.vehicles.get v).claim = none := by decide +kernel
  refine ⟨fun _ _ _ => ready_of .run rfl, by decide, by decide, by decide, by decide +kernel, by decide +kernel,
    ⟨23, by decide +kernel⟩, fun d hd => ⟨?_, ?_, ?_, rfl, ?_, ?_, ?_, ?_, ?_⟩⟩
  case refine_3 =>
    rintro ⟨v, c, l, h, -⟩
    have h' : (run.vehicles.get v).claim = some c := h
    rw [none_claims] at h'; cases h'
  all_goals rcases List.mem_cons.mp hd with rfl | hd
  all_goals first | decide +kernel | (rcases List.mem_singleton.mp hd with rfl; decide +kernel)

theorem witness_HaulageExpiries :
    (∀ x, (withVehicle x).slp.inReset = none) ∧ ((withVehicle {}).vehicles.get 0).lostAt = none ∧
    ((withVehicle { lostAt := some 600 }).vehicles.get 0).lostAt = some 600 ∧ (withVehicle {}).waits = [] ∧
    (let w : WaitEntry := ⟨0, [leg24], 10⟩
     ({ withVehicle { state := .claimWait } with waits := [w] } : State).waitOf 0 = some w) ∧
    (let c : Claim := { legs := [leg24], granted := 7, overstayAt := some 907 }
     ((withVehicle { claim := some c }).vehicles.get 0).claim = some c ∧ c.overstayAt = some 907) ∧
    ((run.junctions.get 23).walkAt = none) ∧
    (let s := forJunction { holder := .walk, walkAt := some 60 } {} .online
     (s.junctions.get 23).walkAt = some 60 ∧ (s.junctions.get 23).holder = .walk ∧ (s.junctions.get 23).walkPending = false ∧
       s.waits = []) :=
  ⟨fun _ => rfl, by decide +kernel, by decide +kernel, rfl, by decide +kernel, by decide +kernel, by decide +kernel,
    by decide +kernel⟩

/-- Junction 24 in service with its beacon, zone 16, and vehicle V1 of tag id 9. -/
def forRead (j : Junction) (x : Vehicle) : State :=
  { forJunction { j with configured := true, zone := some 15, beacon := some ⟨7, 30⟩, state := .inService }
      { configured := true } .online with
    vehicles := put 0 { x with configured := true, tagId := 9 } run.vehicles }

theorem witness_HaulageExpiries_reads :
    -- no junction names the beacon; the lowest does; no vehicle carries the id, one alone does
    (∀ j : JuncNo, ¬((run.junctions.get j).configured = true ∧ (run.junctions.get j).beacon = some ⟨7, 30⟩)) ∧
    (let s := forRead {} {}
     ((s.junctions.get 23).configured = true ∧ (s.junctions.get 23).beacon = some ⟨7, 30⟩) ∧
       (∀ k < (23 : JuncNo), (s.junctions.get k).configured = false) ∧
       (∀ v : VehNo, (run.vehicles.get v).configured = false) ∧
       ((s.vehicles.get 0).configured = true ∧ (s.vehicles.get 0).tagId = 9) ∧
       ∀ w : VehNo, w ≠ 0 → (s.vehicles.get w).configured = false) ∧
    -- the position: unseen and lost, the zone kept and changed, in no list and in another
    (∀ st, ((forRead {} { state := st }).vehicles.get 0).state = st) ∧
    (((forRead {} {}).junctions.get 23).zone = some 15 ∧ ((forRead {} { zone := some 15 }).vehicles.get 0).zone = some 15) ∧
    (let s := { forRead {} { zone := some 0, state := .idle } with
       zones := put 0 { vehicles := [0] } (forRead {} {}).zones }
     (s.vehicles.get 0).zone ≠ some 15 ∧ s.listZone 0 = some 0 ∧ (forRead {} {}).listZone 0 = none ∧
       (s.vehicles.get 0).stop = {} ∧ (s.zones.get 15).evac = .none ∧ isTripped (s.zones.get 15).view = false ∧
       ∀ c : ChanNo, (s.channels.get c).configured = false) :=
  ⟨by decide +kernel, by decide +kernel, fun _ => rfl, by decide +kernel, by decide +kernel⟩

theorem witness_HaulageExpiries_approach :
    ((forRead {} { stop := { host := true } }).vehicles.get 0).stop ≠ {} ∧
    -- a claim that names every leg approached, and one that does not
    (let c : Claim := { legs := [leg24], granted := 7 }
     ((forRead {} { claim := some c }).vehicles.get 0).claim = some c ∧
       (∀ l ∈ [(⟨24, 1, 2⟩ : RawLeg)], ∃ k ∈ c.legs, number k.junction = l.junction) ∧
       ¬∀ l ∈ [(⟨23, 1, 2⟩ : RawLeg)], ∃ k ∈ c.legs, number k.junction = l.junction) ∧
    -- a leg twice, and a branch that the junction lacks; a leg that fits
    ¬([24, 24] : List Nat).Nodup ∧ ¬(3 ≤ ((forRead {} {}).junctions.get 23).branches) ∧
    (let s := forRead {} {}
     (s.vehicles.get 0).stop = {} ∧ (s.vehicles.get 0).claim = none ∧ ([24] : List Nat).Nodup ∧
       List.Forall₂ (fun (l : RawLeg) (k : Leg) => number k.junction = l.junction ∧ k.entry = l.entry ∧ k.exit = l.exit ∧
         k.cleared = false ∧ (s.junctions.get k.junction).configured = true ∧
         (1 ≤ l.entry ∧ l.entry ≤ (s.junctions.get k.junction).branches) ∧
         1 ≤ l.exit ∧ l.exit ≤ (s.junctions.get k.junction).branches) [⟨24, 1, 2⟩] [leg24] ∧
       s.slp.mode = .run ∧ (s.junctions.get 23).state ≠ .failed ∧ (s.junctions.get 23).isFree = true ∧
       (s.vehicles.get 0).state = .unseen) ∧
    (part .loading).slp.mode = .loading ∧ (run.junctions.get 23).state = .failed ∧
    -- not free: with an entry of its own, with room for one, with 8
    (((forRead { holder := .walk } {}).junctions.get 23).isFree = false ∧
      ((forRead { holder := .walk } {}).junctions.get 23).state = .inService) ∧
    (({ forRead {} {} with waits := [⟨0, [leg24], 5⟩] } : State).waitOf 0 = some ⟨0, [leg24], 5⟩) ∧
    ((List.replicate 7 (⟨1, [leg24], 5⟩ : WaitEntry)).length < 8 ∧ 8 ≤ (List.replicate 8 (⟨1, [leg24], 5⟩ : WaitEntry)).length ∧
      ∀ w ∈ List.replicate 8 (⟨1, [leg24], 5⟩ : WaitEntry), w.vehicle ≠ 0) := by
  refine ⟨by decide +kernel, ⟨rfl, by decide, by decide⟩, by decide, by decide +kernel, ⟨by decide +kernel, by decide +kernel,
    by decide, .cons (by decide +kernel) .nil, by decide +kernel, by decide +kernel, by decide +kernel, by decide +kernel⟩,
    rfl, by decide +kernel, by decide +kernel, by decide +kernel, by decide⟩

theorem witness_HaulageExpiries_clears :
    -- no leg held there; the last leg held; another leg remains
    (∀ c, (run.vehicles.get 0).claim = some c → ∀ l ∈ c.legs, l.junction = 23 → l.cleared = true) ∧
    (let c : Claim := { legs := [⟨22, 1, 2, true⟩, leg24], granted := 7 }
     ((forRead { holder := .claim 0 } { claim := some c }).vehicles.get 0).claim = some c ∧ leg24 ∈ c.legs ∧
       leg24.junction = 23 ∧ leg24.cleared = false ∧
       ∀ k ∈ c.legs.map fun k => if k.junction = 23 then { k with cleared := true } else k, k.cleared = true) ∧
    (∃ k ∈ [(⟨22, 1, 2, false⟩ : Leg), { leg24 with cleared := true }], k.cleared = false) ∧
    -- a walk: pending, taken; release processing with and without a pending walk
    ((forRead { holder := .evacuation } {}).junctions.get 23).holder = .evacuation ∧
    ((forRead { holder := .claim 0 } {}).junctions.get 23).holder = .claim 0 ∧
    (let s := forRead { walkPending := true } {}
     (s.junctions.get 23).state = .inService ∧ (s.junctions.get 23).holder = .none ∧ (s.junctions.get 23).walkPending = true ∧
       s.waits = []) ∧
    (∀ j ∈ [(23 : JuncNo)], ((forRead {} {}).junctions.get j).walkPending = false) := by
  refine ⟨fun c h => ?_, by decide +kernel, by decide, by decide +kernel, by decide +kernel, by decide +kernel, by decide +kernel⟩
  have h' : (run.vehicles.get 0).claim = none := by decide +kernel
  rw [h'] at h; cases h

/-- Vehicle V1, last read at junction 24, and its burst. -/
def forBurst (x : Vehicle) (b : Option Burst) : State :=
  { forJunction { configured := true, state := .inService, beacon := some ⟨7, 30⟩ } {} .online with
    vehicles := put 0 { x with configured := true, lastJunction := some 23 } run.vehicles, bursts := put 0 b run.bursts }

theorem witness_BurstStarts :
    (∀ x b, (forBurst x b).Ready) ∧ 12 < 13 ∧ 3 < 4 ∧ ((withVehicle {}).vehicles.get 0).configured = false ∧
    (∃ b, (forBurst {} (some sending)).bursts.get 0 = some b ∧ b.inProgress = true) ∧
    (((forBurst {} none).vehicles.get 0).configured = true ∧ (forBurst {} none).bursts.get 0 = none ∧
      ((forBurst {} none).vehicles.get 0).state = .unseen) ∧
    (let s := forBurst { state := .lost } none
     (s.vehicles.get 0).state ≠ .unseen ∧ (s.vehicles.get 0).lastJunction = some 23 ∧ (s.junctions.get 23).configured = true ∧
       (s.junctions.get 23).state = .inService ∧ (s.junctions.get 23).beacon = some ⟨7, 30⟩ ∧ s.trunk.state ≠ .up) ∧
    (let s := { forBurst { state := .idle } none with trunk := { state := .up } }
     s.trunk.state = .up ∧ s.trunk.holds (.burst 0) = false ∧ s.trunk.waitsFor (.burst 0) = false ∧
       s.trunk.freeSlot = some 0) ∧
    -- the period expiry
    ((forBurst {} none).vehicles.get 0).periodAt = none ∧
    (let b : Burst := { sending with gatherEnd := some .complete, forwarding := .pending }
     (forBurst { periodAt := some 50 } (some b)).bursts.get 0 = some b ∧ b.inProgress = true ∧ b.gatherEnd ≠ none ∧
       b.forwarding = .pending) ∧
    (sending.gatherEnd = none ∧ sending.inProgress = true) ∧
    ((forBurst { periodAt := some 50, state := .lost } none).vehicles.get 0).state = .lost ∧
    (let s := forBurst { periodAt := some 50, state := .stopped } none
     (s.vehicles.get 0).periodAt = some 50 ∧ (s.vehicles.get 0).state ≠ .unseen ∧ (s.vehicles.get 0).state ≠ .lost) :=
  ⟨fun _ _ => ready_of .run rfl, by decide, by decide, by decide +kernel, ⟨sending, rfl, by decide⟩,
    ⟨by decide +kernel, rfl, by decide +kernel⟩, by decide +kernel, by decide +kernel, by decide +kernel, by decide +kernel,
    by decide, by decide +kernel, by decide +kernel⟩

/-- A burst of V1 whose first quarter is being fetched. -/
def fetching : Burst := { origin := .host, first := 1, outstanding := some (1, ⟨7, 30⟩) }

theorem witness_BurstStarts_answers :
    (forBurst {} none).handOffs = [] ∧
    -- not awaited: no burst, and a burst that awaits another quarter
    (∀ b, (forBurst {} none).bursts.get 0 = some b → b.inProgress = false) ∧ fetching.outstanding ≠ some (2, ⟨7, 30⟩) ∧
    -- awaited, through a beacon in service and through none; the third and the fourth quarter; the second and the third miss
    (let s := forBurst {} (some fetching)
     s.bursts.get 0 = some fetching ∧ fetching.inProgress = true ∧ fetching.outstanding = some (1, ⟨7, 30⟩) ∧
       (s.vehicles.get 0).lastJunction = some 23 ∧ (s.junctions.get 23).configured = true ∧
       (s.junctions.get 23).state = .inService ∧ (s.junctions.get 23).beacon = some ⟨7, 30⟩ ∧ fetching.gatherEnd = none) ∧
    (∀ j, (run.vehicles.get 0).lastJunction ≠ some j) ∧
    (List.replicate 3 (Quarter.q1 300 .ok)).length = 3 ∧ (List.replicate 2 (Quarter.q1 300 .ok)).length ≠ 3 ∧
    (2 ≤ ({ fetching with misses := 2 } : Burst).misses ∧ ({ fetching with misses := 1 } : Burst).misses < 2) ∧
    -- forwarding that has something left to send, and the completion of a burst
    (({ sending with received := [.q1 300 .ok] } : Burst).forwarded < 1 ∧ sending.forwarding = .holding) ∧
    (let b : Burst := { fetching with gatherEnd := some .notHeard, forwarding := .stopped .noTrunk, outstanding := none }
     (forBurst {} (some b)).bursts.get 0 = some b ∧ b.inProgress = true ∧ b.gatherEnd ≠ none ∧ b.q1 = none ∧
       ((forBurst {} (some b)).vehicles.get 0).configured = true ∧ (forBurst {} (some b)).trunk.held = [] ∧
       (forBurst {} (some b)).trunk.queue = []) := by
  refine ⟨rfl, fun b h => (by cases h), by decide, by decide +kernel, fun j => ?_, by decide, by decide, by decide, by decide,
    by decide +kernel⟩
  have h : (run.vehicles.get 0).lastJunction = none := by decide +kernel
  rw [h]; simp

/-- Zone 16, station 4 and a refuge panel at spur 8, address 31. -/
def forStation (x : Station) (z : Zone) : State :=
  { run with
    zones := put 15 z run.zones, stations := put 3 x run.stations
    devices := put 95 { configured := true, ref := ⟨7, 30⟩, kind := .refugePanel } run.devices }

theorem witness_Stations :
    (∀ x z, (forStation x z).Ready) ∧ ¬([] : List ZoneNo).length ≥ 1 ∧ ¬([1, 2, 3, 4, 5] : List ZoneNo).length ≤ 4 ∧
    -- UNCONFIGURED: in use and taken; CONFIGURED: missing and unfit
    ((forStation { latched := .distress } {}).stations.get 3).latched ≠ .standby ∧
    ((forStation {} {}).stations.get 3).latched = .standby ∧ ((forStation {} {}).zones.get 15).configured = false ∧
    (∃ m : StationNo, m ≠ 0 ∧ ((forStation { configured := true, panel := some ⟨7, 30⟩ } {}).stations.get m).configured = true ∧
      ((forStation { configured := true, panel := some ⟨7, 30⟩ } {}).stations.get m).panel = some ⟨7, 30⟩) ∧
    -- written, with and without a change of panel
    (∀ x ∈ [({} : Station), { configured := true, panel := some ⟨7, 30⟩ }],
      let s := forStation x { configured := true }
      (s.zones.get 15).configured = true ∧ s.deviceAt ⟨7, 30⟩ = some 95 ∧ (s.devices.get 95).kind = .refugePanel ∧
      (¬∃ m : StationNo, m ≠ 3 ∧ (s.stations.get m).configured = true ∧ (s.stations.get m).panel = some ⟨7, 30⟩) ∧
      s.stations.get 3 = x) ∧
    -- REFUGE_RESET
    (4 < 5 ∧ 15 < 16) ∧ ((forStation {} {}).stations.get 3).configured = false ∧
    (let x : Station := { configured := true, latched := .activated, zone := some 15, headcount := 1, door := .closed }
     let s := forStation x { configured := true, key := 15 }
     s.stations.get 3 = x ∧ x.latched ≠ .standby ∧ (s.zones.get 15).key ≠ 0 ∧ (s.zones.get 15).key ≠ 14 ∧ 0 < x.headcount) ∧
    (let x : Station := { configured := true, latched := .activated, zone := some 15, door := .closed }
     let s := forStation x { configured := true, key := 15 }
     s.stations.get 3 = x ∧ (s.zones.get 15).key = 15 ∧ ¬(x.door ≠ .closed ∨ 0 < x.headcount) ∧ x.insideO2 = none ∧
       x.insideCo = none) :=
  ⟨fun _ _ => ready_of .run rfl, by decide, by decide, by decide +kernel, by decide +kernel, by decide +kernel,
    ⟨3, by decide +kernel⟩, by decide +kernel, by decide, by decide +kernel, by decide +kernel, by decide +kernel⟩

theorem witness_Stations_panel :
    -- STANDBY with an open door, with a count of 1, with neither; the reply unchanged and changed; ACTIVATED and DISTRESS
    (∀ l, ((forStation { configured := true, latched := l } {}).stations.get 3).latched = l) ∧
    (0 < 1 ∧ ¬(0 < 0)) ∧ (({ door := .closed } : Station).door = .closed ∧ ({} : Station).headcount = 0 ∧ ({} : Station).door ≠ .closed) ∧
    -- a channel that one station names, and one that none names
    (let s := forStation { configured := true, insideCo := some 31 } {}
     (s.stations.get 3).configured = true ∧ (s.stations.get 3).insideCo = some 31 ∧
       ∀ m : StationNo, m ≠ 3 → (s.stations.get m).configured = false) ∧
    (∀ n : StationNo, (run.stations.get n).configured = false) ∧ (Level.alarm ≠ .alert ∧ Level.alert ≠ .alarm) :=
  ⟨fun _ => rfl, by decide, by decide, by decide +kernel, by decide +kernel, by decide⟩

/-! ## Witnesses: alarm programs -/

/-- Program 32 DEFINED with a wait as its first step, zone 16 CONFIGURED, and the runners and the queue given. -/
def forProgram (u : Nat) (n : Nat) (x : RunnerNo → Runner) (q : List QueuedStart) : State :=
  { run with
    zones := put 15 { configured := true } run.zones, programs := put 31 ⟨true, 127, u, 15⟩ run.programs
    steps := put 127 ⟨.wait, 0, 0, none, n, false⟩ run.steps, runners := Vector.ofFn x, startQueue := q }

/-- A run of program 1. -/
def runP1 (u : Nat) (r : RunnerNo) : Runner :=
  { state := .stepping, program := some 0, zone := some 15, cause := some .host, urgency := some u, startNo := some (r.val + 1) }

/-- A queued start. -/
def start (p : ProgNo) (u : Nat) : QueuedStart := ⟨⟨p, 15, .zoneAlarm⟩, u, 0⟩

theorem witness_StepsAndPrograms :
    run.Ready ∧ ¬(1 ≤ ([] : List Step).length) ∧ ¬(97 + 32 ≤ 128) ∧ 96 + 32 ≤ 128 ∧
    (∀ r : RunnerNo, (run.runners.get r).state = .idle) ∧
    (∃ r : RunnerNo, ((forProgram 1 1 (runP1 3) []).runners.get r).state ≠ .idle ∧
      ((forProgram 1 1 (runP1 3) []).runners.get r).program = some 0) ∧
    (∀ x ∈ [(⟨.sound, 16, 8, some .fast, 3, true⟩ : Step), ⟨.strobe, 0, 4, none, 0, false⟩, ⟨.announce, 1, 63, none, 1, false⟩,
        ⟨.test, 1, 3, none, 0, true⟩, ⟨.wait, 0, 0, none, 65535, false⟩],
      x.zone ≤ 16 ∧ (x.action = .sound → (1 ≤ x.item ∧ x.item ≤ 8) ∧ x.pattern ≠ none)) ∧
    (1 < 2 ∧ 127 < 128 ∧ 7 < 8 ∧ 127 ≤ 127 ∧ 1 ≤ 7 ∧ 7 ≤ 7) :=
  ⟨ready_part _, by decide, by decide, by decide, by decide +kernel, ⟨0, by decide +kernel⟩, by decide, by decide⟩

/-- Runner R1 at step 128 in a run of program 1 in zone 16, with what it needs and with the trunk given. -/
def atStep128 (st : Step) (x : Runner) (t : Trunk) (home : Bool) : State :=
  { run with
    zones := put 15 { configured := home, key := 5 } run.zones, steps := put 127 st run.steps, trunk := t
    runners := put 0 { x with program := some 0, zone := some 15, state := .stepping } run.runners }

theorem witness_StepsAndPrograms_steps :
    128 ≤ 128 ∧
    (∀ st x t, ((atStep128 st x t true).steps.get 127) = st ∧ ((atStep128 st x t true).runners.get 0).program = some 0 ∧
      ((atStep128 st x t true).runners.get 0).zone = some 15) ∧
    -- the program check: TRANSFER after TRANSFER, a timed step of count 0, a ninth untimed step; the protection check
    (({ lastTransfer := true } : Runner).lastTransfer = true ∧ ({ action := .wait } : Step).count = 0 ∧
      8 ≤ ({ untimed := 8 } : Runner).untimed ∧ ¬8 ≤ ({ untimed := 7 } : Runner).untimed) ∧
    (let s := atStep128 { action := .page } { key := some 4 } {} true
     (s.zones.get 15).key ≠ 0 ∧ (s.runners.get 0).key = some 4 ∧ (4 : Key) ≠ 0 ∧ 4 ≠ (s.zones.get 15).key) ∧
    -- targets that fail: a signal output in FAULT, a station without a panel link, a zone UNCONFIGURED; and that stand
    (let s := { atStep128 { action := .sound, item := 8, count := 1 } {} {} true with
       signals := put 7 { fault := true } run.signals }
     number (7 : SigNo) = (s.steps.get 127).item ∧ (s.signals.get 7).fault = true ∧ (run.signals.get 7).fault = false) ∧
    (number (3 : StationNo) = 4 ∧ (run.stations.get 3).online = false ∧
      ({ configured := true, online := true } : Station).online = true) ∧
    (((atStep128 {} {} {} false).zones.get 15).configured = false ∧ ((atStep128 {} {} {} true).zones.get 15).configured = true) ∧
    -- ANNOUNCE: the trunk not UP, a free slot, none and room in the queue
    (atStep128 {} {} {} true).trunk.state ≠ .up ∧
    (let x : Trunk := { state := .up }
     x.state = .up ∧ x.holds (.runner 0) = false ∧ x.waitsFor (.runner 0) = false ∧ x.freeSlot = some 0) ∧
    (let x : Trunk := { state := .up, allotment := [0], held := [⟨0, .call 7, .emergency⟩] }
     x.holds (.runner 0) = false ∧ x.waitsFor (.runner 0) = false ∧ x.freeSlot = none ∧ x.victim .alarm = none ∧
       x.queue.length < 16) ∧
    -- TEST: each condition; the end of an untimed step
    (∀ i < 4, (conditions[i]?).isSome = true) ∧ ({} : Runner).checks.data = false ∧ (({ data := true } : CheckFlags).data = true) :=
  ⟨by decide, fun _ _ _ => ⟨rfl, rfl, rfl⟩, by decide, by decide +kernel, by decide +kernel, by decide +kernel, by decide +kernel,
    by decide +kernel, by decide +kernel, by decide +kernel, by decide, by decide, by decide⟩

theorem witness_StartProgram_displaces :
    let s := forProgram 4 1 (runP1 7) (List.replicate 14 (start 1 4) ++ [start 2 3] ++ [start 3 2])
    s.slp.mode = .run ∧ (s.programs.get 31).defined = true ∧ (s.zones.get 15).configured = true ∧ s.handOffs = [] ∧
      (∀ r : RunnerNo, (s.runners.get r).state ≠ .idle ∧ (s.runners.get r).program ≠ some 31) ∧
      (s.programs.get 31).urgency ≠ 7 ∧ 16 ≤ s.startQueue.length ∧ (start 3 2).urgency < (s.programs.get 31).urgency ∧
      (∀ e ∈ List.replicate 14 (start 1 4), (s.programs.get 31).urgency ≤ e.urgency) ∧
      (∀ e ∈ [start 2 3], e.urgency < (s.programs.get 31).urgency) ∧
      ∀ e ∈ s.startQueue, ¬(e.req.program = 31 ∧ e.req.zone = 15) := by decide +kernel

theorem witness_ProgramEnds_counts :
    (∀ a ∈ [Action.wait, .sound, .strobe, .announce], ∀ chain ∈ [true, false],
      let s := atStep128 { action := a, item := 4, chain := chain } { current := some 127, countEnd := some 20 } {} true
      (s.runners.get 0).current = some (127 : Fin 128).val ∧ (s.steps.get 127).action = a ∧ (s.steps.get 127).chain = chain ∧
        (s.runners.get 0).checks.data = false ∧ number (3 : SigNo) = (s.steps.get 127).item ∧
        number (3 : StationNo) = (s.steps.get 127).item) ∧
    -- a run that ends, with no request waiting
    (let s := forProgram 7 1 (runP1 3) []
     (s.runners.get 0).program = some 0 ∧ (s.runners.get 0).zone = some 15 ∧ (s.runners.get 0).cause = some .host ∧
       s.trunk.queue = []) := by decide +kernel

theorem witness_StartProgram :
    (∀ u n x q, (forProgram u n x q).Ready) ∧ 32 < 33 ∧ 16 < 17 ∧ (part .loading).slp.mode = .loading ∧
    (run.programs.get 31).defined = false ∧
    -- merged with a run, merged with a queued start
    (let s := forProgram 7 1 (runP1 3) []
     s.slp.mode = .run ∧ s.handOffs = [] ∧ (s.zones.get 15).configured = true ∧ (s.runners.get 0).program = some 0 ∧
       (s.runners.get 0).zone = some 15) ∧
    (let s := forProgram 7 1 (runP1 3) [start 31 7]
     (∀ r, (s.runners.get r).program ≠ some 31) ∧ ∃ e ∈ s.startQueue, e.req.program = 31 ∧ e.req.zone = 15) ∧
    -- started on the last idle runner, at a wait
    (let s := forProgram 7 1 (fun r => if r = 3 then {} else runP1 3 r) []
     (s.programs.get 31).defined = true ∧ (s.runners.get 3).state = .idle ∧ (∀ w < (3 : RunnerNo), (s.runners.get w).state ≠ .idle) ∧
       (s.programs.get 31).first = (127 : Fin 128).val ∧ (s.steps.get 127).action = .wait ∧ 0 < (s.steps.get 127).count) ∧
    -- in place of runner 1, of equal urgency with the others and the oldest
    (let s := forProgram 7 1 (runP1 3) []
     (s.programs.get 31).urgency = 7 ∧ (∀ r, (s.runners.get r).state ≠ .idle) ∧
       (∀ w : RunnerNo, (s.runners.get w).urgency = some 3 ∧ (s.runners.get w).startNo = some (w.val + 1)) ∧
       ∀ w : RunnerNo, w ≠ 0 → 3 < 3 ∨ 3 = 3 ∧ (0 : RunnerNo).val + 1 < w.val + 1) ∧
    -- queued between two, and dropped
    (let s := forProgram 4 1 (runP1 3) [start 1 4, start 2 3]
     (s.programs.get 31).urgency ≠ 7 ∧ s.startQueue = [start 1 4] ++ [start 2 3] ∧ s.startQueue.length < 16 ∧
       4 ≤ (start 1 4).urgency ∧ (start 2 3).urgency < 4) ∧
    (let s := forProgram 7 1 (runP1 7) (List.replicate 16 (start 1 7))
     (∀ r, (s.runners.get r).urgency = some 7) ∧ 16 ≤ s.startQueue.length ∧ ∀ e ∈ s.startQueue, 7 ≤ e.urgency) :=
  ⟨fun _ _ _ _ => ready_of .run rfl, by decide, by decide, rfl, by decide +kernel, by decide +kernel, by decide +kernel,
    by decide +kernel, by decide +kernel, by decide +kernel, by decide +kernel⟩

theorem witness_ProgramEnds :
    (∀ u n x q, (forProgram u n x q).Ready) ∧ 4 < 5 ∧ (run.runners.get 3).state = .idle ∧
    (let s := forProgram 7 1 (runP1 3) []
     (s.runners.get 0).state ≠ .idle ∧ s.runnerOf 0 15 = some 0 ∧ s.startQueue = [] ∧ s.handOffs = [] ∧ s.trunk.queue = []) ∧
    (let s := forProgram 7 1 (runP1 3) ([start 1 4] ++ start 31 3 :: [start 2 3])
     s.runnerOf 31 15 = none ∧ ∀ y ∈ [start 1 4] ++ [start 2 3], ¬(y.req.program = 31 ∧ y.req.zone = 15)) ∧
    run.runnerOf 31 15 = none ∧ run.startQueue = [] ∧
    -- the end of a count and the slot wait
    ((run.runners.get 0).countEnd = none ∧ (run.runners.get 0).state ≠ .slotWait) ∧
    (let s := forProgram 7 1 (fun r => { runP1 3 r with current := some 127, countEnd := some 20 }) []
     (s.runners.get 0).countEnd = some 20 ∧ (s.runners.get 0).current = some (127 : Fin 128).val ∧
       (s.steps.get 127).action = .wait ∧ (s.steps.get 127).chain = false ∧ (s.runners.get 0).checks.data = false) ∧
    (let s := forProgram 7 1 (fun r => { runP1 3 r with state := .slotWait, slotWaitAt := some 100 }) []
     (s.runners.get 0).state = .slotWait ∧ (s.runners.get 0).slotWaitAt = some 100 ∧ (s.runners.get 0).program = some 0 ∧
       (s.runners.get 0).zone = some 15 ∧ (s.runners.get 0).cause = some .host) :=
  ⟨fun _ _ _ _ => ready_of .run rfl, by decide, by decide +kernel, by decide +kernel, by decide +kernel, by decide +kernel, rfl,
    by decide +kernel, by decide +kernel, by decide +kernel⟩

/-! ## Witnesses: spurs, modes and what every step keeps -/

/-- Device entry 96 at spur 8, address 31, and what is under way on that spur. -/
def onSpur (m : Mode) (d : Device) (x : Spur) : State :=
  { part m with
    devices := put 95 { d with configured := true, ref := ⟨7, 30⟩ } (part m).devices, spurs := put 7 x (part m).spurs }

/-- A gas head's good reply to a poll. -/
def headReply : DeviceReply := { checkGood := true, address := 31, kind := .gasHead, contents := .gasHead .ok 1033 0 0 0 }

theorem witness_SpurTransactions :
    (∀ d x, (onSpur .run d x).slp.inReset = none) ∧ (run.spurs.get 7).underWay = none ∧
    (let t := Transaction.poll 95 .gasHead
     let s := onSpur .run {} { underWay := some t }
     (s.spurs.get 7).underWay = some t ∧ s.devices.get t.entry = { configured := true, ref := ⟨7, 30⟩ } ∧
       headReply.checkGood = true ∧ headReply.address = number (⟨7, 30⟩ : DevRef).addr ∧ headReply.kind = .gasHead ∧
       s.fitsTransaction t headReply.contents = true ∧ s.fitsTransaction t (.panel false 0 true) = false) ∧
    -- the empty round, and a spur in STANDBY
    (let s := run
     (s.spurs.get 7).standby = false ∧ (s.spurs.get 7).underWay = none ∧ s.pollList 7 = [] ∧ (s.spurs.get 7).fetches = []) ∧
    ((onSpur .run {} { standby := true }).spurs.get 7).standby = true ∧
    -- the states of a device
    (∀ st, ((onSpur .run { state := st } {}).devices.get 95).state = st) ∧
    (((onSpur .run { misses := 1 } {}).devices.get 95).misses < 2 ∧ 2 ≤ ((onSpur .run { misses := 2 } {}).devices.get 95).misses) :=
  ⟨fun _ _ => rfl, by decide +kernel, by decide +kernel, by decide +kernel, by decide +kernel, fun _ => rfl, by decide +kernel⟩

/-- Spur 8 with two devices, at addresses 1 and 31, and two fetches through the second, a beacon. -/
def twoOnSpur (x y : DeviceState) (u : Spur) : State :=
  { run with
    devices := put 95 { configured := true, ref := ⟨7, 30⟩, kind := .beacon, state := y }
      (put 0 { configured := true, ref := ⟨7, 0⟩, state := x } run.devices)
    spurs := put 7 u run.spurs }

theorem witness_SpurTransactions_next :
    -- a late reply; STANDBY; the lowest address due, at once and in the next round; nobody due
    ({ headReply with late := true } : DeviceReply).late = true ∧
    ((twoOnSpur .online .online { standby := true }).spurs.get 7).standby = true ∧
    (let s := twoOnSpur .online .online { passed := 1, counter := 3 }
     s.deviceAt ⟨7, 30⟩ = some 95 ∧ (s.spurs.get 7).passed < number (30 : Fin 31) ∧ (s.devices.get 95).state = .online ∧
       (∀ a : Fin 31, a ≠ 0 → a ≠ 30 → s.deviceAt ⟨7, a⟩ = none) ∧ ¬(s.spurs.get 7).passed < number (0 : Fin 31) ∧
       (s.spurs.get 7).fetches = []) ∧
    (let s := twoOnSpur .offline .offline { passed := 31, counter := 7 }
     ((s.spurs.get 7).counter + 1) % 8 = 0 ∧ s.deviceAt ⟨7, 0⟩ = some 0 ∧ (s.devices.get 0).state = .offline ∧
       (s.spurs.get 7).passed ≠ 0 ∧ ∀ a : Fin 31, ¬(s.spurs.get 7).passed < number a) ∧
    (let s := twoOnSpur .offline .standby { passed := 0, counter := 3 }
     (s.spurs.get 7).passed = 0 ∧ (s.spurs.get 7).counter ≠ 0 ∧ (s.devices.get 0).state = .offline ∧
       (s.devices.get 95).state = .standby) ∧
    -- a fetch through an ONLINE beacon, and one through an OFFLINE beacon
    (∀ st ∈ [DeviceState.online, .offline], let s := twoOnSpur .online st { fetches := [⟨0, 9, 1, ⟨7, 30⟩⟩] }
      (s.spurs.get 7).fetches = [⟨0, 9, 1, ⟨7, 30⟩⟩] ∧ s.deviceAt ⟨7, 30⟩ = some 95 ∧ (s.devices.get 95).kind = .beacon ∧
        (s.devices.get 95).state = st) := by decide +kernel

theorem witness_SpurTransactions_polls :
    -- every kind; a channel with a tag's call and without a call; a junction and a station that name the device, and none
    (∀ k, ((onSpur .run { kind := k } {}).devices.get 95).kind = k) ∧
    (let s := { inCall tag5 rings with voice := put 4 (put 3 (some 7) (Vector.replicate 4 none)) run.voice }
     (s.voice.get 4).get 3 = some 7 ∧ s.callOf 7 = some rings ∧ rings.chanB = some ⟨4, 3⟩ ∧ (s.voice.get 4).get 0 = none) ∧
    ((forRead {} {}).beaconJunction ⟨7, 30⟩ = some 23 ∧ run.beaconJunction ⟨7, 30⟩ = none) ∧
    ((forStation { configured := true, panel := some ⟨7, 30⟩ } {}).panelStation ⟨7, 30⟩ = some 3 ∧
      run.panelStation ⟨7, 30⟩ = none) ∧
    -- a poll held for 1.9 s and for 2.0 s
    (119 < 100 + 20 ∧ 100 + 20 ≤ 120 ∧
      ((onSpur .run { held := some (.gasHead, 100) } {}).devices.get 95).held = some (.gasHead, 100)) ∧
    -- a heard entry's zone at a call point
    ((reachable tag5).devices.get 4).zone = some 0 :=
  ⟨fun _ => rfl, by decide +kernel, by decide +kernel, by decide +kernel, by decide +kernel, by decide +kernel⟩

theorem witness_SetSpurAndDevice :
    (∀ m d x, (onSpur m d x).Ready) ∧ 8 < 9 ∧
    ((onSpur .run {} { standby := true }).spurs.get 7).standby = true ∧ ((onSpur .run {} {}).spurs.get 7).standby = false ∧
    (part .run).pollList 0 = [] ∧
    -- live in RUN; in LOADING free, taken, bound, homeless and written
    ((onSpur .run {} {}).slp.mode = .run ∧ ((onSpur .run {} {}).devices.get 95).configured = true) ∧
    (let s := onSpur .loading {} {}
     s.slp.mode = .loading ∧ (s.devices.get 0).configured = false ∧ (s.devices.get 95).configured = true ∧
       (s.devices.get 95).ref = ⟨7, 30⟩ ∧ s.deviceNamed (s.devices.get 95) = false ∧ (s.zones.get 15).configured = false) ∧
    (let s := { onSpur .loading {} {} with channels := put 0 { chanH with source := some (.head ⟨7, 30⟩ 3) } run.channels }
     s.deviceNamed (s.devices.get 95) = true) ∧
    (let s := part .loading
     (s.devices.get 95).configured = false ∧ ¬∃ a : EntryNo, a ≠ 95 ∧ (s.devices.get a).configured = true ∧
       (s.devices.get a).ref = ⟨7, 30⟩) :=
  ⟨fun m _ _ => ready_of m rfl, by decide, by decide +kernel, by decide +kernel, by decide +kernel, by decide +kernel,
    by decide +kernel, by decide +kernel, by decide +kernel⟩

theorem witness_ModeRequests :
    (∀ m, (part m).Ready ∧ (part m).slp.mode = m) ∧
    -- every binding stands
    ((∀ z, ((part .loading).zones.get z).configured = false) ∧ (∀ n, ((part .loading).stations.get n).configured = false) ∧
      (∀ c, ((part .loading).channels.get c).configured = false) ∧ (∀ j, ((part .loading).junctions.get j).configured = false) ∧
      ∀ e, ((part .loading).devices.get e).configured = false) ∧
    -- one is wanting
    (let s := withZone .loading { configured := true, onAlarm := some 31 }
     (s.zones.get 0).configured = true ∧ (s.zones.get 0).onAlarm = some 31 ∧ (s.programs.get 31).defined = false) :=
  ⟨fun m => ⟨ready_part m, rfl⟩, by decide +kernel, by decide +kernel⟩

/-- A tag in a call at a call point of zone 1, a vehicle with a claim there, and the call's slot. -/
def busy : State := { run with
  zones := put 0 { configured := true, occupancy := [3], vehicles := [2] } run.zones
  tags := put 3 (some { id := 9, absence := 300, state := .placed, zone := some 0, cur := some ⟨0, 5⟩, call := some 7 }) run.tags
  calls := [⟨7, 1, .routine, .tag 3, .surface, .active, some ⟨1, 2⟩, none, some .routine, some 4, false, none, none, none⟩]
  voice := put 1 (put 2 (some 7) (Vector.replicate 4 none)) run.voice
  trunk := { state := .up, held := [⟨4, .call 7, .routine⟩], queue := [⟨.runner 0, .alarm⟩, ⟨.burst 2, .telemetry⟩] }
  vehicles := put 2 { configured := true, zone := some 0, claim := some ⟨[⟨6, 1, 2, false⟩, ⟨5, 1, 2, true⟩], 0, false, none⟩ }
    run.vehicles
  junctions := put 6 { configured := true, zone := some 0, holder := .claim 2 } run.junctions
  devices := put 1 { configured := true, ref := ⟨0, 5⟩, kind := .callPoint, zone := some 0 } run.devices }

theorem busy_tables : busy.TablesAgree where
  names := by constructor <;> decide
  occupancy := by constructor <;> decide
  emptied := by decide
  presence := by constructor <;> decide
  trunk := by constructor <;> decide
  claims := by constructor <;> decide
  calls := by
    have hc : ∀ r : Roster, (busy.tags.get r).bind Tag.call = if r = 3 then some 7 else none := by decide
    have hv : ∀ (e : EntryNo) (k : Fin 4), (busy.voice.get e).get k = if e = 1 ∧ k = 2 then some 7 else none := by decide
    constructor
    · decide
    · decide
    · decide
    · intro r i; rw [hc]
      by_cases h : r = 3
      · simp [busy, h]
      · simp [busy, h, Ne.symm h]
    · rintro ⟨e, k⟩ i; rw [hv]
      by_cases h : e = 1 ∧ k = 2
      · simp [busy, h]
      · rw [if_neg h]
        refine ⟨fun x => by (cases x), ?_⟩
        rintro ⟨c, hc, rfl, hx⟩
        rw [show busy.calls = [_] from rfl, List.mem_singleton] at hc; subst hc
        rcases hx with hx | hx
        · cases hx; exact absurd ⟨rfl, rfl⟩ h
        · cases hx
    · decide
    · rintro ⟨e, k⟩ i hx; rw [hv] at hx
      split at hx
      · next h => obtain ⟨rfl, rfl⟩ := h; decide
      · cases hx
  silent := by decide

theorem witness_EveryStepKeepsBoundsAndHeld :
    (∃ t, step { State.reset with pending := [.missedMark] } = .next t) ∧ State.reset.LinkBounded ∧ State.reset.HeldInLoading ∧
    busy.TablesAgree ∧ (∃ t, step busy = .next t) ∧
    (let s : State := { run with slp := { run.slp with queue := List.replicate 32 (startReport powerCauses false) } }
     s.LinkBounded ∧ s.HeldInLoading) :=
  ⟨⟨_, rfl⟩, ⟨by decide, by decide⟩, ⟨by decide, by decide +kernel⟩, busy_tables, ⟨_, rfl⟩, ⟨by decide, by decide⟩, by decide,
    by decide⟩

theorem witness_FieldEventsKeepConfiguration :
    (∀ c ∈ [Instr.goodMark, .frameGapTimeout, .feedbackChange 5 true, .periodExpiry 11],
      c.frame? = none ∧ (∀ tag body, c ≠ .unknownRequestCode tag body ∧ c ≠ .malformedRequest tag body) ∧
        (∀ bs, c ≠ .frameReceived bs) ∧ c ≠ .frameSent ∧ c ≠ .powerUp ∧ c ≠ .supplyDip ∧ c ≠ .resetPinLow ∧ c ≠ .resetEnd) ∧
    ∃ t, exec .goodMark run = .next t :=
  ⟨by simp [Instr.frame?], _, rfl⟩

/-! ## The readings of this model's choices -/

/-- A selector that CANCEL_PROGRAM does not list is a well-formed request, refused by its owner (R182). -/
theorem test_cancel_selector : parseBody [0x25, 0x02] = .request (.cancelOther 2) ∧
    (run.handle (.cancelOther 2)).status = .badValue := by decide

/-- A fallback leaves a call point its voice channels and nothing else (R170). -/
theorem test_fallback_point :
    (PollCommands.callPoint [some 9, none, none, none] [9] [9] (some 3)).fallenBack =
      .callPoint [some 9, none, none, none] [] [] none ∧ (PollCommands.beacon [true, false]).fallenBack = .beacon [false, false] := by
  decide

/-- A cycle counts when its own mark was received: a mark that is missed does not undo it, a marked end does not save it (R142). -/
theorem test_cycle_counts :
    let s (misses : Nat) : State := { withTrunk { state := .up, misses := misses } with
      bursts := put 0 (some { sending with carried := true }) run.bursts }
    (((s 0).turnCycle sendStart).bursts.get 0).map Burst.forwarded = some 1 ∧
      (((s 1).turnCycle sendStart).bursts.get 0).map Burst.forwarded = some 0 := by decide +kernel

/-- The device states are numbered as R26 and R40 first list them (R178). -/
theorem test_device_state_numbers : [DeviceState.offline, .standby, .suspect, .online].map (named deviceStates) =
    [[0x00], [0x01], [0x02], [0x03]] := by decide

/-- The start of one output's zone waits until the output has reached all its zones (R48). -/
theorem test_start_after_views :
    let s : State := { run with
      zones := put 1 { configured := true, trip := some 0, view := some .closed }
        (put 0 { configured := true, trip := some 0, view := some .closed, onTrip := some 31 } run.zones)
      trips := put 0 { state := .closed, feedbackHigh := true } run.trips }
    let t := s.openTrip 0 .host
    t.handOffs = [⟨31, 0, .zoneTrip⟩] ∧ (t.zones.get 1).view = some .opening := by decide +kernel

/-! ## Witnesses: what each block hands to the next -/

theorem witness_ReadsAnswer_items :
    run.tags.get 63 = none ∧ (withTag tag5).tags.get 0 = some tag5 ∧ run.bursts.get 11 = none ∧
      (forBurst {} (some sending)).bursts.get 0 = some sending ∧ (run.devices.get 95).configured = false ∧
      ((onSpur .run {} {}).devices.get 95).configured = true :=
  ⟨no_tags _, rfl, no_bursts _, rfl, by decide +kernel, by decide +kernel⟩

theorem witness_SetZone_views :
    -- the view stays, changes within the tripped ones, becomes tripped and leaves them
    (let s := boundTrip { state := .closed } { view := some .closed }
     (s.zones.get 0).view = (s.zones.get 0).trip.map fun o => (s.trips.get o).state) ∧
    (let s := boundTrip { state := .opened } { view := some .opening }
     (s.trips.get 0).state = .opened ∧ (s.zones.get 0).view = some .opening) ∧
    (let s := boundTrip { state := .opening } { view := some .closed, vehicles := [0] }
     (s.trips.get 0).state = .opening ∧ ¬isTripped (s.zones.get 0).view ∧ (s.zones.get 0).vehicles = [0]) ∧
    (let s := boundTrip { state := .closed } { view := some .opened, vehicles := [0] }
     ¬isTripped (some (s.trips.get 0).state) ∧ isTripped (s.zones.get 0).view) ∧
    (let s := withZone .run { view := some .opened }
     (s.zones.get 0).configured = false ∧ (s.zones.get 0).view ≠ none) := by decide +kernel

/-- Zone 16 ordered or not, with vehicle V1 in it and a claim on junction 24. -/
def forHold (e : Evac) (stop : StopSet) : State :=
  { forRead { holder := .claim 0 } { stop := stop, claim := some { legs := [leg24], granted := 7 } } with
    zones := put 15 { configured := true, evac := e } run.zones }

theorem witness_Evacuations :
    -- no claim; one vehicle's claim on a junction of the zone; a zone with a vehicle; what a lift frees
    (∀ j : JuncNo, ((forRead {} {}).junctions.get j).holder = .none) ∧
    (let s := forHold .ordered { host := true }
     (s.zones.get 15).vehicles = [] ∧ (s.vehicles.get 0).claim = some { legs := [leg24], granted := 7 } ∧
       (s.junctions.get 23).configured = true ∧ (s.junctions.get 23).zone = some 15 ∧ (s.junctions.get 23).holder = .claim 0 ∧
       ∀ j : JuncNo, j ≠ 23 → (s.junctions.get j).holder = .none) ∧
    ((0 : VehNo) ∈ ({ vehicles := [0] } : Zone).vehicles) ∧
    (let s := forRead { holder := .evacuation } {}
     s.waits = [] ∧ (s.junctions.get 23).holder = .evacuation ∧ (s.junctions.get 23).walkPending = false ∧
       (s.junctions.get 22).configured = false) := by decide +kernel

theorem witness_SetChannel_zones :
    -- an accepted channel that qualifies, assigned to a zone with an output and to one without
    (let s := forChannel true {}
     (s.zones.get 0).configured = true ∧ (s.zones.get 0).trip = none ∧ (s.channels.get 0).qualifies = false) ∧
    (let s := { forChannel true {} with zones := put 0 { configured := true, trip := some 5 } run.zones }
     (s.zones.get 0).configured = true ∧ (s.zones.get 0).trip = some 5 ∧ s.channelZone 0 = none) ∧
    -- taken OUT in a zone without another alarm
    (let s := { withChannel { chanH with service := .inService, level := .alarm } with
       zones := put 0 { configured := true, summary := .alarm } run.zones }
     s.channelZone 0 = some 0 ∧ (s.zones.get 0).configured = true ∧ (s.zones.get 0).summary ≠ .fault ∧
       (∀ d : ChanNo, d ≠ 0 → s.channelZone d = none) ∧ (s.zones.get 0).onFault = none ∧
       (s.channels.get 0).qualification ≠ .alarmOrFault) := by decide +kernel

theorem witness_SamplesAndFaults_zones :
    -- each grade of a zone, and a channel that comes to qualify in a zone with an output and without one
    (∀ l ∈ [Level.alarm, .fault, .alert], let s := withChannel { chanH with level := l }
      s.channelZone 0 = some 0 ∧ (s.channels.get 0).level = l ∧ ∀ d : ChanNo, d ≠ 0 → s.channelZone d = none) ∧
    (∀ d : ChanNo, run.channelZone d = none) ∧
    (let x : Channel := { chanH with qualification := .alarm, level := .alarm }
     x.qualifies = true ∧ ({ x with level := .alert } : Channel).qualifies = false) ∧
    (let s := boundTrip {} {}
     (s.zones.get 0).configured = true ∧ (s.zones.get 0).trip = some 0) ∧
    ((withZone .run { configured := true }).zones.get 0).trip = none := by decide +kernel

theorem witness_TripRequest_moves :
    (TripState.opening ≠ .waiting ∧ TripState.opened ≠ .waiting) ∧
    (let s := boundTrip { state := .opening } { view := some .closed, onTrip := some 31 }
     (s.zones.get 0).configured = true ∧ (s.zones.get 0).trip = some 0 ∧ (s.trips.get 0).state = .opening ∧
       (s.zones.get 0).view ≠ some .opening ∧ (s.zones.get 0).onTrip = some 31) ∧
    ((boundTrip { state := .opened } {}).trips.get 0).state ≠ .opening ∧
    (((withTrip {}).trips.get 0).powerOff = true ∧ ((withTrip { feedbackHigh := true }).trips.get 0).powerOff = false) ∧
    -- a backup that opens, and one that is left alone
    (let s := { withTrip { state := .opening, backup := some 5 } with
       trips := put 5 { state := .waiting } (put 0 { state := .opening, backup := some 5 } run.trips) }
     (s.trips.get 0).backup = some 5 ∧ (5 : OutNo) ≠ 0 ∧ (s.trips.get 5).state = .waiting) ∧
    (((withTrip { backup := some 5 }).trips.get 5).state = .held) ∧
    -- one bound zone at a manual trip; a SET_TRIP in OPEN that changes the reading
    (let s := boundTrip { state := .closed, edge := .falling, manualHigh := true, feedbackHigh := true } { view := some .closed }
     s.boundZones 0 = [0] ∧ (s.trips.get 0).powerOff = false ∧ (s.trips.get 0).warning = none ∧ (s.zones.get 0).vehicles = [] ∧
       (s.zones.get 0).view ≠ some .opening) ∧
    (let x := (withTrip { state := .opened }).trips.get 0
     x.powerOff = true ∧ ({ x with sense := .offWhenHigh } : Trip).powerOff = false) := by decide +kernel

theorem witness_SetTrunk_joins :
    let s := { withTrunk { state := .up, allotment := [0], queue := [⟨.burst 0, .telemetry⟩] } with
      bursts := put 0 (some asking) run.bursts }
    s.trunk.state = .up ∧ (([0, 1] : List SlotNo).filter fun k => k ∉ s.trunk.allotment) = [1] ∧
      s.trunk.queue = ⟨.burst 0, .telemetry⟩ :: [] ∧ s.bursts.get 0 = some asking ∧ asking.inProgress = true ∧
      asking.forwarding = .pending := by decide +kernel

theorem witness_TrunkMarks_cycles :
    -- a cycle whose mark was missed, and none gone; one gone, with gathering going on and ended
    1 ≤ (withTrunk { state := .up, misses := 1 }).trunk.misses ∧ sending.carried = false ∧
    (let b : Burst := { sending with carried := true }
     b.inProgress = true ∧ b.forwarding = .holding ∧ b.forwarded < b.received.length ∧ b.gatherEnd = none ∧
       ({ b with gatherEnd := some .notHeard } : Burst).gatherEnd ≠ none ∧ b.forwarded + 1 = b.received.length) ∧
    (∀ x : Trunk, x.misses = 0 → (withTrunk x).trunk.misses = 0) ∧
    -- the notices: a runner that waits at a step, and one that does not; a burst in progress, gathering or not, and none
    (((atStep128 {} {} {} true).runners.get 0).state ≠ .slotWait ∧
      ({ state := .slotWait, current := some 127 } : Runner).current = some (127 : Fin 128).val) ∧
    (sending.inProgress = true ∧ sending.gatherEnd = none ∧ run.bursts.get 0 = none) := by
  refine ⟨by decide, by decide, by decide, fun x h => h, ⟨by decide +kernel, by decide⟩, by decide, by decide, no_bursts 0⟩

theorem witness_SlotRequest_passes :
    -- a slot passed on from a runner, a burst and a call in each state
    (({ slot := 0, holder := .runner 0, cls := .alarm } : HeldSlot).holder = .runner 0) ∧
    (forBurst {} (some sending)).bursts.get 0 = some sending ∧
    (∀ st, (withCall { call7 with state := st }).callOf 7 = some { call7 with state := st }) ∧
    -- a request made again by a HELD call and by a burst
    (let s := { oneSlot .alarm [] with calls := [{ call7 with id := 8, state := .held }], bursts := put 0 (some asking) run.bursts }
     s.trunk.state = .up ∧ s.trunk.freeSlot = none ∧ s.trunk.queue.length < 16 ∧
       s.callOf 8 = some { call7 with id := 8, state := .held } ∧ s.trunk.holds (.call 8) = false ∧
       s.trunk.waitsFor (.call 8) = false ∧ s.bursts.get 0 = some asking ∧ s.trunk.holds (.burst 0) = false ∧
       s.trunk.waitsFor (.burst 0) = false) ∧
    -- a release: nothing held, and a slot held
    (∀ y ∈ (withTrunk {}).trunk.held, y.holder ≠ .call 7) ∧
    (oneSlot .routine []).trunk.held = [] ++ ⟨0, .call 7, .routine⟩ :: [] ∧
    -- a slot that becomes free: a head of each kind that wants it, and of each kind that does not
    (let s (h : Holder) := { withTrunk { state := .up, queue := [⟨h, .routine⟩] } with
       calls := [{ call7 with state := .setup }, { call7 with id := 8, state := .held }, { call7 with id := 9 }]
       bursts := put 0 (some asking) run.bursts
       runners := put 0 { state := .slotWait, current := some 127 } run.runners }
     (∀ h ∈ [Holder.runner 0, .runner 1, .burst 0, .burst 1, .call 7, .call 8, .call 9],
       (s h).trunk.state = .up ∧ (0 : SlotNo) ∈ (s h).trunk.allotment ∧ (s h).trunk.queue = ⟨h, .routine⟩ :: [] ∧
         (s h).wantsSlot h = decide (h ∈ [Holder.runner 0, .burst 0, .call 7, .call 8]))) := by
  refine ⟨rfl, rfl, fun _ => rfl, by decide +kernel, fun y h => (by cases h), rfl, by decide +kernel⟩

theorem witness_StopAndReleaseVehicle_reasons :
    -- a reason that stands, that joins others, that joins none; nothing given up, and a claim with an entry
    (({ trip := true } : StopSet).has .trip = true ∧ ({ trip := true } : StopSet).has .evacuation = false ∧
      ({ trip := true } : StopSet) ≠ {} ∧ ({} : StopSet).has .trip = false) ∧
    (((withVehicle {}).vehicles.get 0).claim = none ∧ (withVehicle {}).waits = []) ∧
    ((forHold .none {}).vehicles.get 0).claim ≠ none := by decide +kernel

theorem witness_BurstStarts_completion :
    (let b : Burst := { sending with gatherEnd := some .notHeard, forwarded := 1 }
     let s := { forBurst {} (some b) with
       trunk := { state := .up, held := [⟨0, .burst 0, .telemetry⟩] }, channels := put 0 chanV run.channels }
     s.bursts.get 0 = some b ∧ b.inProgress = true ∧ b.gatherEnd ≠ none ∧ b.received.length ≤ b.forwarded ∧
       b.q1 = some (300, .ok) ∧ b.zoneChanged = false ∧ ({ b with zoneChanged := true } : Burst).q1 ≠ none ∧
       (s.channels.get 0).configured = true ∧ (s.channels.get 0).source = some (.vehicle 0) ∧
       s.trunk.held = [⟨0, .burst 0, .telemetry⟩] ∧ s.trunk.queue = []) ∧
    (∀ c : ChanNo, (run.channels.get c).configured = false) := by decide +kernel

theorem witness_HaulageExpiries_release :
    -- walks that take their junctions, and a wait entry whose junctions are free
    (let s := forRead { walkPending := true } {}
     (s.junctions.get 23).state = .inService ∧ (s.junctions.get 23).holder = .none ∧ (s.junctions.get 23).walkPending = true) ∧
    ([23] : List JuncNo) ≠ [] ∧ ((forRead {} {}).junctions.get 23).isFree = true := by decide +kernel

theorem witness_StartProgram_bindings :
    (forProgram 4 1 (runP1 3) []).handOffs = [] ∧ (part .loading).handOffs = [] ∧ (run.programs.get 31).defined = false ∧
    (let s := forProgram 4 1 (fun r => if r = 3 then {} else runP1 3 r) []
     s.slp.mode = .run ∧ (s.programs.get 31).defined = true ∧ (∀ r : RunnerNo, (s.runners.get r).program ≠ some 31) ∧
       s.startQueue = [] ∧ (s.runners.get 3).state = .idle ∧ (∀ w < (3 : RunnerNo), (s.runners.get w).state ≠ .idle) ∧
       (s.startOn 3 ⟨31, 15, .zoneTrip⟩).handOffs = []) := by decide +kernel

theorem witness_ProgramEnds_cuts :
    ({} : Runner).current = none ∧
    (let s := atStep128 { action := .sound, count := 3 } { current := some 127, countEnd := some 12 } {} true
     (s.runners.get 0).current = some (127 : Fin 128).val ∧ (s.runners.get 0).countEnd = some 12 ∧
       (s.steps.get 127).action = .sound) ∧
    (({ current := some 127, state := .slotWait } : Runner).countEnd = none) := by decide +kernel

theorem witness_SetSpurAndDevice_handed :
    -- each kind and each state that is handed on; a beacon that no junction names, that one does, in service and failed
    (∀ k st, ((onSpur .run { kind := k, state := st } {}).devices.get 95).kind = k ∧
      ((onSpur .run { kind := k, state := st } {}).devices.get 95).state = st) ∧
    (∀ j : JuncNo, (run.junctions.get j).configured = false) ∧
    (let s := forRead { holder := .claim 0 } {}
     ((s.junctions.get 23).configured = true ∧ (s.junctions.get 23).beacon = some ⟨7, 30⟩) ∧
       (∀ k < (23 : JuncNo), (s.junctions.get k).configured = false) ∧ (s.junctions.get 23).state = .inService ∧
       (s.junctions.get 23).holder = .claim 0) ∧
    ((forJunction { configured := true } {} .online).junctions.get 23).state = .failed ∧
    -- a panel's station that reads OFFLINE already, and one ONLINE
    (let s := forStation { configured := true, panel := some ⟨7, 30⟩ } {}
     s.panelStation ⟨7, 30⟩ = some 3 ∧ (s.stations.get 3).online = false) ∧
    ({ online := true } : Station).online = true :=
  ⟨fun _ _ => ⟨rfl, rfl⟩, by decide +kernel, by decide +kernel, by decide +kernel, by decide +kernel, rfl⟩

theorem witness_SetSpurAndDevice_entries :
    -- a round that finds its first device, and one that finds none; an entry removed, moved and kept; what is under way
    ((twoOnSpur .suspect .standby { standby := true }).pollList 7 = [] ++ (0 : EntryNo) :: [95] ∧
      ((twoOnSpur .suspect .standby {}).devices.get 0).state ≠ .standby) ∧
    (part .run).pollList 0 = [] ∧
    (let s := onSpur .loading {} {}
     (s.devices.get 95).configured = true ∧ (s.devices.get 95).kind = .gasHead ∧ (s.devices.get 95).ref = ⟨7, 30⟩) ∧
    (((onSpur .loading {} { underWay := some (.poll 95 .gasHead) }).spurs.get 7).underWay = some (.poll 95 .gasHead)) ∧
    (((onSpur .loading {} { underWay := some (.fetch 95 ⟨0, 9, 1, ⟨7, 30⟩⟩) }).spurs.get 7).underWay =
      some (.fetch 95 ⟨0, 9, 1, ⟨7, 30⟩⟩)) ∧
    ((onSpur .loading {} {}).spurs.get 7).underWay = none := by decide +kernel

theorem witness_ModeRequests_bindings :
    -- the first binding that is wanting, of each kind of item
    (let s := withZone .loading { configured := true, onAlarm := some 31, onEmergency := some 30 }
     (s.zones.get 0).configured = true ∧ (s.zones.get 0).onAlarm = some 31 ∧ (s.programs.get 31).defined = false ∧
       (s.badBinding.map fun b => (b.kind, b.number, b.field)) = some (0, 1, 5)) ∧
    (let s : State := { part .loading with stations := put 3 { configured := true, zone := some 0, onDistress := some 31 } run.stations }
     (s.badBinding.map fun b => (b.kind, b.number, b.field)) = some (1, 4, 10)) ∧
    (let s : State := { part .loading with channels := put 31 chanV run.channels }
     (s.badBinding.map fun b => (b.kind, b.number, b.field)) = some (2, 32, 4)) ∧
    -- every output HELD; power on and off at its feedback
    (∀ o : OutNo, ((part .loading).trips.get o).state = .held) ∧ (part .loading).handOffs = [] ∧ (part .loading).badBinding = none ∧
    (({ feedbackHigh := true, sense := .offWhenHigh } : Trip).feedbackHigh = true ∧ ({} : Trip).feedbackHigh = false) ∧
    -- a part that enters LOADING with a run, a spur ACTIVE and one in standby, each with its transaction
    (let s := forProgram 4 1 (runP1 3) [start 1 4]
     s.trunk.queue = [] ∧ ∀ r : RunnerNo, (s.runners.get r).program ≠ none ∧ (s.runners.get r).zone ≠ none ∧
       (s.runners.get r).cause ≠ none) ∧
    (run.spurs.get 7).standby = false ∧ ((onSpur .run {} { standby := true }).spurs.get 7).standby = true := by decide +kernel

/-! ## Witnesses: zone lists, calls, vehicles, free runners and the spurs' next transactions -/

/-- Zones 1 and 16 with an evacuation state and a list each. -/
def twoZones (a b : Evac) (x y : List Roster) : State :=
  let z : Zone := { configured := true, evac := a, occupancy := x }
  let w : Zone := { configured := true, evac := b, occupancy := y, onEmergency := some 31 }
  { run with zones := put 0 z (put 15 w run.zones) }

theorem witness_TagPlacement_lists :
    -- in no list; in a list that becomes empty or not, ORDERED or not; into a list that holds the tag already or not, CLEARED or not
    (twoZones .none .none [] []).tagZone 0 = none ∧ (0 : Roster) ∈ ((twoZones .none .none [] [0]).zones.get 15).occupancy ∧
    (let s := twoZones .ordered .cleared [0] []
     s.tagZone 0 = some 0 ∧ ((s.zones.get 0).evac = .ordered ∧ ∀ q ∈ (s.zones.get 0).occupancy, q = 0) ∧
       0 ∉ (s.zones.get 15).occupancy ∧ (s.zones.get 15).evac = .cleared) ∧
    (let s := twoZones .ordered .ordered [0, 1] []
     s.tagZone 0 = some 0 ∧ ¬((s.zones.get 0).evac = .ordered ∧ ∀ q ∈ (s.zones.get 0).occupancy, q = 0) ∧
       (s.zones.get 15).evac ≠ .cleared) ∧
    (let s := twoZones .none .none [0] []
     ¬((s.zones.get 0).evac = .ordered ∧ ∀ q ∈ (s.zones.get 0).occupancy, q = 0) ∧ (s.zones.get 15).onEmergency = some 31 ∧
       (s.zones.get 0).onEmergency = none) := by decide +kernel

/-- The worked move of R12: the zone left is CLEARED before the zone joined is ORDERED again. -/
theorem test_move_between_evacuations :
    let t := (twoZones .ordered .cleared [0] []).place 0 15
    (t.zones.get 0).evac = .cleared ∧ (t.zones.get 15).evac = .ordered ∧ (t.zones.get 15).occupancy = [0] ∧
      (t.slp.queue.map fun r => r.fields.take 3) = [[0x01, 0x01, 0x02], [0x10, 0x02, 0x01]] := by decide +kernel

/-- A tag whose list it leaves empty, and one whose list it does not. -/
theorem witness_EnrollAndRemoveTag_lists :
    (∀ l ∈ [[(0 : Roster)], [0, 1]], let s := twoZones .ordered .none l []
      s.tagZone 0 = some 0 ∧ (s.zones.get 0).evac = .ordered) ∧
    (run.tagZone 0 = none) ∧ ((tag5.state = .placed ∨ tag5.state = .missing) ∧ tag5.call = none) := by decide +kernel

/-- Two tags at one call point whose four channels are as given, and the trunk and the calls given. -/
def talkers (t : Tag) (v : Vector (Option Nat) 4) (x : Trunk) (l : List Call) : State :=
  { reachable tag5 with tags := put 1 (some { t with id := 6 }) (reachable tag5).tags, voice := put 4 v run.voice, trunk := x, calls := l }

/-- The call that `makeCall` makes there, its callee checked. -/
def readyCall (s : State) (kind : CallKind) (a b : Party) (cls : Option TrunkClass) : State :=
  ((s.newCall kind a b cls).1.writeCall s.newCallId b).modCall s.newCallId fun d => { d with
    lostA := s.lostDeadline a, lostB := s.lostDeadline b }

theorem witness_PlaceCall_ids :
    -- the next-id value free; 255 in use and 1 the first free id after it
    (∀ c ∈ run.calls, c.id ≠ (run.nextCallId - 1 + 0) % 255 + 1) ∧
    (let s := { withCall { call7 with id := 255 } with nextCallId := 255 }
     (∀ i < 1, ∃ c ∈ s.calls, c.id = (s.nextCallId - 1 + i) % 255 + 1) ∧
       ∀ c ∈ s.calls, c.id ≠ (s.nextCallId - 1 + 1) % 255 + 1) := by decide +kernel

theorem witness_PlaceCall_callee :
    -- a callee that can be reached, one in a call, and the last tenth of the 15 s; the caller itself; a code of no roster number
    (let s (t : Tag) := talkers t (Vector.replicate 4 none) {} []
     (∀ c ∈ [none, some 9], ∃ t, (s { tag5 with call := c }).tags.get 1 = some t ∧ t.state = .placed ∧ t.cur ≠ none ∧
       t.lastHeard = some 0 ∧ t.call = c) ∧ (149 < 0 + 150 ∧ ¬150 < 0 + 150)) ∧
    (Party.tag 0 ≠ .tag 1 ∧ Party.dialled 65 ≠ .surface) := by
  refine ⟨⟨fun c _ => ⟨_, rfl, rfl, by simp [tag5], rfl, rfl⟩, by decide⟩, by decide⟩

theorem witness_PlaceCall_channels :
    -- both parties of a local call at one call point, with two free channels and with one
    (let u := readyCall (talkers tag5 (Vector.replicate 4 none) {} []) .routine (.tag 0) (.tag 1) none
     u.curEntry 0 = some 4 ∧ u.curEntry 1 = some 4 ∧ (u.voice.get 4).get 0 = none ∧
       ((u.setVoice ⟨4, 0⟩ (some 1)).voice.get 4).get 1 = none ∧ ((u.setVoice ⟨4, 0⟩ (some 1)).voice.get 4).get 0 ≠ none) ∧
    (let u := readyCall (talkers tag5 #v[none, some 7, some 7, some 7] {} []) .routine (.tag 0) (.tag 1) none
     (u.voice.get 4).get 0 = none ∧ ∀ k, ((u.setVoice ⟨4, 0⟩ (some 1)).voice.get 4).get k ≠ none) ∧
    -- an EMERGENCY call at a full call point: its latest ROUTINE call, and none there; the channel that the eviction frees
    (let d : Call := { call7 with creation := 9, a := .tag 2, b := .surface, chanA := some ⟨4, 3⟩ }
     let u := readyCall (talkers tag5 (Vector.replicate 4 (some 7)) { state := .up } [d]) .emergency (.tag 0) .surface (some .emergency)
     (∀ k, (u.voice.get 4).get k ≠ none) ∧ u.curEntry 0 = some 4 ∧ d ∈ u.calls ∧ d.kind = .routine ∧
       (∀ o ∈ u.calls, o ≠ d → o.kind ≠ .routine) ∧ (u.csEnd 7 .preempted).curEntry 0 = some 4 ∧
       ((u.csEnd 7 .preempted).voice.get 4).get 3 = none ∧ ∀ k < 3, ((u.csEnd 7 .preempted).voice.get 4).get k ≠ none) ∧
    (∀ o ∈ (readyCall (talkers tag5 (Vector.replicate 4 (some 7)) {} []) .emergency (.tag 0) .surface none).calls,
      o.kind ≠ .routine) := by decide +kernel

theorem witness_PlaceCall_slots :
    -- the four answers to the request of a new call
    (let asks (x : Trunk) := ((talkers tag5 (Vector.replicate 4 none) x []).requestSlot (.call 1) .routine).2
     asks { state := .up } = (.granted 0, none) ∧
       asks { state := .up, allotment := [0], held := [⟨0, .burst 1, .alarm⟩] } = (.queued, none) ∧
       asks { state := .up, allotment := [0], held := [⟨0, .burst 1, .alarm⟩], queue := List.replicate 16 ⟨.call 9, .alarm⟩ } =
         (.noSlot, none) ∧
       asks {} = (.noTrunk, none)) := by decide +kernel

/-- A local call rings with both channels taken; an EMERGENCY call takes the channel of the call it evicts (R89, R91). -/
theorem test_calls_made :
    (let t := (talkers tag5 (Vector.replicate 4 none) {} []).makeCall .routine (.tag 0) (.tag 1) none
     (t.callOf 1).map (fun c => (c.state, c.chanA, c.chanB, c.deadline)) =
       some (.ringing, some ⟨4, 0⟩, some ⟨4, 1⟩, some 300)) ∧
    (let d : Call := { call7 with creation := 9, a := .tag 2, b := .surface, chanA := some ⟨4, 3⟩ }
     let t := (talkers tag5 (Vector.replicate 4 (some 7)) { state := .up } [d]).makeCall .emergency (.tag 0) .surface (some .emergency)
     t.callOf 7 = none ∧ (t.callOf 1).map (fun c => (c.state, c.chanA, c.slot)) = some (.active, some ⟨4, 3⟩, some 0)) ∧
    (((talkers { tag5 with call := some 9 } (Vector.replicate 4 none) {} []).makeCall .routine (.tag 0) (.tag 1) none).calls =
      []) := by decide +kernel

/-- Vehicle 1 in a list of zone 1, with a burst and an onboard channel or none. -/
def present (x : Vehicle) (b : Option Burst) (c : Channel) : State :=
  { withVehicle { x with configured := true, tagId := 9, zone := some 0 } with
    zones := put 0 { configured := true, vehicles := [0] } run.zones, bursts := put 0 b run.bursts
    channels := put 0 c run.channels }

theorem witness_SetVehicle_writes :
    -- a vehicle renewed and not; in a list and in none; with an onboard channel and without
    (present {} none {}).listZone 0 = some 0 ∧ (withVehicle {}).listZone 0 = none ∧
    ((present {} none {}).vehicles.get 0).tagId ≠ 10 ∧
    (∃ c : ChanNo, ((present {} none chanV).channels.get c).configured = true ∧
      ((present {} none chanV).channels.get c).source = some (.vehicle 0)) ∧
    (∀ c : ChanNo, ((present {} none {}).channels.get c).configured = false) ∧
    -- the burst found at the end: none; DONE; gathering, with forwarding that waits, holds or has stopped; gathering ended
    (∀ b ∈ [none, some { sending with state := .done }, some sending, some asking, some { sending with forwarding := .stopped .noSlot },
        some { sending with gatherEnd := some .notHeard }],
      ∀ cfg ∈ [true, false], ((present {} b {}).renewVehicle 0 cfg).bursts.get 0 =
        b.map fun b => if b.inProgress then { b with zoneChanged := true } else b) := by
  refine ⟨by decide +kernel, by decide +kernel, by decide +kernel, ⟨0, by decide +kernel⟩, by decide +kernel, by decide +kernel⟩

/-- A vehicle unconfigured while it is present with a burst: out of its list, UNSEEN, the burst ended and its record gone (R119,
R137, R141). -/
theorem test_vehicle_unconfigured :
    let t := (present { stop := { host := true } } (some sending) {}).writeVehicle 0 {}
    (t.zones.get 0).vehicles = [] ∧ (t.vehicles.get 0).state = .unseen ∧ (t.vehicles.get 0).stop = {} ∧ t.bursts.get 0 = none := by
  decide +kernel

theorem witness_HaulageExpiries_moves :
    -- TRIP and EVACUATION called for, and not
    (∀ v ∈ [TripState.opening, .opened, .unconfirmed], let s : State :=
      { withVehicle { zone := some 0 } with zones := put 0 { configured := true, view := some v, evac := .cleared } run.zones }
      (s.vehicles.get 0).kind ≠ .service ∧ (s.vehicles.get 0).zone = some 0 ∧ (s.zones.get 0).view = some v ∧
        (s.zones.get 0).evac ≠ .none) ∧
    (({ kind := .service } : Vehicle).kind = .service ∧ ((withVehicle {}).vehicles.get 0).zone = none) ∧
    -- a vehicle in the zone already, and one that joins it; with a channel that qualifies, and one that does not
    (present {} none {}).listZone 0 = some 0 ∧ (present {} none {}).listZone 0 ≠ some 15 ∧
    (let s := present {} none { chanV with qualification := .alarm, level := .alarm }
     (s.channels.get 0).configured = true ∧ (s.channels.get 0).source = some (.vehicle 0) ∧ (∀ d < (0 : ChanNo), d ≠ d) ∧
       (s.channels.get 0).qualifies = true) ∧
    (chanV.qualifies = false) ∧
    (let s : State := { present {} none { chanV with qualification := .alarm, level := .alarm } with
       zones := put 15 { configured := true, trip := some 5 } (present {} none {}).zones, trips := put 5 { state := .closed } run.trips }
     (s.vehicleEnters sendStart 0 15).channelZone 0 = some 15 ∧ ((s.vehicleEnters sendStart 0 15).zones.get 15).trip = some 5) := by
  refine ⟨by decide +kernel, by decide +kernel, by decide +kernel, by decide +kernel, ⟨by decide +kernel, by decide +kernel,
    fun d h => absurd h (by simp), by decide +kernel⟩, by decide, by decide +kernel⟩

/-- A vehicle that brings a channel in ALARM into a zone trips the zone's output (R22, R43). -/
theorem test_onboard_demand :
    let s : State := { present {} none { chanV with qualification := .alarm, level := .alarm } with
      zones := put 15 { configured := true, trip := some 5 } (present {} none {}).zones, trips := put 5 { state := .closed } run.trips }
    let t := s.vehicleEnters sendStart 0 15
    (t.trips.get 5).state = .opened ∧ (t.zones.get 15).summary = .alarm := by decide +kernel

theorem witness_StepsAndPrograms_conditions :
    ((withZone .run {}).zones.get 0).configured = false ∧ ((withZone .run { configured := true }).zones.get 0).configured = true := by
  decide +kernel

theorem witness_ProgramEnds_heads :
    -- an empty queue; an UNDEFINED head and one that is DEFINED; heads that are all UNDEFINED; a first step that waits
    (forProgram 4 1 (runP1 3) []).startQueue = [] ∧
    (let s := forProgram 4 1 (runP1 3) [start 1 4, start 31 4]
     s.startQueue = start 1 4 :: [start 31 4] ∧ (s.programs.get 1).defined = false) ∧
    (let s := forProgram 4 1 (runP1 3) [start 31 4]
     s.startQueue = start 31 4 :: [] ∧ (s.programs.get 31).defined = true) ∧
    (let gone := List.replicate 15 (start 1 4)
     let s := forProgram 4 1 (runP1 3) (gone ++ [start 31 4])
     gone.length ≤ 16 ∧ (∀ d ∈ gone, (s.programs.get d.req.program).defined = false) ∧ s.startQueue = gone ++ start 31 4 :: [] ∧
       (s.programs.get 31).first = (127 : Fin 128).val ∧ (s.steps.get 127).action = .wait ∧ 0 < (s.steps.get 127).count) ∧
    (let gone := List.replicate 16 (start 1 4)
     (forProgram 4 1 (runP1 3) gone).startQueue = gone ∧ gone.length ≤ 16) := by decide +kernel

/-- A runner that becomes free drops an UNDEFINED head and starts the next (R158). -/
theorem test_free_runner :
    let t := ((forProgram 4 5 (runP1 3) [start 1 4, start 31 4]).cancelRun 2)
    (t.runners.get 2).program = some 31 ∧ (t.runners.get 2).countEnd = some 5 ∧ t.startQueue = [] := by decide +kernel

theorem witness_SpurTransactions_messages :
    -- nobody plays; a runner that plays in the zone, beside one of lower urgency, and one of equal urgency and later start
    (∀ r : RunnerNo, (run.runners.get r).state ≠ .stepping) ∧
    (∀ r : Runner, r ∈ [{ runP1 3 1 with startNo := some 1 }, { runP1 4 1 with startNo := some 9 }] →
      let plays (x : Runner) : Runner := { x with current := some 127, countEnd := some 20 }
      let s : State := { atStep128 { action := .announce, item := 9, count := 1 } {} {} true with
        runners := put 1 (plays r) (put 0 (plays (runP1 4 2)) run.runners) }
      (∀ q ∈ [(0 : RunnerNo), 1], (s.runners.get q).state = .stepping ∧ (s.runners.get q).countEnd ≠ none ∧
        (s.runners.get q).current = some (127 : Fin 128).val ∧ (s.runners.get q).zone = some 15) ∧
      (∀ q : RunnerNo, q ≠ 0 → q ≠ 1 → (s.runners.get q).state = .idle) ∧ (s.zones.get 15).configured = true ∧
      (s.steps.get 127).action = .announce ∧ (s.steps.get 127).zone = 0 ∧
      (((s.runners.get 1).urgency.getD 0 < (s.runners.get 0).urgency.getD 0) ∨
        (s.runners.get 1).urgency.getD 0 = (s.runners.get 0).urgency.getD 0 ∧
          (s.runners.get 0).startNo.getD 0 < (s.runners.get 1).startNo.getD 0)) := by
  refine ⟨by decide +kernel, fun r hr => ?_⟩
  simp only [List.mem_cons, List.not_mem_nil, or_false] at hr
  rcases hr with rfl | rfl <;> decide +kernel

theorem witness_SpurTransactions_fetches :
    -- an OFFLINE beacon's fetch before one through an ONLINE beacon; a fetch whose beacon entry was removed, alone and before another
    (let s : State := { twoOnSpur .online .offline { fetches := [⟨0, 9, 1, ⟨7, 30⟩⟩, ⟨1, 9, 1, ⟨7, 0⟩⟩] } with
       devices := put 0 { configured := true, ref := ⟨7, 0⟩, kind := .beacon, state := .online }
         (twoOnSpur .online .offline {}).devices }
     s.deviceAt ⟨7, 30⟩ = some 95 ∧ (s.devices.get 95).kind = .beacon ∧ (s.devices.get 95).state = .offline ∧
       s.deviceAt ⟨7, 0⟩ = some 0 ∧ (s.devices.get 0).kind = .beacon ∧ (s.devices.get 0).state = .online) ∧
    (∀ more ∈ [[], [(⟨1, 9, 1, ⟨7, 30⟩⟩ : Fetch)]],
      let s := twoOnSpur .online .online { fetches := ⟨0, 9, 1, ⟨7, 8⟩⟩ :: more }
      let told := (s.modSpur 7 fun y => { y with fetches := more }).tgAnswer sendStart ⟨0, 9, 1, ⟨7, 8⟩⟩ .miss
      s.deviceAt ⟨7, 8⟩ = none ∧ (told.spurs.get 7).fetches = more ∧ (told.spurs.get 7).standby = false ∧
        told.deviceAt ⟨7, 30⟩ = some 95 ∧ (told.devices.get 95).state = .online) := by decide +kernel

theorem witness_SpurTransactions_rounds :
    -- after an empty round: an OFFLINE device at counter 0, nobody at another count, a fetch first
    (let s := twoOnSpur .offline .standby { passed := 31, counter := 7 }
     (s.spurs.get 7).standby = false ∧ (s.spurs.get 7).underWay = none ∧ (s.spurs.get 7).fetches = [] ∧
       s.deviceAt ⟨7, 0⟩ = some 0 ∧ (s.devices.get 0).state = .offline ∧ ((s.spurs.get 7).counter + 1) % 8 = 0) ∧
    (let s := twoOnSpur .offline .standby { passed := 31, counter := 0 }
     ((s.spurs.get 7).counter + 1) % 8 ≠ 0 ∧ ∀ a : Fin 31, a ≠ 0 → a ≠ 30 → s.deviceAt ⟨7, a⟩ = none) ∧
    (let s := twoOnSpur .offline .online { passed := 31, fetches := [⟨0, 9, 1, ⟨7, 30⟩⟩] }
     (s.spurs.get 7).fetches = ⟨0, 9, 1, ⟨7, 30⟩⟩ :: [] ∧ s.deviceAt ⟨7, 30⟩ = some 95 ∧ (s.devices.get 95).kind = .beacon ∧
       (s.devices.get 95).state = .online) := by decide +kernel

/-- A fetch whose beacon entry is gone is answered MISS, and the burst ends its gathering at the third (R141, R169). -/
theorem test_fetch_without_beacon :
    let s : State := { twoOnSpur .online .online { fetches := [⟨0, 9, 1, ⟨7, 8⟩⟩] } with
      bursts := put 0 (some { sending with misses := 2, outstanding := some (1, ⟨7, 8⟩) }) run.bursts }
    let t := s.spurNext 7 true
    ((t.bursts.get 0).bind Burst.gatherEnd) = some .beaconFailed ∧ (t.spurs.get 7).fetches = [] ∧
      (t.spurs.get 7).underWay.isSome := by decide +kernel

end Sys2Proof.Tests
end

section
/-! PROOFS. The statements on air readings: qualifying states (R42), the grading of a sample (R35, R36), and SET_SERVICE (R26),
each from equations of the Air Reading Unit's operations. -/

namespace Sys2Proof.Machine

/-! ## Qualifying states (R42) -/

theorem mem_thoseOf {n : Nat} {p : Fin n → Bool} {i : Fin n} : i ∈ thoseOf n p ↔ p i = true := by
  simp [thoseOf]

theorem State.mem_channelsOf {s : State} {z : ZoneNo} {c : ChanNo} : c ∈ s.channelsOf z ↔ s.channelZone c = some z := by
  simp [channelsOf, mem_thoseOf]

theorem Channel.qualifies_iff (x : Channel) : x.qualifies = true ↔ x.configured = true ∧
    (x.qualification = .alarm ∧ x.level = .alarm ∨
      x.qualification = .alarmOrFault ∧ (x.level = .alarm ∨ x.level = .fault)) := by
  cases hq : x.qualification <;> simp [qualifies, hq]

theorem State.zoneQualifies_iff (s : State) (z : ZoneNo) : s.zoneQualifies z = true ↔
    ∃ c : ChanNo, s.channelZone c = some z ∧ (s.channels.get c).qualifies = true := by
  simp [zoneQualifies, List.any_eq_true, mem_channelsOf]

/-- Settles O27: a channel by its trip qualification, a zone by the channels assigned to it. -/
theorem qualifyingState : Obligations.QualifyingState := ⟨Channel.qualifies_iff, State.zoneQualifies_iff⟩

/-! ## The rate check leaves all but its own fields (R34) -/

section checkRate
variable (x : Channel)

@[simp] theorem Channel.checkRate_gas : x.checkRate.gas = x.gas := by unfold checkRate; split_ifs <;> rfl
@[simp] theorem Channel.checkRate_alert : x.checkRate.alert = x.alert := by unfold checkRate; split_ifs <;> rfl
@[simp] theorem Channel.checkRate_alarm : x.checkRate.alarm = x.alarm := by unfold checkRate; split_ifs <;> rfl
@[simp] theorem Channel.checkRate_hysteresis : x.checkRate.hysteresis = x.hysteresis := by
  unfold checkRate; split_ifs <;> rfl
@[simp] theorem Channel.checkRate_stale : x.checkRate.stale = x.stale := by unfold checkRate; split_ifs <;> rfl
@[simp] theorem Channel.checkRate_level : x.checkRate.level = x.level := by unfold checkRate; split_ifs <;> rfl

/-- A falling type has no rate check. -/
theorem Channel.checkRate_of_falling (h : isRising x.gas = false) : x.checkRate = x := by simp [checkRate, h]

end checkRate

/-! ## The grading rows by the level they start from (R35, R36) -/

section grading
variable {x : Channel}

theorem Channel.gradeRising_of_alarmed (h : x.riseSet = true ∨ x.alarm ≤ x.f) : x.gradeRising = .alarm := if_pos h

theorem Channel.gradeRising_of_normal (h : ¬(x.riseSet = true ∨ x.alarm ≤ x.f)) (hl : x.level = .normal) :
    x.gradeRising = if x.alert ≤ x.f then .alert else .normal := by simp [gradeRising, h, hl]

theorem Channel.gradeRising_of_alert (h : ¬(x.riseSet = true ∨ x.alarm ≤ x.f)) (hl : x.level = .alert) :
    x.gradeRising = if x.f + x.hysteresis < x.alert then .normal else .alert := by simp [gradeRising, h, hl]

theorem Channel.gradeRising_of_alarm (h : ¬(x.riseSet = true ∨ x.alarm ≤ x.f)) (hl : x.level = .alarm) :
    x.gradeRising = if x.f + x.hysteresis < x.alert then .normal
      else if x.f + x.hysteresis < x.alarm then .alert else .alarm := by simp [gradeRising, h, hl]

theorem Channel.gradeFalling_of_alarmed (h : x.f ≤ x.alarm) : x.gradeFalling = .alarm := if_pos h

theorem Channel.gradeFalling_of_normal (h : x.alarm < x.f) (hl : x.level = .normal) :
    x.gradeFalling = if x.f ≤ x.alert then .alert else .normal := by simp [gradeFalling, h.not_ge, hl]

theorem Channel.gradeFalling_of_alert (h : x.alarm < x.f) (hl : x.level = .alert) :
    x.gradeFalling = if x.alert + x.hysteresis ≤ x.f then .normal else .alert := by simp [gradeFalling, h.not_ge, hl]

theorem Channel.gradeFalling_of_alarm (h : x.alarm < x.f) (hl : x.level = .alarm) :
    x.gradeFalling = if x.alert + x.hysteresis ≤ x.f then .normal
      else if x.alarm + x.hysteresis ≤ x.f then .alert else .alarm := by simp [gradeFalling, h.not_ge, hl]

end grading

/-! ## A valid sample on a channel that is not in FAULT -/

section enter
variable {x : Channel} (now v : Nat) (sat : Bool)

@[simp] theorem Channel.enter_lastValid : (x.enter now v sat).lastValid = some now := rfl

@[simp] theorem Channel.enter_staleAt : (x.enter now v sat).staleAt = some (now + 10 * x.stale) := by
  unfold enter; split <;> simp [enterFresh, enterNext]

theorem Channel.enter_of_not_fault (h : x.level ≠ .fault) : x.enter now v sat =
    { x.enterNext v with saturated := sat, lastValid := some now, staleAt := some (now + 10 * x.stale) } := by
  simp [enter, h, enterNext]

/-- The record that stage 5 grades: f and RISE are new, level and configuration as before the sample. -/
def Channel.ungraded (x : Channel) (v : Nat) : Channel :=
  { x with window := pushWindow x.filter x.window v, f := filtered (pushWindow x.filter x.window v) }.checkRate

theorem Channel.enter_level (h : x.level ≠ .fault) : (x.enter now v sat).level = (x.ungraded v).grade := by
  rw [enter_of_not_fault now v sat h]; rfl

theorem Channel.enter_f (h : x.level ≠ .fault) : (x.enter now v sat).f = (x.ungraded v).f := by
  rw [enter_of_not_fault now v sat h]; rfl

theorem Channel.enter_riseSet (h : x.level ≠ .fault) : (x.enter now v sat).riseSet = (x.ungraded v).riseSet := by
  rw [enter_of_not_fault now v sat h]; rfl

@[simp] theorem Channel.ungraded_gas : (x.ungraded v).gas = x.gas := by simp [ungraded]
@[simp] theorem Channel.ungraded_alert : (x.ungraded v).alert = x.alert := by simp [ungraded]
@[simp] theorem Channel.ungraded_alarm : (x.ungraded v).alarm = x.alarm := by simp [ungraded]
@[simp] theorem Channel.ungraded_hysteresis : (x.ungraded v).hysteresis = x.hysteresis := by simp [ungraded]
@[simp] theorem Channel.ungraded_level : (x.ungraded v).level = x.level := by simp [ungraded]

theorem Channel.ungraded_riseSet_of_falling (h : isRising x.gas = false) : (x.ungraded v).riseSet = x.riseSet := by
  rw [ungraded, checkRate_of_falling]; exact h

end enter

theorem isRising_iff {g : GasType} : isRising g = true ↔ g = .ch4 ∨ g = .co := by cases g <;> decide

theorem isRising_eq_false_iff {g : GasType} : isRising g = false ↔ g = .o2 ∨ g = .air := by cases g <;> decide

/-- Settles O25: the rows are those of `gradeRising` and `gradeFalling` on the ungraded record, one lemma for each level they
start from. -/
theorem levelGrading : Obligations.LevelGrading := by
  intro x now v sat hx
  dsimp only
  rw [Channel.enter_level now v sat hx, Channel.enter_f now v sat hx, Channel.enter_riseSet now v sat hx]
  refine ⟨⟨Channel.enter_lastValid now v sat, Channel.enter_staleAt now v sat⟩, fun hg => ?rising, fun hg => ?falling⟩
  case rising =>
    have hrise : (x.ungraded v).grade = (x.ungraded v).gradeRising := by simp [Channel.grade, isRising_iff.mpr hg]
    have alarmed := Channel.gradeRising_of_alarmed (x := x.ungraded v)
    have fromNormal := Channel.gradeRising_of_normal (x := x.ungraded v)
    have fromAlert := Channel.gradeRising_of_alert (x := x.ungraded v)
    have fromAlarm := Channel.gradeRising_of_alarm (x := x.ungraded v)
    simp only [Channel.ungraded_alert, Channel.ungraded_alarm, Channel.ungraded_hysteresis, Channel.ungraded_level]
      at alarmed fromNormal fromAlert fromAlarm
    rw [hrise]
    exact ⟨alarmed,
      fun h hl ha => by rw [fromNormal h hl, if_pos ha],
      fun h hl ha => by rw [fromNormal h hl, if_neg ha.not_ge],
      fun h hl low => by rw [fromAlert h hl, if_pos low],
      fun h hl low => by rw [fromAlert h hl, if_neg low],
      fun h hl low => by rw [fromAlarm h hl, if_pos low],
      fun h hl low ha => by rw [fromAlarm h hl, if_neg low, if_pos ha],
      fun h hl low ha => by rw [fromAlarm h hl, if_neg low, if_neg ha.not_gt]⟩
  case falling =>
    have hnot := isRising_eq_false_iff.mpr hg
    have hfall : (x.ungraded v).grade = (x.ungraded v).gradeFalling := by simp [Channel.grade, hnot]
    have alarmed := Channel.gradeFalling_of_alarmed (x := x.ungraded v)
    have fromNormal := Channel.gradeFalling_of_normal (x := x.ungraded v)
    have fromAlert := Channel.gradeFalling_of_alert (x := x.ungraded v)
    have fromAlarm := Channel.gradeFalling_of_alarm (x := x.ungraded v)
    simp only [Channel.ungraded_alert, Channel.ungraded_alarm, Channel.ungraded_hysteresis, Channel.ungraded_level]
      at alarmed fromNormal fromAlert fromAlarm
    rw [hfall]
    exact ⟨Channel.ungraded_riseSet_of_falling v hnot, alarmed,
      fun h hl ha => by rw [fromNormal h hl, if_pos ha],
      fun h hl ha => by rw [fromNormal h hl, if_neg ha.not_ge],
      fun h hl high => by rw [fromAlert h hl, if_pos high],
      fun h hl high => by rw [fromAlert h hl, if_neg high],
      fun h hl high => by rw [fromAlarm h hl, if_pos high],
      fun h hl high ha => by rw [fromAlarm h hl, if_neg high, if_pos ha],
      fun h hl high ha => by rw [fromAlarm h hl, if_neg high, if_neg ha.not_ge]⟩

/-! ## The zone a channel is assigned to (R2, R22) -/

theorem State.channelZone_congr {s t : State} {d : ChanNo} (hcfg : (t.channels.get d).configured = (s.channels.get d).configured)
    (hsrc : (t.channels.get d).source = (s.channels.get d).source) (hzone : (t.channels.get d).zone = (s.channels.get d).zone)
    (hlist : t.listZone = s.listZone) : t.channelZone d = s.channelZone d := by
  unfold channelZone; dsimp only; rw [hcfg, hsrc, hzone, hlist]

/-- A change that keeps a channel's source and zone moves no channel to another zone. -/
theorem State.channelZone_modChannel {s : State} {c : ChanNo} {f : Channel → Channel}
    (hcfg : (f (s.channels.get c)).configured = (s.channels.get c).configured)
    (hsrc : (f (s.channels.get c)).source = (s.channels.get c).source)
    (hzone : (f (s.channels.get c)).zone = (s.channels.get c).zone) (d : ChanNo) :
    (s.modChannel c f).channelZone d = s.channelZone d := by
  by_cases hd : c = d
  · subst hd; exact channelZone_congr (by simpa) (by simpa) (by simpa) rfl
  · exact channelZone_congr (by simp [hd]) (by simp [hd]) (by simp [hd]) rfl

/-! ## The summary that R6 gives a zone -/

theorem summaryRank_le_worse (a b : Summary) : summaryRank a ≤ summaryRank (worse a b) ∧
    summaryRank b ≤ summaryRank (worse a b) := by
  unfold worse; split <;> omega

theorem worse_eq_or (a b : Summary) : worse a b = a ∨ worse a b = b := by
  unfold worse; split <;> simp

/-- A fold of `worse` ranks no lower than its start or any item. -/
theorem le_foldl_worse {α : Type} (f : α → Summary) (l : List α) (a : Summary) :
    summaryRank a ≤ summaryRank (l.foldl (fun b i => worse b (f i)) a) ∧
      ∀ i ∈ l, summaryRank (f i) ≤ summaryRank (l.foldl (fun b i => worse b (f i)) a) := by
  induction l generalizing a with
  | nil => simp
  | cons i l ih =>
    obtain ⟨hstart, hitems⟩ := ih (worse a (f i))
    obtain ⟨ha, hi⟩ := summaryRank_le_worse a (f i)
    exact ⟨ha.trans hstart, List.forall_mem_cons.mpr ⟨hi.trans hstart, hitems⟩⟩

/-- A fold of `worse` is its start or one of its items. -/
theorem foldl_worse_mem {α : Type} (f : α → Summary) (l : List α) (a : Summary) :
    l.foldl (fun b i => worse b (f i)) a = a ∨ ∃ i ∈ l, l.foldl (fun b i => worse b (f i)) a = f i := by
  induction l generalizing a with
  | nil => simp
  | cons i l ih =>
    rw [List.foldl_cons]
    rcases ih (worse a (f i)) with h | ⟨j, hj, h⟩
    · rcases worse_eq_or a (f i) with hw | hw
      · exact .inl (h.trans hw)
      · exact .inr ⟨i, List.mem_cons_self, h.trans hw⟩
    · exact .inr ⟨j, List.mem_cons_of_mem i hj, h⟩

section gradeOf
variable {s : State} {z : ZoneNo}

/-- No channel of a zone outranks the zone's grade. -/
theorem State.le_gradeOf {c : ChanNo} (h : s.channelZone c = some z) :
    summaryRank (summaryOf (s.channels.get c).level) ≤ summaryRank (s.gradeOf z) :=
  (le_foldl_worse (fun c => summaryOf (s.channels.get c).level) (s.channelsOf z) .normal).2 c (mem_channelsOf.mpr h)

/-- A zone's grade is NORMAL or that of one of its channels. -/
theorem State.gradeOf_attained (s : State) (z : ZoneNo) :
    s.gradeOf z = .normal ∨ ∃ c, s.channelZone c = some z ∧ s.gradeOf z = summaryOf (s.channels.get c).level := by
  simpa only [gradeOf, mem_channelsOf] using
    foldl_worse_mem (fun c => summaryOf (s.channels.get c).level) (s.channelsOf z) .normal

theorem summaryOf_eq_alarm {l : Level} : summaryOf l = .alarm ↔ l = .alarm := by cases l <;> decide

/-- A channel in FAULT and none in ALARM grade their zone FAULT. -/
theorem State.gradeOf_eq_fault {c : ChanNo} (hc : s.channelZone c = some z) (hl : (s.channels.get c).level = .fault)
    (hno : ∀ d, s.channelZone d = some z → (s.channels.get d).level ≠ .alarm) : s.gradeOf z = .fault := by
  have hrank := le_gradeOf hc
  rw [hl] at hrank
  cases hg : s.gradeOf z with
  | fault => rfl
  | normal => simp [hg, summaryOf, summaryRank] at hrank
  | alert => simp [hg, summaryOf, summaryRank] at hrank
  | alarm =>
    rcases s.gradeOf_attained z with h | ⟨d, hd, h⟩
    · simp [hg] at h
    · exact absurd (summaryOf_eq_alarm.mp (h.symm.trans hg)) (hno d hd)

end gradeOf

/-! ## Handing on a channel that came into FAULT (R41) -/

section handOn
variable {s : State} {st : Starter} {z : ZoneNo} {c : ChanNo}

/-- A zone's new summary and its ZONE report. -/
theorem State.reportZone_newSummary (s : State) (z : ZoneNo) (new prev : Summary) (view : Option TripState) :
    (s.modZone z fun y => { y with summary := new }).reportZone z prev view =
      (s.modZone z fun y => { y with summary := new }).report ⟨.safety, 0x82,
        num z ++ named summaries prev ++ named summaries new ++ named powerViews view ++
          named powerViews (s.zones.get z).view ++ s.countsField z⟩ := by
  simp [reportZone, countsField, missingCount]

/-- A recomputation to FAULT in a zone without an on_fault program: the summary and its report alone. -/
theorem State.recompute_fault_unbound (hcfg : (s.zones.get z).configured = true) (hgrade : s.gradeOf z = .fault)
    (hsum : (s.zones.get z).summary ≠ .fault) (hprog : (s.zones.get z).onFault = none) :
    s.recompute st z =
      (s.modZone z fun y => { y with summary := .fault }).reportZone z (s.zones.get z).summary (s.zones.get z).view := by
  have hnone : ∀ t : State, (t.zones.get z).onFault = none → ∀ prev, t.startSummary st z prev .fault = t := by
    intro t ht prev; simp [startSummary, startBound, ht]
  simp only [recompute, hgrade, hcfg, hsum.symm, ne_eq, not_false_eq_true, and_self, ↓reduceIte]
  exact hnone _ (by simp [reportZone, hprog]) _

/-- A channel that is in FAULT and does not qualify is handed on to its zone alone. -/
theorem State.handOn_fault {x : Channel} (hl : (s.channels.get c).level = .fault)
    (hq : (s.channels.get c).qualifies = false) (hz : s.channelZone c = some z) :
    s.handOn st c x = (s.reportChannel c x.level).recompute st z := by
  have hzone : (s.reportChannel c x.level).channelZone c = some z := hz
  simp [handOn, rfmChannel, hl, hq, hzone]

end handOn

/-! ## SET_SERVICE (R25, R26) -/

section service
variable {s : State} {c : ChanNo}

theorem exec_setServiceOut_ready (h : s.Ready) (tag : Byte) (k : Nat) : exec (.setServiceOut tag k) s =
    .next ((s.doSetService k 1).state.answered tag (replyBody 0x06 (s.doSetService k 1))) :=
  congrArg _ (s.request_ready h tag (.setService k 1))

theorem exec_setServiceIn_ready (h : s.Ready) (tag : Byte) (k : Nat) : exec (.setServiceIn tag k) s =
    .next ((s.doSetService k 0).state.answered tag (replyBody 0x06 (s.doSetService k 0))) :=
  congrArg _ (s.request_ready h tag (.setService k 0))

theorem State.doSetService_outside (s : State) {k : Nat} (h : k = 0 ∨ 32 < k) (v : Nat) :
    s.doSetService k v = s.refuse .badValue := by
  simp [doSetService, index?_eq_none.mpr h]

theorem State.doSetService_unconfigured (h : (s.channels.get c).configured = false) {k : Nat} {v : Service}
    (hv : services[k]? = some v) : s.doSetService (number c) k = s.refuse .notFound := by
  simp [doSetService, hv, h]

theorem State.doSetService_already (h : (s.channels.get c).configured = true) {k : Nat}
    (hv : services[k]? = some (s.channels.get c).service) : s.doSetService (number c) k = s.accept := by
  simp [doSetService, hv, h]

theorem State.doSetService_out (h : (s.channels.get c).configured = true) (hs : (s.channels.get c).service = .inService) :
    s.doSetService (number c) 1 = (s.takeOut sendStart c).accept := by
  simp [doSetService, services, h, hs]

theorem State.doSetService_in (h : (s.channels.get c).configured = true)
    (hs : (s.channels.get c).service = .outOfService) : s.doSetService (number c) 0 = (s.takeIn c).accept := by
  simp [doSetService, services, h, hs]

/-- A channel OUT of service: in FAULT with that cause, its stale timer stopped. -/
def Channel.outOf (x : Channel) : Channel :=
  { x with service := .outOfService, level := .fault, cause := some .outOfService, staleAt := none }

theorem State.takeOut_of_fault {st : Starter} (h : (s.channels.get c).level = .fault) :
    s.takeOut st c = (s.modChannel c Channel.outOf).reportChannel c .fault := if_pos h

theorem State.takeOut_of_not_fault {st : Starter} (h : (s.channels.get c).level ≠ .fault) :
    s.takeOut st c = (s.modChannel c Channel.outOf).handOn st c (s.channels.get c) := if_neg h

theorem Channel.outOf_qualifies {x : Channel} (h : x.qualification ≠ .alarmOrFault) : x.outOf.qualifies = false :=
  Bool.eq_false_iff.mpr fun hq => by simpa [outOf, h] using (Channel.qualifies_iff _).mp hq

/-- Taken OUT with no other channel of its zone in ALARM, a zone not yet in FAULT grades FAULT; with no program and no demand
to start, the two reports are all that follows. -/
theorem State.takeOut_reports {st : Starter} {z : ZoneNo} (hl : (s.channels.get c).level ≠ .fault)
    (hz : s.channelZone c = some z) (hcfg : (s.zones.get z).configured = true) (hsum : (s.zones.get z).summary ≠ .fault)
    (hno : ∀ d, d ≠ c → s.channelZone d = some z → (s.channels.get d).level ≠ .alarm)
    (hprog : (s.zones.get z).onFault = none) (hqual : (s.channels.get c).qualification ≠ .alarmOrFault) :
    s.takeOut st c = ((((s.modChannel c Channel.outOf).reportChannel c (s.channels.get c).level).modZone z fun y =>
      { y with summary := .fault }).report ⟨.safety, 0x82, num z ++ named summaries (s.zones.get z).summary ++
        named summaries .fault ++ named powerViews (s.zones.get z).view ++ named powerViews (s.zones.get z).view ++
        s.countsField z⟩) := by
  generalize hout : s.modChannel c Channel.outOf = out
  have hzone : ∀ d, out.channelZone d = s.channelZone d := fun d => hout ▸ channelZone_modChannel rfl rfl rfl d
  have hself : out.channels.get c = (s.channels.get c).outOf := by simp [← hout]
  have hother : ∀ d, d ≠ c → out.channels.get d = s.channels.get d := fun d hd => by simp [← hout, hd.symm]
  have hlevel : (out.channels.get c).level = .fault := by rw [hself]; rfl
  have hzones : out.zones = s.zones := by rw [← hout]; rfl
  have hgrade : out.gradeOf z = .fault := gradeOf_eq_fault ((hzone c).trans hz) hlevel fun d hd => by
    by_cases hdc : d = c
    · simp [hdc, hlevel]
    · rw [hother d hdc]; exact hno d hdc ((hzone d).symm.trans hd)
  have hcounts : out.countsField z = s.countsField z := by rw [← hout]; rfl
  have hfault : (out.reportChannel c (s.channels.get c).level).recompute st z = _ :=
    recompute_fault_unbound (by simpa [reportChannel, hzones]) hgrade (by simpa [reportChannel, hzones])
      (by simpa [reportChannel, hzones])
  rw [takeOut_of_not_fault hl, hout, handOn_fault hlevel (hself ▸ Channel.outOf_qualifies hqual) ((hzone c).trans hz), hfault,
    reportZone_newSummary, ← hcounts, ← hzones]
  rfl

/-- The cause of a channel returned to service is the one its head's device brings, or else NO_SAMPLE. -/
theorem State.causeOnReturn_of_head {r : DevRef} {n : Fin 4} {e : EntryNo}
    (hsrc : (s.channels.get c).source = some (.head r n)) (hdev : s.deviceAt r = some e) :
    s.causeOnReturn c = (deviceFault (s.devices.get e).state).getD .noSample := by
  simp only [causeOnReturn, hsrc, hdev, Option.map_some]
  cases (s.devices.get e).state <;> rfl

theorem State.causeOnReturn_of_vehicle {v : VehNo} (hsrc : (s.channels.get c).source = some (.vehicle v)) :
    s.causeOnReturn c = .noSample := by
  simp only [causeOnReturn, hsrc]

/-- SET_SERVICE IN on a channel OUT of service, with the cause it returns with. -/
theorem exec_setServiceIn_returns (h : s.Ready) (tag : Byte) (hcfg : (s.channels.get c).configured = true)
    (hs : (s.channels.get c).service = .outOfService) {cause : FaultCause} (hcause : s.causeOnReturn c = cause) :
    exec (.setServiceIn tag (number c)) s = .next (((s.modChannel c fun y =>
      { y with service := .inService, cause := some cause }).reportChannel c .fault).answered tag [0x06, 0x00]) := by
  subst hcause
  rw [exec_setServiceIn_ready h, State.doSetService_in hcfg hs]; rfl

/-- SET_SERVICE OUT on a channel IN service. -/
theorem exec_setServiceOut_takesOut (h : s.Ready) (tag : Byte) (hcfg : (s.channels.get c).configured = true)
    (hs : (s.channels.get c).service = .inService) :
    exec (.setServiceOut tag (number c)) s = .next ((s.takeOut sendStart c).answered tag [0x06, 0x00]) := by
  rw [exec_setServiceOut_ready h, State.doSetService_out hcfg hs]; rfl

end service

/-- Settles O23: each answer of `doSetService`, with what `takeOut` and `takeIn` leave. -/
theorem setService : Obligations.SetService := by
  intro s tag h
  refine ⟨fun k hk => ⟨?outsideOut, ?outsideIn⟩, fun c => ⟨fun hcfg => ⟨?unconfiguredOut, ?unconfiguredIn⟩,
    fun hcfg hs => ?alreadyOut, fun hcfg hs => ⟨?alreadyIn, fun hl => ?outFromFault, fun hl => ⟨?outHandedOn,
      fun z hz hzcfg hsum hno hprog hqual => ?outReports⟩⟩,
    fun hcfg hs => ⟨fun r n e hsrc hdev => ?inHead, fun v hsrc => ?inVehicle⟩⟩⟩
  case outsideOut => rw [exec_setServiceOut_ready h, s.doSetService_outside hk]; rfl
  case outsideIn => rw [exec_setServiceIn_ready h, s.doSetService_outside hk]; rfl
  case unconfiguredOut =>
    rw [exec_setServiceOut_ready h, State.doSetService_unconfigured hcfg (v := .outOfService) rfl]; rfl
  case unconfiguredIn => rw [exec_setServiceIn_ready h, State.doSetService_unconfigured hcfg (v := .inService) rfl]; rfl
  case alreadyOut => rw [exec_setServiceOut_ready h, State.doSetService_already hcfg (by rw [hs]; rfl)]; rfl
  case alreadyIn => rw [exec_setServiceIn_ready h, State.doSetService_already hcfg (by rw [hs]; rfl)]; rfl
  case outFromFault => rw [exec_setServiceOut_takesOut h tag hcfg hs, State.takeOut_of_fault hl]; rfl
  case outHandedOn => rw [exec_setServiceOut_takesOut h tag hcfg hs, State.takeOut_of_not_fault hl]; rfl
  case outReports =>
    rw [exec_setServiceOut_takesOut h tag hcfg hs, State.takeOut_reports hl hz hzcfg hsum hno hprog hqual]; rfl
  case inHead =>
    have returns {cause : FaultCause} (hd : (deviceFault (s.devices.get e).state).getD .noSample = cause) :=
      exec_setServiceIn_returns h tag hcfg hs ((State.causeOnReturn_of_head hsrc hdev).trans hd)
    exact ⟨fun hd => returns (by rw [hd]; rfl), fun hd => returns (by rw [hd]; rfl),
      fun hd => returns (by rcases hd with hd | hd <;> rw [hd] <;> rfl)⟩
  case inVehicle => exact exec_setServiceIn_returns h tag hcfg hs (State.causeOnReturn_of_vehicle hsrc)

end Sys2Proof.Machine
end

section
/-! PROOFS. The statement on the pattern of a signal output (R64): the fold that picks the winning runner, the output while each
pattern is shown, and the pattern chosen again after a change of the driver set. -/

namespace Sys2Proof.Machine

/-! ## The winning runner of a driver set (R64) -/

/-- The winner so far, and the next entry of the set: a runner wins when none has yet, or with a higher urgency. -/
def winnerAfter : Option (Pattern × Nat) → Driver → Option (Pattern × Nat)
  | none, .runner _ p u => some (p, u)
  | some (q, w), .runner _ p u => if w < u then some (p, u) else some (q, w)
  | best, .warning _ => best

theorem winner_eq_foldl (ds : List Driver) : winner ds = ds.foldl winnerAfter none := by
  unfold winner
  congr 1
  funext best d
  cases best <;> cases d <;> rfl

/-- A runner takes the place of a winner of lower urgency, or of none. -/
theorem winnerAfter_higher {best : Option (Pattern × Nat)} {r : RunnerNo} {p : Pattern} {u : Nat}
    (h : ∀ b ∈ best, b.2 < u) : winnerAfter best (.runner r p u) = some (p, u) := by
  cases best with
  | none => rfl
  | some b => exact if_pos (h b rfl)

/-- A runner of no higher urgency leaves the winner, which is earlier in the set. -/
theorem winnerAfter_not_higher {r : RunnerNo} {p q : Pattern} {u w : Nat} (h : w ≤ u) :
    winnerAfter (some (p, u)) (.runner r q w) = some (p, u) := if_neg h.not_gt

/-- A runner of lower urgency than `u` leaves a winner of lower urgency than `u`. -/
theorem winnerAfter_urgency_lt {best : Option (Pattern × Nat)} {r : RunnerNo} {p : Pattern} {u w : Nat}
    (hbest : ∀ b ∈ best, b.2 < u) (hw : w < u) : ∀ b ∈ winnerAfter best (.runner r p w), b.2 < u := by
  cases best with
  | none => rintro _ ⟨⟩; exact hw
  | some b =>
    rcases Nat.lt_or_ge b.2 w with hlt | hge
    · rw [winnerAfter_higher (by simpa using hlt)]; rintro _ ⟨⟩; exact hw
    · rw [winnerAfter_not_higher hge]; exact hbest

/-- Runners of lower urgency than `u`, one after the other, leave a winner of lower urgency than `u`. -/
theorem foldl_winnerAfter_urgency_lt {ds : List Driver} {u : Nat} {best : Option (Pattern × Nat)}
    (hds : ∀ d ∈ ds, ∃ r p w, d = .runner r p w ∧ w < u) (hbest : ∀ b ∈ best, b.2 < u) :
    ∀ b ∈ ds.foldl winnerAfter best, b.2 < u := by
  induction ds generalizing best with
  | nil => exact hbest
  | cons d ds ih =>
    obtain ⟨⟨r, p, w, rfl, hw⟩, hrest⟩ := List.forall_mem_cons.mp hds
    exact ih hrest (winnerAfter_urgency_lt hbest hw)

/-- Runners of no higher urgency leave the winner. -/
theorem foldl_winnerAfter_not_higher {ds : List Driver} {p : Pattern} {u : Nat}
    (hds : ∀ d ∈ ds, ∃ r q w, d = .runner r q w ∧ w ≤ u) : ds.foldl winnerAfter (some (p, u)) = some (p, u) := by
  induction ds with
  | nil => rfl
  | cons d ds ih =>
    obtain ⟨⟨r, q, w, rfl, hw⟩, hrest⟩ := List.forall_mem_cons.mp hds
    rw [List.foldl_cons, winnerAfter_not_higher hw, ih hrest]

/-- The winner has a higher urgency than every entry before it and no lower one than every entry after it. -/
theorem winner_of_highest {before after : List Driver} {r : RunnerNo} {p : Pattern} {u : Nat}
    (hbefore : ∀ d ∈ before, ∃ q p' w, d = .runner q p' w ∧ w < u)
    (hafter : ∀ d ∈ after, ∃ q p' w, d = .runner q p' w ∧ w ≤ u) :
    winner (before ++ .runner r p u :: after) = some (p, u) := by
  have hlow : ∀ b ∈ before.foldl winnerAfter none, b.2 < u := foldl_winnerAfter_urgency_lt hbefore (by simp)
  rw [winner_eq_foldl, List.foldl_append, List.foldl_cons, winnerAfter_higher hlow, foldl_winnerAfter_not_higher hafter]

/-! ## The pattern chosen (R63, R64) -/

theorem chosenPattern_of_warning {ds : List Driver} {o : OutNo} (h : .warning o ∈ ds) : chosenPattern ds = some .fast :=
  if_pos (List.any_eq_true.mpr ⟨_, h, rfl⟩)

/-- Without a trip warning the winner's pattern is chosen. -/
theorem chosenPattern_of_no_warning {ds : List Driver} (h : ∀ o, .warning o ∉ ds) :
    chosenPattern ds = (winner ds).map Prod.fst := by
  refine if_neg fun hany => ?_
  obtain ⟨d, hd, hwarning⟩ := List.any_eq_true.mp hany
  cases d with
  | runner => cases hwarning
  | warning o => exact h o hd

/-! ## The output while a pattern is shown (R64) -/

section driven
variable {s : State} {g : SigNo}

theorem State.signalDriven_off (h : (s.signals.get g).shown = none) : s.signalDriven g = false := by
  simp [signalDriven, h]

theorem State.signalDriven_steady (h : (s.signals.get g).shown = some .steady) : s.signalDriven g = true := by
  simp [signalDriven, h]

/-- SLOW is on in the first half second of the time `d` since the phase began, and in every other one. -/
theorem State.signalDriven_slow {d : Nat} (h : (s.signals.get g).shown = some .slow)
    (hnow : s.now = (s.signals.get g).phaseFrom + d) : s.signalDriven g = true ↔ d / 5 % 2 = 0 := by
  simp [signalDriven, h, hnow]

/-- FAST is on in the first tenth of a second of the time `d` since the phase began, and in every other one. -/
theorem State.signalDriven_fast {d : Nat} (h : (s.signals.get g).shown = some .fast)
    (hnow : s.now = (s.signals.get g).phaseFrom + d) : s.signalDriven g = true ↔ d % 2 = 0 := by
  simp [signalDriven, h, hnow]

end driven

/-! ## A change of the driver set (R64) -/

section chooseAgain
variable (now : Time) (x : Signal)

@[simp] theorem chooseAgain_drivers : (chooseAgain now x).drivers = x.drivers := by
  unfold chooseAgain; dsimp only; split <;> rfl

@[simp] theorem chooseAgain_shown : (chooseAgain now x).shown = chosenPattern x.drivers := by
  unfold chooseAgain; dsimp only; split
  next hsame => exact hsame.symm
  next => rfl

@[simp] theorem chooseAgain_phaseFrom :
    (chooseAgain now x).phaseFrom = if chosenPattern x.drivers = x.shown then x.phaseFrom else now := by
  unfold chooseAgain; dsimp only; split <;> rfl

end chooseAgain

theorem State.changeDrivers_get (s : State) (g : SigNo) (f : List Driver → List Driver) :
    (s.changeDrivers g f).signals.get g =
      chooseAgain s.now { s.signals.get g with drivers := f (s.signals.get g).drivers } := by
  simp [changeDrivers]

/-- Settles O38: the choice among the drivers by the winner of the fold, the output by the pattern shown, and a changed set by
what `chooseAgain` leaves. -/
theorem signalPattern : Obligations.SignalPattern := by
  refine ⟨rfl, fun ds o => chosenPattern_of_warning, fun before after r p u hbefore hafter => ?runner,
    fun s g n r => ⟨State.signalDriven_off, State.signalDriven_steady, fun hshown hnow hr => ?slow,
      fun hshown hnow hr => ?fast⟩, fun s g f => ?change⟩
  case runner =>
    have hno : ∀ o, .warning o ∉ before ++ .runner r p u :: after := by
      intro o ho
      rcases List.mem_append.mp ho with hb | ha
      · obtain ⟨_, _, _, ⟨⟩, _⟩ := hbefore _ hb
      · obtain ⟨_, _, _, ⟨⟩, _⟩ := hafter _ ((List.mem_cons.mp ha).resolve_left Driver.noConfusion)
    rw [chosenPattern_of_no_warning hno, winner_of_highest hbefore hafter]; rfl
  case slow => rw [State.signalDriven_slow hshown (hnow.trans (Nat.add_assoc ..))]; omega
  case fast => rw [State.signalDriven_fast hshown (hnow.trans (Nat.add_assoc ..))]; omega
  case change =>
    dsimp only
    rw [State.changeDrivers_get]
    exact ⟨chooseAgain_drivers _ _, chooseAgain_shown _ _, chooseAgain_phaseFrom _ _⟩

end Sys2Proof.Machine
end

section
/-! PROOFS. The statements on the queue of commands and the passage of time, and the two invariants of every step: what a field
event leaves alone, and the bounds, HELD outputs and tables that every step keeps. -/

namespace Sys2Proof.Machine

/-! ## The queue of commands -/

/-- Settles O1. -/
theorem stepRunsFrontCommand : Obligations.StepRunsFrontCommand := fun _ _ _ => rfl

/-! ## The passage of time (log entry 2) -/

theorem earlier_eq_or (a b : Time × Instr) : earlier a b = a ∨ earlier a b = b := by
  unfold earlier; split_ifs <;> simp

theorem earlier_le (a b : Time × Instr) : (earlier a b).1 ≤ a.1 ∧ (earlier a b).1 ≤ b.1 := by
  unfold earlier; split_ifs with h
  · exact ⟨h.le, le_rfl⟩
  · exact ⟨le_rfl, not_lt.mp h⟩

/-- The fold over `earlier` picks a timer of the list that ends no later than any other. -/
theorem foldl_earlier (l : List (Time × Instr)) (x : Time × Instr) :
    l.foldl earlier x ∈ x :: l ∧ ∀ y ∈ x :: l, (l.foldl earlier x).1 ≤ y.1 := by
  induction l generalizing x with
  | nil => simp
  | cons a l ih =>
    obtain ⟨hmem, hle⟩ := ih (earlier x a)
    have hx := earlier_le x a
    have hhead := hle _ List.mem_cons_self
    refine ⟨?_, ?_⟩
    · rcases List.mem_cons.mp hmem with h | h
      · rw [List.foldl_cons, h]
        rcases earlier_eq_or x a with e | e <;> simp [e]
      · exact List.mem_cons_of_mem _ (List.mem_cons_of_mem _ h)
    · intro y hy
      rw [List.foldl_cons]
      rcases List.mem_cons.mp hy with rfl | hy
      · exact hhead.trans hx.1
      · rcases List.mem_cons.mp hy with rfl | hy
        · exact hhead.trans hx.2
        · exact hle y (List.mem_cons_of_mem _ hy)

theorem State.dueExpiry_none {s : State} (h : ∀ x ∈ s.timers, s.now < x.1) : s.dueExpiry = none := by
  unfold dueExpiry
  cases hl : s.timers with
  | nil => rfl
  | cons x rest =>
    exact if_neg (h _ (hl ▸ (foldl_earlier rest x).1)).not_ge

theorem State.dueExpiry_some {s : State} (h : ∃ x ∈ s.timers, x.1 ≤ s.now) :
    ∃ x ∈ s.timers, x.1 ≤ s.now ∧ (∀ y ∈ s.timers, x.1 ≤ y.1) ∧ s.dueExpiry = some x.2 := by
  obtain ⟨w, hw, hdue⟩ := h
  unfold dueExpiry
  cases hl : s.timers with
  | nil => simp [hl] at hw
  | cons x rest =>
    obtain ⟨hmem, hle⟩ := foldl_earlier rest x
    have he := (hle w (hl ▸ hw)).trans hdue
    exact ⟨_, hmem, he, hle, if_pos he⟩

/-- Settles O2. -/
theorem stepLetsTimePass : Obligations.StepLetsTimePass := by
  intro s hp
  have hstep : step s = s.tick := by simp [step, hp]
  rw [hstep, State.tick]
  refine ⟨fun h => by rw [State.dueExpiry_none h], fun h => ?_⟩
  obtain ⟨x, hx, hdue, hle, he⟩ := State.dueExpiry_some h
  exact ⟨x, hx, hdue, hle, by rw [he]⟩

/-! ## What the effect of a field event leaves alone -/

/-- What is left of the standing state by the effect of a field event, which may also move the time base to the expiry of a timer;
and of the tables' agreement. -/
structure State.Leaves (s t : State) : Prop where
  standing : ∃ n, t.standing = { s.standing with now := n }
  whole : s.Whole → t.Whole

/-- A field event: its effect and the transmitter's next frame, or, while a reset lasts, at most the level of a pin. -/
def State.FieldEvent (s t : State) : Prop :=
  ∃ u, s.Leaves u ∧
    (s.slp.inReset = none ∧ t = u.beginSending ∨ s.slp.inReset.isSome = true ∧ t = u ∧ u.calls = s.calls)

section effects
variable {s : State}

theorem State.Leaves.of {t : State} (h : t.standing = s.standing) (ha : s.Whole → t.Agree {}) : s.Leaves t :=
  ⟨⟨s.now, h⟩, fun hs => whole_of h hs fun _ => ha hs⟩

theorem State.Leaves.refl : s.Leaves s := .of rfl fun h => h.2

theorem State.Leaves.of_reach {a : Time} {t : State} (h : (s.reach a).Leaves t) : s.Leaves t := by
  obtain ⟨⟨n, hn⟩, hw⟩ := h
  exact ⟨⟨n, hn⟩, fun hs => hw (whole_of_tables hs rfl rfl rfl rfl rfl rfl rfl rfl rfl)⟩

theorem State.Leaves.expiry {t : Option Time} {f : State → State}
    (h : ∀ a, t = some a → (s.reach a).Leaves (f (s.reach a))) : s.Leaves (s.expiry t f) := by
  unfold State.expiry; split
  · exact .refl
  · next a => exact .of_reach (h a rfl)

theorem State.event_field {f : State → State} (h : s.Leaves (f s)) : s.FieldEvent (s.event f) := by
  unfold event; split
  · next hr => exact ⟨s, .refl, .inr ⟨hr, rfl, rfl⟩⟩
  · next hr => exact ⟨f s, h, .inl ⟨by simpa using hr, rfl⟩⟩

theorem State.pinEvent_field {l f : State → State} (hl : s.Leaves (l s)) (hc : (l s).calls = s.calls) (h : s.Leaves (f s)) :
    s.FieldEvent (s.pinEvent l f) := by
  unfold pinEvent; split
  · next hr => exact ⟨_, hl, .inr ⟨hr, rfl, hc⟩⟩
  · next hr => exact ⟨_, h, .inl ⟨by simpa using hr, rfl⟩⟩

/-- The level of an F or M pin. -/
theorem State.modTrip_leaves {o : OutNo} {p : Trip → Trip} (hp : (p (s.trips.get o)).settings = (s.trips.get o).settings)
    (hs : (p (s.trips.get o)).state = (s.trips.get o).state) : s.Leaves (s.modTrip o p) :=
  .of (modTrip_standing _ hp (by rw [hs])) fun h => modTrip_agree h.2

end effects

theorem Trip.confirmTimer_some {t : Trip} {st : TripState} {a : Time} (h : t.confirmTimer st = some a) : t.state = st := by
  unfold confirmTimer at h; split at h
  · assumption
  · cases h

theorem Trip.waitTimer_some {t : Trip} {a : Time} (h : t.waitTimer = some a) : t.state = .waiting := by
  unfold waitTimer at h; split at h
  · assumption
  · cases h

/-- The commands that are events of the field, of a pin, of the trunk or of a timer of the part. -/
def isFieldEvent : Instr → Bool
  | .deviceReply .. | .replyLimitExpiry .. | .emptyRoundExpiry _ | .staleExpiry _ | .waitExpiry _ | .confirmExpiry _
  | .closeConfirmExpiry _ | .feedbackChange .. | .manualEdge .. | .faultSenseChange .. | .absenceExpiry _ | .setupExpiry _
  | .ringExpiry _ | .heldExpiry _ | .partyLostExpiry .. | .goodMark | .missedMark | .lostExpiry _ | .waitEntryExpiry _
  | .walkDeadline _ | .overstayExpiry _ | .periodExpiry _ | .stepCountEnd _ | .slotWaitExpiry _
  | .manualInputLeavesActiveLevel .. => true
  | _ => false

open State in
/-- Every event of the field, of a pin, of the trunk or of a timer is a `FieldEvent`: one arm of `exec` after another, each from
what the block that takes it leaves alone. -/
theorem exec_field {c : Instr} (hc : isFieldEvent c = true) (s : State) : ∃ t, exec c s = .next t ∧ s.FieldEvent t := by
  cases c
  case deviceReply => exact ⟨_, rfl, event_field (.of (by simp) fun h => spurReply_agree h.2 h.1)⟩
  case replyLimitExpiry => exact ⟨_, rfl, event_field (.of (by simp) fun h => spurNoReply_agree h.2)⟩
  case emptyRoundExpiry => exact ⟨_, rfl, event_field (.of (by simp) fun h => emptyRoundEnds_agree h.2)⟩
  case staleExpiry =>
    exact ⟨_, rfl, event_field (.expiry fun a _ => .of (by simp) fun h => staleFault_agree sendStart_agrees h.2)⟩
  case waitExpiry =>
    refine ⟨_, rfl, event_field (.expiry fun a ht => .of ?_ fun h => settle_agree (endWait_agree h.2))⟩
    rw [settle_standing, endWait_standing _ (by simp [Trip.waitTimer_some ht])]
  case confirmExpiry =>
    refine ⟨_, rfl, event_field (.expiry fun a ht => .of ?_ fun h => settle_agree (confirmEnds_agree h.2))⟩
    rw [settle_standing, confirmEnds_standing _ (by simp [Trip.confirmTimer_some ht])]
  case closeConfirmExpiry =>
    exact ⟨_, rfl, event_field (.expiry fun a _ => .of (by simp) fun h => closeConfirmEnds_agree h.2)⟩
  case feedbackChange =>
    refine ⟨_, rfl, pinEvent_field (modTrip_leaves rfl rfl) rfl (.of ?_ fun h => settle_agree (rereadFeedback_agree h.2))⟩
    rw [settle_standing, rereadFeedback_standing] <;> rfl
  case manualEdge =>
    exact ⟨_, rfl, pinEvent_field (modTrip_leaves rfl rfl) rfl (.of (by simp) fun h => settle_agree (manualLevel_agree h.2))⟩
  case manualInputLeavesActiveLevel =>
    exact ⟨_, rfl, pinEvent_field (modTrip_leaves rfl rfl) rfl (.of (by simp) fun h => settle_agree (manualLevel_agree h.2))⟩
  case faultSenseChange =>
    exact ⟨_, rfl, pinEvent_field (.of rfl fun h => modSignal_agree h.2) rfl (.of (by simp) fun h => senseChange_agree h.2)⟩
  case absenceExpiry r =>
    refine ⟨_, rfl, event_field (.expiry fun a ht => .of (by simp) fun h => absent_agree h.2 ?_)⟩
    obtain ⟨x, hx, hxa⟩ := Option.bind_eq_some_iff.mp ht
    simp [hx, hxa]
  case setupExpiry => exact ⟨_, rfl, event_field (.expiry fun a _ => .of (by simp) fun h => csEnd_agree h.2 rfl)⟩
  case ringExpiry => exact ⟨_, rfl, event_field (.expiry fun a _ => .of (by simp) fun h => csEnd_agree h.2 rfl)⟩
  case heldExpiry => exact ⟨_, rfl, event_field (.expiry fun a _ => .of (by simp) fun h => csEnd_agree h.2 rfl)⟩
  case partyLostExpiry => exact ⟨_, rfl, event_field (.expiry fun a _ => .of (by simp) fun h => csEnd_agree h.2 rfl)⟩
  case goodMark => exact ⟨_, rfl, event_field (.of (by simp) fun h => goodMark_agree sendStart_agrees h.2)⟩
  case missedMark => exact ⟨_, rfl, event_field (.of (by simp) fun h => missedMark_agree sendStart_agrees h.2 rfl)⟩
  case lostExpiry => exact ⟨_, rfl, event_field (.expiry fun a _ => .of (by simp) fun h => loseVehicle_agree h.2)⟩
  case waitEntryExpiry v =>
    refine ⟨_, rfl, event_field ?_⟩
    cases s.waitOf v with
    | none => exact .refl
    | some w => exact .of_reach (.of (by simp) fun h => expireWait_agree h.2)
  case walkDeadline => exact ⟨_, rfl, event_field (.expiry fun a _ => .of (by simp) fun h => walkEnds_agree h.2)⟩
  case overstayExpiry v =>
    refine ⟨_, rfl, event_field ?_⟩
    cases hv : (s.vehicles.get v).claim with
    | none => exact .refl
    | some x => exact .expiry fun a _ => .of (by simp) fun h => overstay_agree h.2 hv
  case periodExpiry =>
    exact ⟨_, rfl, event_field (.expiry fun a _ => .of (by simp) fun h => settle_agree (tgPeriod_agree sendStart_agrees h.2))⟩
  case stepCountEnd => exact ⟨_, rfl, event_field (.expiry fun a _ => .of (by simp) fun h => countEnds_agree h.2)⟩
  case slotWaitExpiry => exact ⟨_, rfl, event_field (.expiry fun a _ => .of (by simp) fun h => slotCheck_agree h.2)⟩
  all_goals cases hc

/-- A free transmitter takes the reply or a report and leaves the rest of the link. -/
theorem Slp.beginSending_rest (l : Slp) : l.beginSending.mode = l.mode ∧ l.beginSending.causes = l.causes ∧
    l.beginSending.retained = l.retained ∧ l.beginSending.inReset = l.inReset ∧ l.beginSending.receiver = l.receiver ∧
    l.beginSending.buffer = l.buffer ∧ l.beginSending.resetDue = l.resetDue ∧
    l.beginSending.queue.length ≤ l.queue.length := by
  unfold beginSending
  split
  · exact ⟨rfl, rfl, rfl, rfl, rfl, rfl, rfl, le_rfl⟩
  · split
    · exact ⟨rfl, rfl, rfl, rfl, rfl, rfl, rfl, le_rfl⟩
    · split
      · exact ⟨rfl, rfl, rfl, rfl, rfl, rfl, rfl, le_rfl⟩
      · next hq => exact ⟨rfl, rfl, rfl, rfl, rfl, rfl, rfl, by simp [hq]⟩

theorem State.Leaves.configuration {s t : State} (h : s.Leaves t) : t.configuration = s.configuration ∧ t.pending = s.pending := by
  obtain ⟨n, hn⟩ := h.standing
  exact ⟨congrArg Standing.configuration hn, congrArg Standing.pending hn⟩

theorem State.Leaves.link {s t : State} (h : s.Leaves t) :
    ({ t.slp with queue := [], marker := .none } : Slp) = { s.slp with queue := [], marker := .none } := by
  obtain ⟨n, hn⟩ := h.standing
  exact congrArg Standing.link hn

theorem State.Leaves.modes {s t : State} (h : s.Leaves t) : t.slp.mode = s.slp.mode ∧ t.slp.causes = s.slp.causes ∧
    t.slp.retained = s.slp.retained ∧ t.slp.inReset = s.slp.inReset := by
  have hl := h.link
  simp only [Slp.mk.injEq] at hl
  obtain ⟨hm, hc, hr, -, -, -, -, -, -, -, hi⟩ := hl
  exact ⟨hm, hc, hr, hi⟩

/-- Settles O60: an end of the frame gap touches the receiver alone; every other such event is a `FieldEvent`. -/
theorem fieldEventsKeepConfiguration : Obligations.FieldEventsKeepConfiguration := by
  intro c s t hframe hlink hbytes hsent hup hdip hpin hend hexec
  have hcases : isFieldEvent c = true ∨ c = .frameGapTimeout := by
    cases c
    case unknownRequestCode tag body => exact absurd rfl (hlink tag body).1
    case malformedRequest tag body => exact absurd rfl (hlink tag body).2
    case frameReceived bs => exact absurd rfl (hbytes bs)
    all_goals first | exact .inl rfl | exact .inr rfl | contradiction
  have hsend (u : State) := u.slp.beginSending_rest
  rcases hcases with hc | rfl
  · obtain ⟨t', ht', u, hu, h⟩ := exec_field hc s
    obtain rfl : t' = t := by rw [ht'] at hexec; exact Host.Outcome.next.inj hexec
    obtain ⟨hconf, hpend⟩ := hu.configuration
    obtain ⟨hm, hcs, hr, hi⟩ := hu.modes
    rcases h with ⟨-, rfl⟩ | ⟨-, rfl, -⟩
    · obtain ⟨bm, bc, br, bi, -⟩ := hsend u
      exact ⟨hconf, bm.trans hm, bc.trans hcs, br.trans hr, bi.trans hi, hpend⟩
    · exact ⟨hconf, hm, hcs, hr, hi, hpend⟩
  · obtain rfl := Host.Outcome.next.inj hexec
    unfold State.event; split
    · exact ⟨rfl, rfl, rfl, rfl, rfl, rfl⟩
    · obtain ⟨bm, bc, br, bi, -⟩ := hsend (s.setReceiver .hunt)
      exact ⟨rfl, bm, bc, br, bi, rfl⟩

/-! ## Host requests are requests on the link -/

/-- A command that stands for a request frame is that frame's arrival. -/
theorem exec_frame {c : Instr} {tag : Byte} {r : Request} (h : c.frame? = some (tag, r)) (s : State) :
    exec c s = .next (s.request tag r) := by
  cases c <;> cases h <;> rfl

/-- On a ready link a request is taken at once and its reply formed. -/
theorem exec_frame_ready {s : State} (hs : s.Ready) {c : Instr} {tag : Byte} {r : Request} (h : c.frame? = some (tag, r)) :
    exec c s = .next ((s.handle r).state.answered tag (replyBody (requestCode r) (s.handle r))) := by
  rw [exec_frame h, State.request_ready hs]

/-! ## The bounds of the link, and HELD outputs in LOADING -/

/-- A change that keeps the bounds of the link and outputs HELD in LOADING. -/
def State.Keeps (s t : State) : Prop := (s.LinkBounded → t.LinkBounded) ∧ (s.HeldInLoading → t.HeldInLoading)

section keeps
variable {s t u : State}

theorem State.Keeps.refl (s : State) : s.Keeps s := ⟨id, id⟩
theorem State.Keeps.trans (h : s.Keeps t) (h' : t.Keeps u) : s.Keeps u := ⟨h'.1 ∘ h.1, h'.2 ∘ h.2⟩

/-- Bounds and HELD outputs are read off a few fields. -/
theorem State.Keeps.of_fields (hm : t.slp.mode = s.slp.mode) (hr : t.slp.inReset = s.slp.inReset)
    (hb : t.slp.buffer.length ≤ s.slp.buffer.length ∨ t.slp.buffer.length ≤ 2)
    (hq : t.slp.queue.length - 32 ≤ s.slp.queue.length - 32)
    (hh : ∀ o : OutNo, (s.trips.get o).state = .held → (t.trips.get o).state = .held) : s.Keeps t := by
  refine ⟨fun ⟨h1, h2⟩ => ⟨?_, ?_⟩, fun ⟨h1, h2⟩ => ⟨by rwa [hm, hr], fun e o => hh o (h2 (hm ▸ e) o)⟩⟩
  all_goals simp only [Config.receiveBufferBound, Config.reportQueueBound] at *; omega

/-- The HELD outputs are part of the standing state. -/
theorem State.held_of_standing_eq (h : t.standing.held = s.standing.held) (o : OutNo) :
    (t.trips.get o).state = .held ↔ (s.trips.get o).state = .held := by
  have := congrArg (fun v => Vector.get v o) h
  simpa [standing] using this

theorem State.Keeps.of_traffic (h : t.traffic = s.traffic) : s.Keeps t := by
  simp only [traffic, Prod.mk.injEq] at h
  obtain ⟨hl, hx, hh⟩ := h
  simp only [standing, Slp.mk.injEq] at hl hx
  obtain ⟨hm, -, -, -, hb, -, -, -, -, -, hr⟩ := hl
  exact .of_fields hm hr (.inl (by rw [hb])) hx.le fun o => (held_of_standing_eq hh o).mpr

theorem State.Keeps.of_standing (h : t.standing = s.standing) : s.Keeps t := .of_traffic (traffic_of_standing h)

theorem State.Leaves.keeps (h : s.Leaves t) : s.Keeps t := by
  obtain ⟨n, hn⟩ := h.standing
  exact .of_traffic (by simp [traffic, hn])

/-- A change of the link that leaves the mode and the reset under way, and adds no frame or report. -/
theorem State.modSlp_keeps {f : Slp → Slp} (hm : (f s.slp).mode = s.slp.mode) (hr : (f s.slp).inReset = s.slp.inReset)
    (hb : (f s.slp).buffer.length ≤ s.slp.buffer.length ∨ (f s.slp).buffer.length ≤ 2)
    (hq : (f s.slp).queue.length ≤ s.slp.queue.length) : s.Keeps (s.modSlp f) :=
  .of_fields hm hr hb (Nat.sub_le_sub_right hq 32) fun _ => id

theorem State.setReceiver_keeps {r : Receiver} : s.Keeps (s.setReceiver r) := modSlp_keeps rfl rfl (.inl le_rfl) le_rfl

theorem State.beginSending_keeps : s.Keeps s.beginSending := by
  obtain ⟨hm, -, -, hr, -, hb, -, hq⟩ := s.slp.beginSending_rest
  exact modSlp_keeps hm hr (.inl (by rw [hb])) hq

/-- An accepted START_RUN is in RUN, where nothing is asked of the outputs. -/
theorem State.startRun_keeps (hr : s.slp.inReset = none) : s.Keeps s.startRun := by
  have hs := s.startRun_standing
  have hl : s.startRun.standing.link = { s.standing.link with mode := .run } := by rw [hs]
  have hx : s.startRun.standing.excess = s.standing.excess := by rw [hs]
  simp only [standing, Slp.mk.injEq] at hl hx
  obtain ⟨hm, -, -, -, hb, -, -, -, -, -, hi⟩ := hl
  refine ⟨fun ⟨h1, h2⟩ => ⟨by rwa [hb], by simp only [Config.reportQueueBound] at *; omega⟩,
    fun _ => ⟨fun e => ?_, fun e => ?_⟩⟩
  · simp [hi, hr] at e
  · rw [hm] at e; cases e

/-- An accepted ENTER_LOADING leaves every output HELD. -/
theorem State.enterLoading_keeps : s.Keeps s.enterLoading := by
  have hs := s.enterLoading_standing
  have hl : s.enterLoading.standing.link = { s.standing.link with mode := .loading } := by rw [hs]
  have hx : s.enterLoading.standing.excess = s.standing.excess := by rw [hs]
  have hh : s.enterLoading.standing.held = Vector.replicate 6 true := by rw [hs]
  simp only [standing, Slp.mk.injEq] at hl hx
  obtain ⟨hm, -, -, -, hb, -⟩ := hl
  refine ⟨fun ⟨h1, h2⟩ => ⟨by rwa [hb], by simp only [Config.reportQueueBound] at *; omega⟩,
    fun _ => ⟨fun _ => hm, fun _ o => ?_⟩⟩
  have := congrArg (fun v => Vector.get v o) hh
  simpa [standing] using this

theorem State.handle_keeps (hr : s.slp.inReset = none) (r : Request) : s.Keeps (s.handle r).state := by
  by_cases hp : Request.isPart r = false
  · exact .of_traffic (s.handle_traffic hp)
  · cases r <;> simp [Request.isPart] at hp <;> simp only [handle]
    case startRun =>
      unfold doStartRun; split
      · exact .refl s
      · split
        · exact .refl s
        · rw [accept_state]; exact startRun_keeps hr
    case enterLoading =>
      unfold doEnterLoading; split
      · exact .refl s
      · rw [accept_state]; exact enterLoading_keeps
    case reset => exact modSlp_keeps rfl rfl (.inl le_rfl) le_rfl

theorem State.answerContent_keeps (hr : s.slp.inReset = none) (c : Content) : s.Keeps (s.answerContent c).1 := by
  cases c with
  | request r => exact handle_keeps hr r
  | unknownCode _ => exact .refl s
  | badFrame _ => exact .refl s

theorem State.takeRequest_keeps (hr : s.slp.inReset = none) : s.Keeps s.takeRequest := by
  unfold takeRequest; split
  · exact .refl s
  · split
    · exact .refl s
    · next f rest hb =>
      have h1 : s.Keeps (s.modSlp fun l => { l with buffer := rest }) := modSlp_keeps rfl rfl (.inl (by simp [hb])) le_rfl
      have hr1 : (s.modSlp fun l => { l with buffer := rest }).slp.inReset = none := hr
      exact (h1.trans (answerContent_keeps hr1 f.content)).trans (modSlp_keeps rfl rfl (.inl le_rfl) le_rfl)

theorem State.submit_keeps (hr : s.slp.inReset = none) (f : Received) : s.Keeps (s.submit f) := by
  unfold submit; split
  · next hb =>
    simp only [Config.receiveBufferBound] at hb
    exact (modSlp_keeps rfl rfl (.inr (by simp; omega)) le_rfl).trans (takeRequest_keeps hr)
  · exact (State.Keeps.of_standing (report_standing ..)).trans (takeRequest_keeps hr)

/-- A whole frame collected is submitted, the receiver back in HUNT. -/
theorem State.submit_hunt_keeps (hr : s.slp.inReset = none) (f : Received) : s.Keeps ((s.setReceiver .hunt).submit f) :=
  have hr1 : (s.setReceiver .hunt).slp.inReset = none := hr
  setReceiver_keeps.trans (submit_keeps hr1 f)

theorem State.submit_inReset (f : Received) : (s.submit f).slp.inReset = s.slp.inReset := by
  have take (u : State) : u.takeRequest.slp.inReset = u.slp.inReset := by
    unfold takeRequest; split
    · rfl
    · split
      · rfl
      · next f rest _ => cases hf : f.content <;> simp [answerContent, handle_link]
  unfold submit; rw [take]; split <;> rfl

theorem State.receiveByte_keeps (hr : s.slp.inReset = none) (b : Byte) :
    s.Keeps (s.receiveByte b) ∧ (s.receiveByte b).slp.inReset = none := by
  unfold receiveByte; split
  · split
    · exact ⟨setReceiver_keeps, hr⟩
    · exact ⟨.refl s, hr⟩
  · split
    · exact ⟨setReceiver_keeps, hr⟩
    · exact ⟨setReceiver_keeps, hr⟩
    · exact ⟨submit_hunt_keeps hr _, (submit_inReset _).trans hr⟩

theorem State.receiveBytes_keeps (hr : s.slp.inReset = none) (bs : Bytes) : s.Keeps (s.receiveBytes bs) := by
  unfold receiveBytes
  induction bs generalizing s with
  | nil => exact .refl s
  | cons b bs ih => exact (receiveByte_keeps hr b).1.trans (ih (receiveByte_keeps hr b).2)

theorem State.event_keeps {f : State → State} (h : s.slp.inReset = none → s.Keeps (f s)) : s.Keeps (s.event f) := by
  unfold event; split
  · exact .refl s
  · next hr => exact (h (by simpa using hr)).trans beginSending_keeps

/-- The start of a reset empties the link and holds every output. -/
theorem State.beginReset_keeps (c : Causes) : s.Keeps (s.beginReset c) :=
  ⟨fun _ => ⟨Nat.zero_le _, Nat.zero_le _⟩, fun _ => ⟨fun _ => rfl, fun _ o => by simp [beginReset, clearDynamic, Trip.afterReset]⟩⟩

theorem State.resetCause_keeps (c : Causes) : s.Keeps (s.resetCause c) := by
  unfold resetCause; split
  · exact beginReset_keeps c
  · next d hd => exact ⟨id, fun h => ⟨fun _ => h.1 (by simp [hd]), h.2⟩⟩

theorem State.frameEnds_keeps (hr : s.slp.inReset = none) : s.Keeps s.frameEnds := by
  unfold frameEnds; split
  · exact .refl s
  · have h1 : s.Keeps (s.modSlp fun l => { l with sending := none }) := modSlp_keeps rfl rfl (.inl le_rfl) le_rfl
    dsimp only; split
    · split
      · exact h1.trans (beginReset_keeps _)
      · exact h1.trans (takeRequest_keeps hr)
    · exact h1

/-- The end of a reset: what precedes the link's start leaves the outputs HELD, and nothing after it changes the standing
state. -/
theorem State.resume_keeps (c : Causes) (hr : s.slp.inReset.isSome = true) : s.Keeps (s.resume c) := by
  have after (t : State) : t.Keeps ((t.gradeReset sendStart).signalFaults).periodsStart.spursStart := by
    have h1 := State.Keeps.of_standing (t.gradeReset_standing sendStart_quiet)
    have h2 := State.Keeps.of_standing (s := t.gradeReset sendStart) (t := (t.gradeReset sendStart).signalFaults)
      (forEach_standing _ fun t _ => t.report_standing _)
    have h3 (u : State) : u.Keeps u.periodsStart := .of_fields rfl rfl (.inl le_rfl) le_rfl fun _ => id
    have h4 (u : State) : u.Keeps u.spursStart := .of_standing (forEach_standing _ fun t p => by simp)
    exact ((h1.trans h2).trans (h3 _)).trans (h4 _)
  have start (t : State) (ht : s.HeldInLoading → ∀ o : OutNo, (t.trips.get o).state = .held) :
      s.Keeps (t.linkStart c) := by
    refine State.Keeps.trans (t := t.modSlp fun l => { l.cleared none with causes := c, retained := c.keep }) ?_
      ((State.Keeps.of_standing (report_standing ..)).trans beginSending_keeps)
    exact ⟨fun _ => ⟨Nat.zero_le _, Nat.zero_le _⟩, fun h => ⟨fun _ => rfl, fun _ => ht h⟩⟩
  refine (start _ fun h o => ?_).trans (after _)
  split
  · exact h.2 (h.1 hr) o
  · simp [loseConfiguration]

theorem State.endReset_keeps : s.Keeps s.endReset := by
  unfold endReset; split
  · exact .refl s
  · next c hc => exact resume_keeps c (by simp [hc])

theorem State.FieldEvent.keeps (h : s.FieldEvent t) : s.Keeps t := by
  obtain ⟨u, hu, ⟨-, rfl⟩ | ⟨-, rfl, -⟩⟩ := h
  · exact hu.keeps.trans beginSending_keeps
  · exact hu.keeps

theorem State.FieldEvent.sound (h : s.FieldEvent t) (hs : s.Sound) : t.Sound := by
  obtain ⟨u, hu, ⟨hr, rfl⟩ | ⟨hr, rfl, hc⟩⟩ := h
  · exact (beginSending_running ⟨hu.whole hs.1, hu.modes.2.2.2.trans hr⟩).sound
  · exact ⟨hu.whole hs.1, fun e => hc.trans (hs.2 hr)⟩

end keeps

theorem State.tablesAgree_iff_sound (s : State) : s.TablesAgree ↔ s.Sound := by
  rw [tablesAgree_iff]; exact ⟨fun ⟨h1, h2, h3⟩ => ⟨⟨h1, h2⟩, h3⟩, fun ⟨⟨h1, h2⟩, h3⟩ => ⟨h1, h2, h3⟩⟩

/-- Every command keeps the bounds of the link, the HELD outputs and the tables' agreement. -/
theorem exec_keeps (c : Instr) (s : State) : ∃ t, exec c s = .next t ∧ s.Keeps t ∧ (s.Sound → t.Sound) := by
  by_cases hc : isFieldEvent c = true
  · obtain ⟨t, ht, h⟩ := exec_field hc s
    exact ⟨t, ht, h.keeps, h.sound⟩
  cases hf : c.frame? with
  | some x =>
    exact ⟨_, exec_frame hf s, State.event_keeps fun hr => State.submit_hunt_keeps hr _,
      State.request_sound⟩
  | none =>
    have raw (f : Received) : s.Keeps (s.event fun s => (s.setReceiver .hunt).submit f) ∧
        (s.Sound → (s.event fun s => (s.setReceiver .hunt).submit f).Sound) :=
      ⟨State.event_keeps fun hr => State.submit_hunt_keeps hr _,
        fun hs => State.event_sound hs fun h => State.submit_running (State.modSlp_running h rfl)⟩
    cases c
    case unknownRequestCode => exact ⟨_, rfl, raw _⟩
    case malformedRequest => exact ⟨_, rfl, raw _⟩
    case frameReceived bs =>
      exact ⟨_, rfl, State.event_keeps fun hr => State.receiveBytes_keeps hr bs, fun hs => State.event_sound hs State.receiveBytes_running⟩
    case frameGapTimeout =>
      exact ⟨_, rfl, State.event_keeps fun _ => State.setReceiver_keeps,
        fun hs => State.event_sound hs fun h => State.modSlp_running h rfl⟩
    case frameSent => exact ⟨_, rfl, State.event_keeps State.frameEnds_keeps, State.frameSent_sound⟩
    case powerUp => exact ⟨_, rfl, State.resetCause_keeps _, State.resetCause_sound⟩
    case supplyDip => exact ⟨_, rfl, State.resetCause_keeps _, State.resetCause_sound⟩
    case resetPinLow => exact ⟨_, rfl, State.resetCause_keeps _, State.resetCause_sound⟩
    case resetEnd => exact ⟨_, rfl, State.endReset_keeps, State.endReset_sound⟩
    all_goals first | exact absurd rfl hc | cases hf

/-- Settles O59: a step is a command of the queue, an expiry, or a tenth of a second. -/
theorem everyStepKeepsBoundsAndHeld : Obligations.EveryStepKeepsBoundsAndHeld := by
  intro s t h
  have of (c : Instr) (u : State) (hu : u.Keeps s ∧ s.Keeps u) (hs : s.Sound → u.Sound) (he : exec c u = .next t) :
      (s.LinkBounded → t.LinkBounded) ∧ (s.HeldInLoading → t.HeldInLoading) ∧ (s.TablesAgree → t.TablesAgree) := by
    obtain ⟨t', ht', hk, hw⟩ := exec_keeps c u
    obtain rfl : t' = t := by rw [ht'] at he; exact Host.Outcome.next.inj he
    have hk := hu.2.trans hk
    simp only [State.tablesAgree_iff_sound]
    exact ⟨hk.1, hk.2, hw ∘ hs⟩
  unfold step at h; split at h
  · unfold State.tick at h; split at h
    · next c _ => exact of c s ⟨.refl s, .refl s⟩ id h
    · obtain rfl := Host.Outcome.next.inj h
      simp only [State.tablesAgree_iff_sound]
      exact ⟨id, id, fun hs => ⟨State.whole_of_tables hs.1 rfl rfl rfl rfl rfl rfl rfl rfl rfl, hs.2⟩⟩
  · next c rest _ =>
    exact of c { s with pending := rest } ⟨⟨id, id⟩, ⟨id, id⟩⟩
      (fun hs => ⟨State.whole_of_tables hs.1 rfl rfl rfl rfl rfl rfl rfl rfl rfl, hs.2⟩) h

end Sys2Proof.Machine
end

section
/-! PROOFS. The statements on frames (R178 to R184): what a reader of fields makes of the fields written, the round trip of every
request body, what a receiver makes of a frame's bytes, and what the transmitter sends. -/

namespace Sys2Proof

/-! ## Readers read back what the layout writes (R178) -/

section fields
variable {n : Nat} (rest : Bytes)

theorem readByte_byteField (h : n < 256) : readByte (byteField n ++ rest) = some (n, rest) := by
  simp [readByte, byteField, Nat.mod_eq_of_lt h]

theorem readWord_wordField (h : n < 65536) : readWord (wordField n ++ rest) = some (n, rest) := by
  simp [readWord, wordField]; omega

theorem readTagId_tagIdField (h : n < 16777216) : readTagId (tagIdField n ++ rest) = some (n, rest) := by
  simp [readTagId, tagIdField]; omega

/-- A byte of 2 or more is neither of the first two selectors. -/
theorem ofNat_ne_of_two_le (h2 : 2 ≤ n) (h : n < 256) : BitVec.ofNat 8 n ≠ 0x00#8 ∧ BitVec.ofNat 8 n ≠ 0x01#8 := by
  constructor <;> intro e <;> have := congrArg BitVec.toNat e <;> simp at this <;> omega

theorem readOptional_optionalField {o : RawOptional} (h : o.wf = true) :
    readOptional (optionalField o ++ rest) = some (o, rest) := by
  cases o with
  | present a =>
    have ha : a < 256 := by simpa [RawOptional.wf, fits8] using h
    simpa [readOptional, optionalField, byteField] using readByte_byteField rest ha
  | absent => rfl
  | other b =>
    simp only [RawOptional.wf, fits8, Bool.and_eq_true, decide_eq_true_eq] at h
    obtain ⟨h0, h1⟩ := ofNat_ne_of_two_le h.2 h.1
    simp [readOptional, optionalField, byteField, h0, h1, Nat.mod_eq_of_lt h.1]

theorem readSource_sourceField {x : RawSource} (h : x.wf = true) : readSource (sourceField x ++ rest) = some (x, rest) := by
  cases x with
  | head s a i =>
    simp only [RawSource.wf, fits8, Bool.and_eq_true, decide_eq_true_eq] at h
    obtain ⟨⟨hs, ha⟩, hi⟩ := h
    simp [readSource, sourceField, byteField, readByte, Nat.mod_eq_of_lt hs, Nat.mod_eq_of_lt ha, Nat.mod_eq_of_lt hi]
  | vehicle v =>
    have hv : v < 256 := by simpa [RawSource.wf, fits8] using h
    simpa [readSource, sourceField, byteField] using readByte_byteField rest hv
  | other b =>
    simp only [RawSource.wf, fits8, Bool.and_eq_true, decide_eq_true_eq] at h
    obtain ⟨h0, h1⟩ := ofNat_ne_of_two_le h.2 h.1
    simp [readSource, sourceField, byteField, h0, h1, Nat.mod_eq_of_lt h.1]

theorem readStep_stepField {x : StepFields} (h : x.wf = true) : readStep (stepField x ++ rest) = some (x, rest) := by
  simp only [StepFields.wf, fits8, Bool.and_eq_true, decide_eq_true_eq] at h
  obtain ⟨⟨⟨⟨⟨h1, h2⟩, h3⟩, h4⟩, h5⟩, h6⟩ := h
  simp [readStep, stepField, readByte_byteField, readOptional_optionalField, *]

theorem readMany_flatMap {α : Type} {p : Reader α} {f : α → Bytes} {l : List α}
    (h : ∀ a ∈ l, ∀ rest, p (f a ++ rest) = some (a, rest)) : readMany p l.length (l.flatMap f ++ rest) = some (l, rest) := by
  induction l with
  | nil => rfl
  | cons a l ih =>
    have ih := ih fun b hb => h b (List.mem_cons_of_mem _ hb)
    simp [readMany, h a List.mem_cons_self, ih]

theorem readList_listField {α : Type} {p : Reader α} {f : α → Bytes} {l : List α} (hl : l.length < 256)
    (h : ∀ a ∈ l, ∀ rest, p (f a ++ rest) = some (a, rest)) : readList p (listField f l ++ rest) = some (l, rest) := by
  simp [readList, listField, readByte_byteField, hl, readMany_flatMap rest h]

theorem readList_bytes {l : List Nat} (hl : l.length < 256) (h : ∀ a ∈ l, a < 256) :
    readList readByte (listField byteField l ++ rest) = some (l, rest) :=
  readList_listField rest hl fun a ha rest => readByte_byteField rest (h a ha)

end fields

/-- A read that succeeds hands its field and the bytes left to what follows. -/
theorem bind_read {α β : Type} {p : Reader α} {bs rest : Bytes} {a : α} (h : p bs = some (a, rest)) (f : α × Bytes → Option β) :
    (p bs >>= f) = f (a, rest) := by
  rw [h]; rfl

/-- The reader of a request's code reads the request back from its fields, whatever follows them. -/
theorem requestReader_requestFields {r : Request} (h : r.wf = true) :
    ∃ p, requestReader (requestCode r) = some p ∧ ∀ rest, p (requestFields r ++ rest) = some (r, rest) := by
  cases r
  case loadSteps i l =>
    simp only [Request.wf, fits8, Bool.and_eq_true, decide_eq_true_eq, List.all_eq_true] at h
    obtain ⟨⟨⟨hi, hall⟩, hl⟩, -⟩ := h
    refine ⟨_, rfl, fun rest => ?_⟩
    simp [readLoadSteps, requestFields, readByte_byteField, hi,
      readList_listField rest hl fun a ha rest => readStep_stepField rest (hall a ha)]
  case setTrunk l =>
    simp only [Request.wf, fits8, Bool.and_eq_true, decide_eq_true_eq, List.all_eq_true] at h
    refine ⟨_, rfl, fun rest => ?_⟩
    simp [requestFields, readList_bytes rest (by omega) h.1]
  case setStation f =>
    simp only [Request.wf, fits8, Bool.and_eq_true, decide_eq_true_eq, List.all_eq_true] at h
    obtain ⟨⟨h, hserved⟩, hl⟩ := h
    simp only [List.mem_cons, forall_eq_or_imp, List.not_mem_nil, false_implies, implies_true, and_true] at h
    refine ⟨_, rfl, fun rest => ?_⟩
    simp [readSetStation, requestFields, readByte_byteField, h, readList_bytes _ (show f.served.length < 256 by omega) hserved]
  case cancelOther b =>
    simp only [Request.wf, fits8, Bool.and_eq_true, decide_eq_true_eq] at h
    obtain ⟨h0, h1⟩ := ofNat_ne_of_two_le h.1 h.2
    refine ⟨_, rfl, fun rest => ?_⟩
    simp [readCancel, requestFields, byteField, h0, h1, Nat.mod_eq_of_lt h.2]
  case cancelRunner x =>
    have hx : x < 256 := by simpa [Request.wf, fits8] using h
    exact ⟨_, rfl, fun rest => by simp [readCancel, requestFields, byteField, read1, readByte, Nat.mod_eq_of_lt hx]⟩
  case cancelPair p z =>
    simp only [Request.wf, fits8, Bool.and_eq_true, decide_eq_true_eq] at h
    exact ⟨_, rfl, fun rest => by
      simp [readCancel, requestFields, byteField, read2, readByte, Nat.mod_eq_of_lt h.1, Nat.mod_eq_of_lt h.2]⟩
  case setChannel f =>
    simp only [Request.wf, fits8, fits16, List.all_cons, List.all_nil, Bool.and_eq_true, decide_eq_true_eq, and_true] at h
    obtain ⟨⟨⟨h1, h2, h3, h5, h12, h13, h15, h16⟩, h6, h7, h8, h9, h10, h14⟩, h4⟩ := h
    refine ⟨_, rfl, fun rest => ?_⟩
    simp only [requestFields, List.append_assoc]
    iterate 3 refine (bind_read (readByte_byteField _ (by assumption)) _).trans ?_
    refine (bind_read (readSource_sourceField _ h4) _).trans ?_
    refine (bind_read (readByte_byteField _ h5) _).trans ?_
    iterate 5 refine (bind_read (readWord_wordField _ (by assumption)) _).trans ?_
    iterate 2 refine (bind_read (readByte_byteField _ (by assumption)) _).trans ?_
    refine (bind_read (readWord_wordField _ h14) _).trans ?_
    iterate 2 refine (bind_read (readByte_byteField _ (by assumption)) _).trans ?_
    rfl
  all_goals
    simp only [Request.wf, fits8, fits16, fits24, List.all_cons, List.all_nil, Bool.and_eq_true, decide_eq_true_eq, and_true] at h
    refine ⟨_, rfl, fun rest => ?_⟩
    simp [requestFields, read1, read2, readSetZone, readSetChannel, readSetTrip, readEnrollTag, readSetVehicle, readSetJunction,
      readSetProgram, readSetDevice, readByte_byteField, readWord_wordField, readTagId_tagIdField, readSource_sourceField, h]

/-- Settles O8. -/
theorem bodyRoundTrip : Obligations.BodyRoundTrip := by
  intro r h
  obtain ⟨p, hp, hr⟩ := requestReader_requestFields h
  have := hr []
  rw [List.append_nil] at this
  simp [parseBody, encodeBody, hp, this]

/-! ## A reader that succeeds does so whatever follows (R182 step 3) -/

/-- More bytes after those that a reader takes are left over. -/
def Reader.Stable {α : Type} (p : Reader α) : Prop := ∀ bs a rest more, p bs = some (a, rest) → p (bs ++ more) = some (a, rest ++ more)

section stable
variable {α β : Type}

theorem stable_pure (a : α) : Reader.Stable fun bs => some (a, bs) := by
  intro bs b rest more h; simp at h; simp [h]

theorem stable_bind {p : Reader α} {q : α × Bytes → Option (β × Bytes)} (hp : Reader.Stable p)
    (hq : ∀ a, Reader.Stable fun bs => q (a, bs)) : Reader.Stable fun bs => p bs >>= q := by
  intro bs b rest more h
  obtain ⟨⟨a, mid⟩, ha, hb⟩ := Option.bind_eq_some_iff.mp h
  exact Option.bind_eq_some_iff.mpr ⟨_, hp _ _ _ more ha, hq a _ _ _ more hb⟩

theorem stable_map {p : Reader α} (f : α → β) (hp : Reader.Stable p) :
    Reader.Stable fun bs => (p bs).map fun x => (f x.1, x.2) := by
  intro bs b rest more h
  obtain ⟨⟨a, mid⟩, ha, hb⟩ := Option.map_eq_some_iff.mp h
  cases hb
  exact Option.map_eq_some_iff.mpr ⟨_, hp _ _ _ more ha, rfl⟩

theorem readByte_stable : Reader.Stable readByte
  | _ :: _, _, _, _, h => by cases h; rfl

theorem readWord_stable : Reader.Stable readWord
  | _ :: _ :: _, _, _, _, h => by cases h; rfl

theorem readTagId_stable : Reader.Stable readTagId
  | _ :: _ :: _ :: _, _, _, _, h => by cases h; rfl

/-- A reader that a first byte chooses among some readers. -/
theorem stable_cons {p : Reader α} {q : Byte → Reader α} (hnil : p [] = none) (hcons : ∀ b bs, p (b :: bs) = q b bs)
    (hq : ∀ b, Reader.Stable (q b)) : Reader.Stable p
  | [], _, _, _, h => by rw [hnil] at h; cases h
  | b :: bs, a, rest, more, h => by
    rw [hcons] at h; rw [List.cons_append, hcons]; exact hq b bs a rest more h

theorem readOptional_stable : Reader.Stable readOptional := by
  refine stable_cons (q := fun b bs => if b = 0x00#8 then (readByte bs).map fun x => (.present x.1, x.2)
    else if b = 0x01#8 then some (.absent, bs) else some (.other b.toNat, bs)) rfl (fun b bs => ?_) fun b => ?_
  · by_cases h0 : b = 0x00#8
    · subst h0; rfl
    · by_cases h1 : b = 0x01#8
      · subst h1; rfl
      · simp [readOptional, h0, h1]
  · split_ifs
    · exact stable_map _ readByte_stable
    · exact stable_pure _
    · exact stable_pure _

theorem readMany_stable {p : Reader α} (hp : Reader.Stable p) (n : Nat) : Reader.Stable (readMany p n) := by
  induction n with
  | zero => exact stable_pure _
  | succ n ih => exact stable_bind hp fun _ => stable_bind ih fun _ => stable_pure _

theorem readList_stable {p : Reader α} (hp : Reader.Stable p) : Reader.Stable (readList p) :=
  stable_bind readByte_stable fun n => readMany_stable hp n

theorem readSource_stable : Reader.Stable readSource := by
  refine stable_cons (q := fun b bs => if b = 0x00#8 then
      (do let (s, bs) ← readByte bs; let (a, bs) ← readByte bs; let (i, bs) ← readByte bs; some (.head s a i, bs))
    else if b = 0x01#8 then (readByte bs).map fun x => (.vehicle x.1, x.2)
    else some (.other b.toNat, bs)) rfl (fun b bs => ?_) fun b => ?_
  · by_cases h0 : b = 0x00#8
    · subst h0; rfl
    · by_cases h1 : b = 0x01#8
      · subst h1; rfl
      · simp [readSource, h0, h1]
  · split_ifs
    · exact stable_bind readByte_stable fun _ => stable_bind readByte_stable fun _ => stable_bind readByte_stable fun _ =>
        stable_pure _
    · exact stable_map _ readByte_stable
    · exact stable_pure _

theorem readStep_stable : Reader.Stable readStep :=
  stable_bind readByte_stable fun _ => stable_bind readByte_stable fun _ => stable_bind readByte_stable fun _ =>
    stable_bind readOptional_stable fun _ => stable_bind readByte_stable fun _ => stable_bind readByte_stable fun _ =>
      stable_pure _

theorem read1_stable (mk : Nat → Request) : Reader.Stable (read1 mk) := stable_bind readByte_stable fun _ => stable_pure _

theorem read2_stable (mk : Nat → Nat → Request) : Reader.Stable (read2 mk) :=
  stable_bind readByte_stable fun _ => stable_bind readByte_stable fun _ => stable_pure _

theorem readCancel_stable : Reader.Stable readCancel := by
  refine stable_cons (q := fun b bs => if b = 0x00#8 then read1 .cancelRunner bs
    else if b = 0x01#8 then read2 .cancelPair bs else some (.cancelOther b.toNat, bs)) rfl (fun b bs => ?_) fun b => ?_
  · by_cases h0 : b = 0x00#8
    · subst h0; rfl
    · by_cases h1 : b = 0x01#8
      · subst h1; rfl
      · simp [readCancel, h0, h1]
  · split_ifs
    · exact read1_stable _
    · exact read2_stable _
    · exact stable_pure _

end stable

/-- The reader of every request code is stable. -/
theorem requestReader_stable {r : Request} {p : Reader Request} (h : requestReader (requestCode r) = some p) : p.Stable := by
  cases r <;> cases h
  case setChannel =>
    iterate 3 refine stable_bind readByte_stable fun _ => ?_
    refine stable_bind readSource_stable fun _ => stable_bind readByte_stable fun _ => ?_
    iterate 5 refine stable_bind readWord_stable fun _ => ?_
    iterate 2 refine stable_bind readByte_stable fun _ => ?_
    refine stable_bind readWord_stable fun _ => ?_
    iterate 2 refine stable_bind readByte_stable fun _ => ?_
    exact stable_pure _
  case setTrip =>
    iterate 2 refine stable_bind readByte_stable fun _ => ?_
    refine stable_bind readWord_stable fun _ => ?_
    iterate 5 refine stable_bind readByte_stable fun _ => ?_
    exact stable_pure _
  case enrollTag =>
    exact stable_bind readByte_stable fun _ => stable_bind readTagId_stable fun _ => stable_bind readWord_stable fun _ =>
      stable_pure _
  case setTrunk => exact stable_map _ (readList_stable readByte_stable)
  case setVehicle =>
    iterate 2 refine stable_bind readByte_stable fun _ => ?_
    refine stable_bind readTagId_stable fun _ => stable_bind readByte_stable fun _ => stable_bind readWord_stable fun _ => ?_
    iterate 2 refine stable_bind readByte_stable fun _ => ?_
    exact stable_pure _
  case setStation =>
    iterate 3 refine stable_bind readByte_stable fun _ => ?_
    refine stable_bind (readList_stable readByte_stable) fun _ => ?_
    iterate 6 refine stable_bind readByte_stable fun _ => ?_
    exact stable_pure _
  case loadSteps =>
    exact stable_bind readByte_stable fun _ => stable_bind (readList_stable readStep_stable) fun _ => stable_pure _
  case setZone =>
    iterate 8 refine stable_bind readByte_stable fun _ => ?_
    exact stable_pure _
  case setProgram =>
    iterate 5 refine stable_bind readByte_stable fun _ => ?_
    exact stable_pure _
  case setJunction =>
    iterate 7 refine stable_bind readByte_stable fun _ => ?_
    exact stable_pure _
  case setDevice =>
    iterate 7 refine stable_bind readByte_stable fun _ => ?_
    exact stable_pure _
  case cancelRunner => exact readCancel_stable
  case cancelPair => exact readCancel_stable
  case cancelOther => exact readCancel_stable
  case readTrunk => exact stable_pure _
  case startRun => exact stable_pure _
  case enterLoading => exact stable_pure _
  case reset => exact stable_pure _
  case readStatus => exact stable_pure _
  all_goals first | exact read1_stable _ | exact read2_stable _

theorem parseBody_encodeBody {r : Request} (h : r.wf = true) : parseBody (encodeBody r) = .request r := bodyRoundTrip r h

/-- A body that goes on after its request's fields is malformed. -/
theorem parseBody_longer {r : Request} (h : r.wf = true) {extra : Bytes} (he : extra ≠ []) :
    parseBody (encodeBody r ++ extra) = .badFrame (requestCode r) := by
  obtain ⟨p, hp, hr⟩ := requestReader_requestFields h
  obtain ⟨b, bs, rfl⟩ := List.exists_cons_of_ne_nil he
  simp [parseBody, encodeBody, hp, hr]

/-- A body that breaks off before its request's fields end is malformed. -/
theorem parseBody_shorter {r : Request} (h : r.wf = true) {short : Bytes} (hne : short ≠ []) (hpre : short <+: encodeBody r)
    (hlt : short ≠ encodeBody r) : parseBody short = .badFrame (requestCode r) := by
  obtain ⟨p, hp, hr⟩ := requestReader_requestFields h
  obtain ⟨b, fields, rfl⟩ := List.exists_cons_of_ne_nil hne
  obtain ⟨more, hmore⟩ := hpre
  have hcode : b = requestCode r ∧ fields ++ more = requestFields r := by simpa [encodeBody] using hmore
  obtain ⟨rfl, hfields⟩ := hcode
  have hbreaks : ∀ r', p fields ≠ some (r', []) := by
    intro r' hf
    have hlong := requestReader_stable hp _ _ _ more hf
    have hr0 := hr []
    rw [List.append_nil, ← hfields, hlong] at hr0
    have hmore : more = [] := by simpa using (Prod.mk.inj (Option.some.inj hr0)).2
    subst hmore
    exact hlt (by simp [encodeBody, ← hfields])
  simp only [parseBody, hp]

/-! ## The length of a body (R178) -/

theorem byteField_length (n : Nat) : (byteField n).length = 1 := rfl
theorem wordField_length (n : Nat) : (wordField n).length = 2 := rfl
theorem tagIdField_length (n : Nat) : (tagIdField n).length = 3 := rfl
theorem sourceField_length_le (x : RawSource) : (sourceField x).length ≤ 4 := by cases x <;> simp [sourceField, byteField]
theorem listField_bytes_length (l : List Nat) : (listField byteField l).length = 1 + l.length := by
  have : (l.flatMap byteField).length = l.length := by induction l <;> simp_all [List.flatMap_cons, byteField]
  simp [listField, this, byteField]; omega

/-- A request that fits its frame has a body of at most 248 bytes. -/
theorem encodeBody_length_le {r : Request} (h : r.wf = true) : (encodeBody r).length ≤ 248 := by
  cases r
  case setChannel f =>
    have := sourceField_length_le f.source
    simp only [encodeBody, requestFields, List.length_cons, List.length_append, byteField_length, wordField_length]; omega
  case setTrunk l =>
    simp only [Request.wf, Bool.and_eq_true, decide_eq_true_eq] at h
    simp only [encodeBody, requestFields, List.length_cons, listField_bytes_length]; omega
  case setStation f =>
    simp only [Request.wf, Bool.and_eq_true, decide_eq_true_eq] at h
    simp only [encodeBody, requestFields, List.length_cons, List.length_append, byteField_length, listField_bytes_length]; omega
  case loadSteps i l =>
    simp only [Request.wf, Bool.and_eq_true, decide_eq_true_eq] at h
    simp only [encodeBody, List.length_cons]; omega
  all_goals simp [encodeBody, requestFields, byteField, wordField, tagIdField]

end Sys2Proof

namespace Sys2Proof.Machine

theorem crc16_digits : crc16 [0x31, 0x32, 0x33, 0x34, 0x35, 0x36, 0x37, 0x38, 0x39] = 0x29B1#16 := by decide +kernel

/-- Settles O7. -/
theorem checkSequence : Obligations.CheckSequence := ⟨crc16_digits, by rw [checkBytes, crc16_digits]; rfl⟩

/-! ## The receiver (R180) -/

/-- A receiver at the start of a frame whose kind is REQUEST and whose length is in bounds waits for its last byte. -/
theorem judgeFrame_prefix {tag length : Byte} {tail pre : Bytes} (hlen : length.toNat ≤ 248)
    (htail : tail.length = length.toNat + 2) (hpre : pre <+: kindRequest :: tag :: length :: tail)
    (hlt : pre ≠ kindRequest :: tag :: length :: tail) : judgeFrame pre = .more := by
  have hshort : pre.length < length.toNat + 5 := by
    have h1 := hpre.length_le
    have h2 : pre.length ≠ (kindRequest :: tag :: length :: tail).length := fun e => hlt (hpre.eq_of_length e)
    simp only [List.length_cons] at h1 h2; omega
  rcases pre with _ | ⟨a, _ | ⟨b, _ | ⟨c, rest⟩⟩⟩
  · rfl
  · obtain ⟨rfl, -⟩ := List.cons_prefix_cons.mp hpre; rfl
  · obtain ⟨rfl, -⟩ := List.cons_prefix_cons.mp hpre; rfl
  · obtain ⟨rfl, h1⟩ := List.cons_prefix_cons.mp hpre
    obtain ⟨rfl, h2⟩ := List.cons_prefix_cons.mp h1
    obtain ⟨rfl, -⟩ := List.cons_prefix_cons.mp h2
    have hb : ¬ Config.bodyBound < c.toNat := by simp only [Config.bodyBound]; omega
    unfold judgeFrame
    simp only [ne_eq, not_true_eq_false, ↓reduceIte, hb]
    exact if_pos hshort

/-- A whole frame with its length's bytes is judged by its check (R178, R180). -/
theorem judgeFrame_whole {tag length : Byte} {body check : Bytes} (hlen : length.toNat ≤ 248) (hbody : body.length = length.toNat)
    (hcheck : check.length = 2) :
    judgeFrame (kindRequest :: tag :: length :: (body ++ check)) =
      if check = checkBytes (kindRequest :: tag :: length :: body) then .complete ⟨tag, parseBody body⟩ else .discard := by
  have hb : ¬ Config.bodyBound < length.toNat := by simp only [Config.bodyBound]; omega
  have hlong : ¬ (kindRequest :: tag :: length :: (body ++ check)).length < length.toNat + 5 := by
    simp only [List.length_cons, List.length_append]; omega
  have hcov : (kindRequest :: tag :: length :: (body ++ check)).dropLast.dropLast = kindRequest :: tag :: length :: body := by
    obtain ⟨x, y, rfl⟩ : ∃ x y, check = [x, y] := by
      rcases check with _ | ⟨x, _ | ⟨y, _ | ⟨z, l⟩⟩⟩ <;> simp at hcheck ⊢
    have : kindRequest :: tag :: length :: (body ++ [x, y]) = ((kindRequest :: tag :: length :: body) ++ [x]) ++ [y] := by simp
    rw [this, List.dropLast_concat, List.dropLast_concat]
  have hdrop : (kindRequest :: tag :: length :: (body ++ check)).drop (kindRequest :: tag :: length :: body).length = check :=
    List.drop_left (l₁ := kindRequest :: tag :: length :: body)
  simp only [judgeFrame, ne_eq, not_true_eq_false, ↓reduceIte, hb, hlong, checkFrame, hcov, hdrop]

section receive
variable {s : State}

theorem State.receiveBytes_append (s : State) (a b : Bytes) : s.receiveBytes (a ++ b) = (s.receiveBytes a).receiveBytes b :=
  List.foldl_append

theorem State.setReceiver_self {r : Receiver} (h : s.slp.receiver = r) : s.setReceiver r = s := by
  subst h; rfl

/-- Bytes that leave a receiver in FRAME waiting for more are collected. -/
theorem State.receiveBytes_collect (c bs : Bytes) (h : ∀ pre, pre <+: bs → pre ≠ [] → judgeFrame (c ++ pre) = .more) :
    (s.setReceiver (.frame c)).receiveBytes bs = s.setReceiver (.frame (c ++ bs)) := by
  induction bs generalizing c with
  | nil => simp [receiveBytes]
  | cons b bs ih =>
    have hb := h [b] (by simp) (by simp)
    have hstep : (s.setReceiver (.frame c)).receiveByte b = s.setReceiver (.frame (c ++ [b])) := by
      simp only [receiveByte, setReceiver, modSlp_slp, hb]; rfl
    have := ih (c ++ [b]) fun pre hpre _ => by
      simpa using h (b :: pre) (by simpa using hpre) (by simp)
    rw [receiveBytes, List.foldl_cons, hstep]
    simpa [receiveBytes] using this

/-- In HUNT a byte other than the sync byte is passed over. -/
theorem State.receiveBytes_hunt (h : s.slp.receiver = .hunt) {bs : Bytes} (hs : syncByte ∉ bs) : s.receiveBytes bs = s := by
  unfold receiveBytes
  induction bs with
  | nil => rfl
  | cons b bs ih =>
    obtain ⟨hb, hbs⟩ := not_or.mp (mt List.mem_cons.mpr hs)
    rw [List.foldl_cons, receiveByte, h]
    simp only [if_neg (Ne.symm hb)]
    exact ih hbs

/-- The sync byte opens a frame. -/
theorem State.receiveBytes_sync (h : s.slp.receiver = .hunt) (bs : Bytes) :
    s.receiveBytes (syncByte :: bs) = (s.setReceiver (.frame [])).receiveBytes bs := by
  simp [receiveBytes, receiveByte, h]

/-- The bytes of a frame whose last byte decides: collected up to it, then judged. -/
theorem State.receiveBytes_frame (h : s.slp.receiver = .hunt) (bs : Bytes) (b : Byte)
    (hmore : ∀ pre, pre <+: bs → pre ≠ [] → judgeFrame pre = .more) :
    s.receiveBytes (syncByte :: (bs ++ [b])) = (s.setReceiver (.frame bs)).receiveByte b := by
  rw [receiveBytes_sync h, receiveBytes_append, receiveBytes_collect [] bs (by simpa using hmore)]
  rfl

/-- A frame whose last byte discards it leaves the receiver in HUNT and nothing else. -/
theorem State.receiveBytes_discard (h : s.slp.receiver = .hunt) (bs : Bytes) (b : Byte)
    (hmore : ∀ pre, pre <+: bs → pre ≠ [] → judgeFrame pre = .more) (hd : judgeFrame (bs ++ [b]) = .discard) :
    s.receiveBytes (syncByte :: (bs ++ [b])) = s := by
  rw [receiveBytes_frame h bs b hmore]
  simp only [receiveByte, setReceiver, modSlp_slp, hd]
  exact setReceiver_self h

/-- A frame with kind REQUEST, a length in bounds and all its bytes: submitted when its check matches, else discarded. -/
theorem State.receiveBytes_whole (h : s.slp.receiver = .hunt) (tag : Byte) {body check : Bytes} (hbody : body.length ≤ 248)
    (hcheck : check.length = 2) :
    s.receiveBytes (syncByte :: kindRequest :: tag :: BitVec.ofNat 8 body.length :: (body ++ check)) =
      if check = checkBytes (kindRequest :: tag :: BitVec.ofNat 8 body.length :: body) then
        (s.setReceiver .hunt).submit ⟨tag, parseBody body⟩ else s := by
  have hlen : (BitVec.ofNat 8 body.length).toNat = body.length := by simp; omega
  have hwhole := judgeFrame_whole (tag := tag) (length := BitVec.ofNat 8 body.length) (by omega) hlen.symm hcheck
  obtain ⟨tail, b, htail⟩ : ∃ tail b, body ++ check = tail ++ [b] := by
    rcases List.eq_nil_or_concat check with rfl | ⟨l, b, rfl⟩
    · simp at hcheck
    · exact ⟨body ++ l, b, by simp⟩
  have htl : (body ++ check).length = body.length + 2 := by simp [hcheck]
  have hmore : ∀ pre, pre <+: kindRequest :: tag :: BitVec.ofNat 8 body.length :: tail → pre ≠ [] → judgeFrame pre = .more := by
    intro pre hpre _
    refine judgeFrame_prefix (tag := tag) (length := BitVec.ofNat 8 body.length) (tail := body ++ check) (by omega) (by omega) ?_ ?_
    · rw [htail]; exact hpre.trans (by simp)
    · intro e
      have h1 := hpre.length_le
      rw [e, htail] at h1
      simp at h1
  have hframe := receiveBytes_frame h _ b hmore
  simp only [List.cons_append, ← htail] at hframe
  rw [hframe, receiveByte]
  simp only [setReceiver, modSlp_slp, List.cons_append, ← htail, hwhole]
  split_ifs with hc
  · rfl
  · exact setReceiver_self h

end receive

theorem checkBytes_length (bs : Bytes) : (checkBytes bs).length = 2 := rfl

/-- Settles O9: the frame of a request is collected to its last byte, its check matches, and its body reads back as the
request (`bodyRoundTrip`). -/
theorem commandIsItsFrame : Obligations.CommandIsItsFrame := by
  intro c tag r s hframe hwf hreset hhunt
  have hbytes : (s.receiveBytes (buildFrame kindRequest tag (encodeBody r))) =
      (s.setReceiver .hunt).submit ⟨tag, .request r⟩ := by
    have := State.receiveBytes_whole hhunt tag (encodeBody_length_le hwf)
      (checkBytes_length (kindRequest :: tag :: BitVec.ofNat 8 (encodeBody r).length :: encodeBody r))
    rw [if_pos rfl, parseBody_encodeBody hwf] at this
    exact this
  have hcmd : exec (.frameReceived (buildFrame kindRequest tag (encodeBody r))) s = exec c s := by
    rw [exec_frame hframe]
    show Host.Outcome.next (s.event _) = .next (s.event _)
    simp only [State.event, hreset, hbytes]
  exact ⟨hcmd, fun hs => by rw [hcmd, exec_frame_ready hs hframe]⟩

/-- An event on an operating part. -/
theorem State.event_operating {s : State} (h : s.slp.inReset = none) (f : State → State) : s.event f = (f s).beginSending := by
  simp [event, h]

/-- Settles O10. -/
theorem framesDiscarded : Obligations.FramesDiscarded := by
  intro s hs
  have hexec (bs : Bytes) (h : s.receiveBytes bs = s) : exec (.frameReceived bs) s = .next s.beginSending := by
    show Host.Outcome.next (s.event _) = _
    rw [State.event_operating hs, h]
  refine ⟨congrArg _ (State.event_operating hs _), fun hhunt => ⟨fun bs hbs => ?sync, fun kind hk => ?kind, fun tag length hl => ?length,
    fun tag body check hb hc hne => ?check⟩⟩
  case sync => exact hexec _ (State.receiveBytes_hunt hhunt hbs)
  case kind =>
    refine hexec _ (State.receiveBytes_discard hhunt [] kind (fun pre hpre hne => absurd (List.prefix_nil.mp hpre) hne) ?_)
    simp [judgeFrame, hk]
  case length =>
    refine hexec _ (State.receiveBytes_discard hhunt [kindRequest, tag] length (fun pre hpre hne => ?_) ?_)
    · rcases pre with _ | ⟨a, _ | ⟨b, rest⟩⟩
      · exact absurd rfl hne
      · obtain ⟨rfl, -⟩ := List.cons_prefix_cons.mp hpre; rfl
      · obtain ⟨rfl, h1⟩ := List.cons_prefix_cons.mp hpre
        obtain ⟨rfl, h2⟩ := List.cons_prefix_cons.mp h1
        obtain rfl := List.prefix_nil.mp h2; rfl
    · have : Config.bodyBound < length.toNat := hl
      simp [judgeFrame, this]
  case check =>
    refine hexec _ ?_
    rw [State.receiveBytes_whole hhunt tag hb hc, if_neg hne]

/-! ## The report queue (R184) -/

/-- Settles O12: the oldest ROUTINE report is the one that `eraseP` takes. -/
theorem reportQueue : Obligations.ReportQueue := by
  intro s r
  have hreport : s.report r = { s with slp := { s.slp with
      queue := (queueReport s.slp.queue s.slp.marker r).1, marker := (queueReport s.slp.queue s.slp.marker r).2 } } := rfl
  refine ⟨fun h => ?room, fun h => ?full⟩
  case room =>
    have : (s.slp.queue ++ [r]).length ≤ Config.reportQueueBound := by simp [Config.reportQueueBound]; omega
    rw [hreport, queueReport, if_pos this]
  case full =>
    have hlong : ¬ (s.slp.queue ++ [r]).length ≤ Config.reportQueueBound := by simp [Config.reportQueueBound]; omega
    by_cases hr : hasRoutine (s.slp.queue ++ [r]) = true
    · obtain ⟨y, hy, hyr⟩ := List.any_eq_true.mp hr
      obtain ⟨x, before, after, hbefore, hx, hjoin, herase⟩ := List.exists_of_eraseP (p := fun r : Report => r.cls == .routine) hy hyr
      refine ⟨before, x, after, hjoin, .inl ⟨by simpa using hx, fun z hz => ?_, ?_⟩⟩
      · have := hbefore z hz
        cases hc : z.cls
        · rfl
        · simp [hc] at this
      · rw [hreport, queueReport, if_neg hlong, if_pos hr, herase]
        cases s.slp.marker <;> rfl
    · have hsafe : ∀ y ∈ s.slp.queue ++ [r], y.cls = .safety := by
        intro y hy
        cases hc : y.cls
        · rfl
        · exact absurd (List.any_eq_true.mpr ⟨y, hy, by simp [hc]⟩) hr
      obtain ⟨x, after, hxa⟩ : ∃ x after, s.slp.queue ++ [r] = x :: after := List.exists_cons_of_ne_nil (by simp)
      refine ⟨[], x, after, hxa, .inr ⟨rfl, hsafe x (by simp [hxa]), fun y hy => hsafe y (by simp [hxa, hy]), ?_⟩⟩
      rw [hreport, queueReport, if_neg hlong, if_neg hr, hxa, List.tail_cons]

/-! ## Frames on a link that waits, and bodies that the link port answers itself (R181, R182) -/

section link
variable {s : State}

/-- With a reply waiting or being sent no frame is taken. -/
theorem State.takeRequest_pending (h : s.slp.replyPending = true) : s.takeRequest = s := by simp [takeRequest, h]

theorem State.submit_room (h : s.slp.replyPending = true) (hb : s.slp.buffer.length < 2) (f : Received) :
    s.submit f = s.modSlp fun l => { l with buffer := l.buffer ++ [f] } := by
  unfold submit
  rw [if_pos (show s.slp.buffer.length < Config.receiveBufferBound from hb)]
  exact takeRequest_pending h

theorem State.submit_overrun (h : s.slp.replyPending = true) (hb : 2 ≤ s.slp.buffer.length) (f : Received) :
    s.submit f = s.reportOverrun f := by
  unfold submit
  rw [if_neg (show ¬ s.slp.buffer.length < Config.receiveBufferBound from not_lt.mpr hb)]
  exact takeRequest_pending h

/-- Settles O13. -/
theorem requestWaits : Obligations.RequestWaits := by
  intro c tag r s hframe hs hpending
  have hp : (s.setReceiver .hunt).slp.replyPending = true := hpending
  rw [exec_frame hframe, State.request, State.event_operating hs]
  exact ⟨fun hb => by rw [State.submit_room hp hb]; rfl, fun hb => by rw [State.submit_overrun hp hb]; rfl⟩

/-- A body that is no request, on a ready link: the answer of R182 steps 1 to 3, and nothing else. -/
theorem State.rawRequest_ready (h : s.Ready) (tag : Byte) {body : Bytes} {c : Content} (hbody : parseBody body = c)
    (hc : ∀ r, c ≠ .request r) : s.rawRequest tag body = s.answered tag (s.answerContent c).2 := by
  obtain ⟨h1, h2, h3, h4⟩ := h
  have hunt : s.setReceiver .hunt = s := setReceiver_self h2
  have room : s.slp.buffer.length < Config.receiveBufferBound := by simp [h3, Config.receiveBufferBound]
  have joins : (s.modSlp fun l => { l with buffer := l.buffer ++ [⟨tag, c⟩] }) = s.modSlp fun l => { l with buffer := [⟨tag, c⟩] } := by
    simp [modSlp, h3]
  have taken : (s.modSlp fun l => { l with buffer := [⟨tag, c⟩] }).modSlp (fun l => { l with buffer := [] }) = s := by
    simp only [modSlp, ← h3]
  have free : (s.modSlp fun l => { l with buffer := [⟨tag, c⟩] }).slp.replyPending = false := by
    simpa [Slp.replyPending] using h4
  rw [rawRequest, event_operating h1, hunt, submit, if_pos room, hbody, joins, takeRequest, free]
  simp only [Bool.false_eq_true, ↓reduceIte, modSlp_slp, taken]
  cases c with
  | request r => exact absurd rfl (hc r)
  | unknownCode _ => rfl
  | badFrame _ => rfl

end link

/-- R179 gives no request the codes outside 01 to 30 hexadecimal. -/
theorem requestReader_eq_none {code : Byte} (h : ¬(1 ≤ code.toNat ∧ code.toNat ≤ 0x30)) : requestReader code = none := by
  unfold requestReader
  split <;> first | rfl | omega

/-- R179 gives a request every code from 01 to 30 hexadecimal. -/
theorem requestReader_isSome : ∀ code : Byte, 1 ≤ code.toNat → code.toNat ≤ 0x30 → (requestReader code).isSome = true := by
  decide

/-- A malformed body with a code that R179 gives is answered with that code. -/
theorem parseBody_of_isBadFrame {code : Byte} {fields : Bytes} (h1 : 1 ≤ code.toNat) (h2 : code.toNat ≤ 0x30)
    (h : isBadFrame (code :: fields) = true) : parseBody (code :: fields) = .badFrame code := by
  obtain ⟨p, hp⟩ := Option.isSome_iff_exists.mp (requestReader_isSome code h1 h2)
  simp only [isBadFrame, parseBody, hp] at h ⊢
  rcases hf : p fields with _ | ⟨r, _ | ⟨b, rest⟩⟩
  · rfl
  · simp [hf] at h
  · rfl

/-- Settles O14: the body's content, and the answer that R182 steps 1 to 3 give it. -/
theorem malformedRequestsAnswered : Obligations.MalformedRequestsAnswered := by
  intro s tag hs
  have raw {body : Bytes} {c : Content} (hb : parseBody body = c) (hc : ∀ r, c ≠ .request r) :
      Host.Outcome.next (s.rawRequest tag body) = (.next (s.answered tag (s.answerContent c).2) : Result) :=
    congrArg _ (State.rawRequest_ready hs tag hb hc)
  have bad {body : Bytes} {code : Byte} (hb : parseBody body = .badFrame code) := raw hb fun _ => Content.noConfusion
  refine ⟨fun code fields hcode => ?unknown, bad rfl, fun code fields h1 h2 h => bad (parseBody_of_isBadFrame h1 h2 h),
    fun r extra hr he => bad (parseBody_longer hr he), fun r short hr hne hpre hlt => bad (parseBody_shorter hr hne hpre hlt)⟩
  case unknown =>
    exact raw (c := .unknownCode code) (by simp [parseBody, requestReader_eq_none hcode]) fun _ => Content.noConfusion

/-- Settles O15: every other command is an event of the part, which a reset under way keeps from happening. -/
theorem resetHoldsThePart : Obligations.ResetHoldsThePart := by
  intro c s hs hup hdip hpin hend hpins hsense
  have event (f : State → State) : Host.Outcome.next (s.event f) = (.next s : Result) := by simp [State.event, hs]
  cases c
  case powerUp => exact absurd rfl hup
  case supplyDip => exact absurd rfl hdip
  case resetPinLow => exact absurd rfl hpin
  case resetEnd => exact absurd rfl hend
  case feedbackChange o h => exact absurd rfl (hpins o h).1
  case manualEdge o h => exact absurd rfl (hpins o h).2.1
  case manualInputLeavesActiveLevel o h => exact absurd rfl (hpins o h).2.2
  case faultSenseChange g b => exact absurd rfl (hsense g b)
  all_goals exact event _

end Sys2Proof.Machine
end

section
/-! PROOFS. The statements on refusals and reads (R182 and the read requests of the chapters). -/

namespace Sys2Proof.Machine

/-! ## What a command answers on a ready link -/

section answers
variable {s t : State} (hs : s.Ready) {c : Instr} {tag : Byte} {r : Request} (hf : c.frame? = some (tag, r))
include hs hf

theorem exec_of_answer {a : Answer} (ha : s.handle r = a) :
    exec c s = .next (a.state.answered tag (replyBody (requestCode r) a)) := by
  rw [exec_frame_ready hs hf, ha]

/-- A request refused: the code and the status. -/
theorem exec_refused {x : Status} (ha : s.handle r = s.refuse x) :
    exec c s = .next (s.answered tag [requestCode r, statusByte x]) := exec_of_answer hs hf ha

/-- A request accepted: the code and OK. -/
theorem exec_accepted (ha : s.handle r = t.accept) : exec c s = .next (t.answered tag [requestCode r, 0x00]) :=
  exec_of_answer hs hf ha

/-- A request answered with fields: the code, OK and the fields. -/
theorem exec_replied {fields : Bytes} (ha : s.handle r = t.reply fields) :
    exec c s = .next (t.answered tag ([requestCode r, 0x00] ++ fields)) := exec_of_answer hs hf ha

end answers

/-! ## A refusal changes nothing but the reply -/

/-- An answer that is OK, or leaves the state as it was. -/
def Answer.Clean (s : State) (a : Answer) : Prop := a.status = .ok ∨ a.state = s

section clean
variable {s t : State}

theorem State.accept_clean : t.accept.Clean s := .inl rfl
theorem State.reply_clean {b : Bytes} : (t.reply b).Clean s := .inl rfl
theorem State.refuse_clean {x : Status} : (s.refuse x).Clean s := .inr rfl

theorem State.withTag_clean {r : Nat} {f : Roster → Tag → Answer} (h : ∀ i t, (f i t).Clean s) : (s.withTag r f).Clean s := by
  unfold withTag; split
  · exact refuse_clean
  · next i _ => cases s.tags.get i with
    | none => exact refuse_clean
    | some t => exact h i t

theorem State.withVehicle_clean {v : Nat} {f : VehNo → Answer} (h : ∀ i, (f i).Clean s) : (s.withVehicle v f).Clean s := by
  unfold withVehicle; split
  · exact refuse_clean
  · split
    · exact h _
    · exact refuse_clean

/-- The owner of a request other than START_PROGRAM refuses it as it stands. -/
theorem State.handle_clean {r : Request} (h : ∀ p z, r ≠ .startProgram p z) : (s.handle r).Clean s := by
  by_cases hr : r.isRead = true
  · exact .inr (s.handle_read hr)
  cases r
  case startProgram p z => exact absurd rfl (h p z)
  case setZone =>
    simp only [handle, doSetZone]; split
    · exact refuse_clean
    · split_ifs <;> first | exact refuse_clean | exact accept_clean
  case orderEvacuation =>
    simp only [handle, doOrderEvacuation]; split
    · exact refuse_clean
    · split_ifs <;> first | exact refuse_clean | exact accept_clean
  case liftEvacuation =>
    simp only [handle, doLiftEvacuation]; split
    · split_ifs <;> first | exact refuse_clean | exact accept_clean
    · exact refuse_clean
  case setChannel =>
    simp only [handle, doSetChannel]; split
    · exact refuse_clean
    · split_ifs <;> first | exact refuse_clean | exact accept_clean
  case setService =>
    simp only [handle, doSetService]; split
    · split_ifs
      · exact refuse_clean
      · exact accept_clean
      · split <;> exact accept_clean
    · exact refuse_clean
  case setTrip =>
    simp only [handle, doSetTrip]; split
    · exact refuse_clean
    · split_ifs <;> first | exact refuse_clean | exact accept_clean
  case trip =>
    simp only [handle, doTrip]; split
    · exact refuse_clean
    · split_ifs <;> first | exact refuse_clean | exact accept_clean
  case restore =>
    simp only [handle, doRestore]; split
    · split_ifs <;> first | exact refuse_clean | exact accept_clean
    · exact refuse_clean
  case enrollTag =>
    simp only [handle, doEnrollTag]; split
    · exact refuse_clean
    · split_ifs
      · exact refuse_clean
      · exact refuse_clean
      · split
        · exact refuse_clean
        · unfold enroll; split
          · exact reply_clean
          · split_ifs <;> first | exact refuse_clean | exact reply_clean
  case removeTag =>
    exact withTag_clean fun i t => by split_ifs <;> first | exact refuse_clean | exact accept_clean
  case pageTag =>
    simp only [handle, doPageTag]; split
    · split
      · exact refuse_clean
      · split_ifs <;> first | exact refuse_clean | exact accept_clean
    · exact refuse_clean
  case ackTag => exact withTag_clean fun i t => accept_clean
  case placeCall =>
    exact withTag_clean fun i t => by split_ifs <;> first | exact refuse_clean | exact reply_clean
  case endCall =>
    simp only [handle, doEndCall]
    split_ifs <;> first | exact refuse_clean | exact accept_clean
  case setTrunk =>
    simp only [handle, doSetTrunk]; split
    · exact refuse_clean
    · split_ifs <;> first | exact refuse_clean | exact accept_clean
  case setVehicle =>
    simp only [handle, doSetVehicle]; split
    · exact refuse_clean
    · split_ifs <;> first | exact refuse_clean | exact accept_clean
  case setJunction =>
    simp only [handle, doSetJunction]; split
    · exact refuse_clean
    · split_ifs <;> first | exact refuse_clean | exact accept_clean
  case stopVehicle => exact withVehicle_clean fun _ => accept_clean
  case releaseVehicle => exact withVehicle_clean fun _ => accept_clean
  case burstNow =>
    simp only [handle, doBurstNow]; split
    · split_ifs <;> first | exact refuse_clean | exact accept_clean
    · exact refuse_clean
  case setStation =>
    simp only [handle, doSetStation]; split
    · exact refuse_clean
    · split_ifs <;> first | exact refuse_clean | exact accept_clean
  case refugeReset =>
    simp only [handle, doRefugeReset]; split
    · split_ifs <;> first | exact refuse_clean | exact accept_clean
    · exact refuse_clean
  case loadSteps =>
    simp only [handle, doLoadSteps]; split
    · exact refuse_clean
    · split
      · exact refuse_clean
      · split <;> first | exact refuse_clean | exact accept_clean
  case setProgram =>
    simp only [handle, doSetProgram]; split
    · exact refuse_clean
    · split_ifs <;> first | exact refuse_clean | exact accept_clean
  case cancelRunner =>
    simp only [handle, doCancelRunner]; split
    · exact refuse_clean
    · split_ifs <;> first | exact refuse_clean | exact accept_clean
  case cancelPair =>
    simp only [handle, doCancelPair]; split
    · split
      · exact accept_clean
      · split_ifs <;> first | exact refuse_clean | exact accept_clean
    · exact refuse_clean
  case cancelOther => exact refuse_clean
  case setSpur =>
    simp only [handle, doSetSpur]; split
    · split_ifs <;> exact accept_clean
    · exact refuse_clean
  case setDevice =>
    simp only [handle, doSetDevice]; split
    · exact refuse_clean
    · split_ifs <;> first | exact refuse_clean | exact accept_clean
  case startRun =>
    simp only [handle, doStartRun]; split
    · exact refuse_clean
    · split
      · exact .inr rfl
      · exact accept_clean
  case enterLoading =>
    simp only [handle, doEnterLoading]; split
    · exact refuse_clean
    · exact accept_clean
  case reset => exact accept_clean
  all_goals exact absurd rfl hr

end clean

/-- Settles O16. -/
theorem refusalChangesNothing : Obligations.RefusalChangesNothing := by
  intro c tag r s hframe hs hstart hstatus
  have hr : ∀ p z, r ≠ .startProgram p z := by
    rintro p z rfl
    cases c <;> first | exact absurd rfl (hstart _ _ _) | cases hframe
  have hsame : (s.handle r).state = s := (State.handle_clean hr).resolve_left hstatus
  rw [exec_frame_ready hs hframe, hsame]

/-! ## Reads -/

/-- Settles O18: the number outside its table is none of its indices. -/
theorem readsRefused : Obligations.ReadsRefused := by
  intro s tag k hs
  have refused (c : Instr) (r : Request) (x : Status) (hf : c.frame? = some (tag, r)) (ha : s.handle r = s.refuse x) :
      exec c s = .next (s.answered tag [requestCode r, statusByte x]) := exec_refused hs hf ha
  refine ⟨fun h => ?zone, fun h => ?channel, fun h => ?trip, fun h => ?signal, fun h => ?tag, fun h1 h2 h => ?call,
    fun h => ?vehicle, fun h => ?junction, fun h => ?burst, fun h => ?station, fun h => ?program, fun first h => ?steps,
    fun h => ?runner, fun h => ?device, fun h => ?spur⟩
  case zone => exact refused _ (.readZone k) .badValue rfl (by simp only [State.handle, State.doReadZone, index?_eq_none.mpr h])
  case channel => exact refused _ (.readChannel k) .badValue rfl (by simp only [State.handle, State.doReadChannel, index?_eq_none.mpr h])
  case trip => exact refused _ (.readTrip k) .badValue rfl (by simp only [State.handle, State.doReadTrip, index?_eq_none.mpr h])
  case signal => exact refused _ (.readSignal k) .badValue rfl (by simp only [State.handle, State.doReadSignal, index?_eq_none.mpr h])
  case tag => exact refused _ (.readTag k) .badValue rfl (by simp only [State.handle, State.doReadTag, index?_eq_none.mpr h])
  case call =>
    refine refused _ (.readCall k) .notFound rfl ?_
    rw [State.handle, State.doReadCall, if_neg (by omega), if_neg (by omega), h]
  case vehicle => exact refused _ (.readVehicle k) .badValue rfl (by simp only [State.handle, State.doReadVehicle, index?_eq_none.mpr h])
  case junction => exact refused _ (.readJunction k) .badValue rfl (by simp only [State.handle, State.doReadJunction, optIndex?_eq_none.mpr h])
  case burst => exact refused _ (.readBurst k) .badValue rfl (by simp only [State.handle, State.doReadBurst, index?_eq_none.mpr h])
  case station => exact refused _ (.readStation k) .badValue rfl (by simp only [State.handle, State.doReadStation, index?_eq_none.mpr h])
  case program => exact refused _ (.readProgram k) .badValue rfl (by simp only [State.handle, State.doReadProgram, index?_eq_none.mpr h])
  case steps => exact refused _ (.readSteps first k) .badValue rfl (by simp only [State.handle, State.doReadSteps, if_pos h])
  case runner => exact refused _ (.readRunner k) .badValue rfl (by simp only [State.handle, State.doReadRunner, optIndex?_eq_none.mpr h])
  case device => exact refused _ (.readDevice k) .badValue rfl (by simp only [State.handle, State.doReadDevice, index?_eq_none.mpr h])
  case spur => exact refused _ (.readSpur k) .badValue rfl (by simp only [State.handle, State.doReadSpur, index?_eq_none.mpr h])

/-! ### The fields of the replies, where R178 spells a named value by its number -/

/-- A value of two, the first where a test holds. -/
theorem named_true_false (b : Bool) : named [true, false] b = [if b then 0x00 else 0x01] := by cases b <;> rfl

theorem named_isEmpty {α : Type} [DecidableEq α] (l : List α) :
    named [true, false] (!l.isEmpty) = [if l = [] then 0x01 else 0x00] := by cases l <;> rfl

theorem feedbackField_eq (t : Trip) : feedbackField t =
    [if (t.feedbackHigh && t.sense == .offWhenHigh) || (!t.feedbackHigh && t.sense == .offWhenLow) then 0x00 else 0x01] := by
  cases hh : t.feedbackHigh <;> cases hs : t.sense <;> simp [feedbackField, Trip.powerOff, hh, hs] <;> decide

theorem manualActive_eq (t : Trip) : t.manualActive =
    ((t.edge == .falling && !t.manualHigh) || (t.edge == .rising && t.manualHigh)) := by
  cases he : t.edge <;> simp [Trip.manualActive, he]

theorem replySource_eq (y : Option Source) : replySource y = match y with
    | none => Config.absentSource
    | some (.head r n) => byteField 0 ++ refField r ++ num n
    | some (.vehicle v) => byteField 1 ++ num v := by rcases y with _ | ⟨_⟩ | ⟨_⟩ <;> rfl

theorem claimLegField_eq : claimLegField = fun l => legField l ++ [if l.cleared then 0x00 else 0x01] :=
  funext fun l => by rw [claimLegField, named_true_false]

theorem lamps_flatMap (j : Junction) : j.lamps.flatMap (named [true, false]) =
    (List.range j.branches).map fun b => if j.go = some (b + 1) then (0x00 : Byte) else 0x01 := by
  rw [Junction.lamps, List.flatMap_map, List.map_eq_flatMap]; simp only [named_true_false, beq_iff_eq]

section reads
variable {s : State} {tag : Byte} (hs : s.Ready)
include hs

theorem exec_readZone (z : ZoneNo) : exec (.readZone tag (number z)) s = .next (s.answered tag ([0x04, 0x00] ++ s.zoneFields z)) :=
  exec_replied hs (r := .readZone (number z)) rfl (by simp only [State.handle, State.doReadZone, index?_number])

theorem exec_readChannel (c : ChanNo) :
    exec (.readChannel tag (number c)) s = .next (s.answered tag ([0x07, 0x00] ++ s.channelFields c)) :=
  exec_replied hs (r := .readChannel (number c)) rfl (by simp only [State.handle, State.doReadChannel, index?_number])

theorem exec_readTrip (o : OutNo) : exec (.readTrip tag (number o)) s = .next (s.answered tag ([0x0B, 0x00] ++ s.tripFields o)) :=
  exec_replied hs (r := .readTrip (number o)) rfl (by simp only [State.handle, State.doReadTrip, index?_number])

theorem exec_readSignal (g : SigNo) :
    exec (.readSignal tag (number g)) s = .next (s.answered tag ([0x0C, 0x00] ++ s.signalFields g)) :=
  exec_replied hs (r := .readSignal (number g)) rfl (by simp only [State.handle, State.doReadSignal, index?_number])

theorem exec_readTag (r : Roster) : exec (.readTag tag (number r)) s =
    .next (s.answered tag ([0x11, 0x00] ++ (s.tags.get r).elim (byteField 4) s.tagFields)) :=
  exec_replied hs (r := .readTag (number r)) rfl (by simp only [State.handle, State.doReadTag, index?_number])

theorem exec_readCall {i : Nat} {c : Call} (h1 : 1 ≤ i) (h2 : i ≤ 255) (hc : s.callOf i = some c) :
    exec (.readCall tag i) s = .next (s.answered tag ([0x14, 0x00] ++ s.callFields c)) :=
  exec_replied hs (r := .readCall i) rfl (by
    rw [State.handle, State.doReadCall, if_neg (by omega), if_neg (by omega), hc])

theorem exec_readVehicle (v : VehNo) :
    exec (.readVehicle tag (number v)) s = .next (s.answered tag ([0x1B, 0x00] ++ s.vehicleFields v)) :=
  exec_replied hs (r := .readVehicle (number v)) rfl (by simp only [State.handle, State.doReadVehicle, index?_number])

theorem exec_readJunction (j : JuncNo) :
    exec (.readJunction tag (number j)) s = .next (s.answered tag ([0x1C, 0x00] ++ s.junctionFields j)) :=
  exec_replied hs (r := .readJunction (number j)) rfl (by simp only [State.handle, State.doReadJunction, optIndex?_number])

theorem exec_readBurst (v : VehNo) : exec (.readBurst tag (number v)) s =
    .next (s.answered tag ([0x1E, 0x00] ++ (s.bursts.get v).elim (byteField 1) (s.burstFields v))) :=
  exec_replied hs (r := .readBurst (number v)) rfl (by simp only [State.handle, State.doReadBurst, index?_number])

theorem exec_readStation (n : StationNo) :
    exec (.readStation tag (number n)) s = .next (s.answered tag ([0x21, 0x00] ++ s.stationFields n)) :=
  exec_replied hs (r := .readStation (number n)) rfl (by simp only [State.handle, State.doReadStation, index?_number])

theorem exec_readProgram (p : ProgNo) :
    exec (.readProgram tag (number p)) s = .next (s.answered tag ([0x26, 0x00] ++ s.programFields p)) :=
  exec_replied hs (r := .readProgram (number p)) rfl (by simp only [State.handle, State.doReadProgram, index?_number])

theorem exec_readSteps {first count : Nat} (h1 : 1 ≤ count) (h2 : count ≤ 32) (h3 : first + count ≤ 128) :
    exec (.readSteps tag first count) s = .next (s.answered tag ([0x27, 0x00] ++
      listField replyStep ((List.range count).filterMap fun i => s.stepAt (first + i)))) :=
  exec_replied hs (r := .readSteps first count) rfl (by rw [State.handle, State.doReadSteps, if_neg (by omega)])

theorem exec_readRunner (r : RunnerNo) : exec (.readRunner tag (number r)) s =
    .next (s.answered tag ([0x28, 0x00] ++ s.runnerFields (s.runners.get r))) :=
  exec_replied hs (r := .readRunner (number r)) rfl (by simp only [State.handle, State.doReadRunner, optIndex?_number])

theorem exec_readDevice (e : EntryNo) : exec (.readDevice tag (number e)) s = .next (s.answered tag ([0x2B, 0x00] ++
    if (s.devices.get e).configured then s.deviceFields (s.devices.get e) else byteField 4)) :=
  exec_replied hs (r := .readDevice (number e)) rfl (by simp only [State.handle, State.doReadDevice, index?_number])

theorem exec_readSpur (p : SpurNo) :
    exec (.readSpur tag (number p)) s = .next (s.answered tag ([0x2C, 0x00] ++ s.spurFields p)) :=
  exec_replied hs (r := .readSpur (number p)) rfl (by simp only [State.handle, State.doReadSpur, index?_number])

end reads

/-- Settles O17: each reply's fields are the owner's (`zoneFields` and the others), spelt out. -/
theorem readsAnswer : Obligations.ReadsAnswer := by
  intro s tag hs age left party leg waited holder
  refine ⟨?zone, ?channel, ?trip, ?signal, ?tag, ?call, ?calls, ?trunk, ?vehicle, ?junction, ?waits, ?burst, ?station, ?program,
    ?steps, ?runner, ?starts, ?device, ?spur, ?status⟩
  case zone =>
    intro z x
    rw [exec_readZone hs, State.zoneFields, State.missingCount]
  case channel =>
    intro c x source
    have hsource : replySource x.source = source := replySource_eq _
    refine (exec_readChannel hs c).trans ?_
    refine congrArg (fun b => Host.Outcome.next (s.answered tag ([0x07, 0x00] ++ b))) ?_
    rw [← hsource]
    unfold State.channelFields
    rfl
  case trip =>
    intro o x off pressed
    rw [exec_readTrip hs, State.tripFields, feedbackField_eq, named_true_false, manualActive_eq]
    simp only [originField, List.append_assoc]; rfl
  case signal =>
    intro g x driver
    rw [exec_readSignal hs, State.signalFields, named_isEmpty, faultField, named_true_false]
    have : driverField = driver := funext fun d => by cases d <;> rfl
    rw [this]
  case tag =>
    intro r
    rw [exec_readTag hs]
    refine ⟨fun h => by rw [h]; rfl, fun t h => ?_⟩
    rw [h, Option.elim_some, State.tagFields, optRef]
    simp only [List.append_assoc]; rfl
  case call => exact fun i c h1 h2 hc => exec_readCall hs h1 h2 hc
  case calls => exact exec_replied hs (r := .readCall 0) rfl rfl
  case trunk =>
    have : slotHolderField = holder := funext fun h => by cases h <;> rfl
    have ha : s.handle .readTrunk = s.reply s.trunkFields := rfl
    rw [exec_replied hs (r := .readTrunk) rfl ha, State.trunkFields, this]; rfl
  case vehicle =>
    intro v x claim wait
    have hclaim : s.claimField x.claim = claim := by
      simp only [claim]
      cases x.claim with
      | none => rfl
      | some c => rw [State.claimField, claimLegField_eq]; rfl
    rw [exec_readVehicle hs, State.vehicleFields, hclaim]; rfl
  case junction =>
    intro j x held
    have hheld : holderField x.holder = held := by simp only [held]; cases x.holder <;> rfl
    rw [exec_readJunction hs, State.junctionFields, hheld, lamps_flatMap]; rfl
  case waits => exact exec_replied hs (r := .readJunction 0) rfl rfl
  case burst =>
    intro v
    rw [exec_readBurst hs]
    refine ⟨fun h => by rw [h]; rfl, fun b h => ?_⟩
    intro gathering forwarding
    have hg : gatheringField b.gatherEnd = gathering := by simp only [gathering]; cases b.gatherEnd <;> rfl
    have hf : forwardingField b.forwarding = forwarding := by simp only [forwarding]; cases b.forwarding <;> rfl
    rw [h, Option.elim_some, State.burstFields, hg, hf]; rfl
  case station =>
    intro n x strobes
    have : s.strobeOn n = strobes := by
      simp only [State.strobeOn, strobes, x, Bool.or_comm (List.any _ _)]; rfl
    rw [exec_readStation hs, State.stationFields, this, linkField, named_true_false, named_true_false]
  case program => exact exec_readProgram hs
  case steps => exact fun first count h1 h2 h3 => exec_readSteps hs h1 h2 h3
  case runner => exact exec_readRunner hs
  case starts => exact exec_replied hs (r := .readRunner 0) rfl rfl
  case device =>
    intro e d call bound
    rw [exec_readDevice hs]
    refine ⟨fun h => by simp only [d] at h; rw [h]; rfl, fun h => ?_⟩
    have hb : s.boundItems d = bound := by simp only [bound, State.boundItems]; cases d.kind <;> rfl
    simp only [d] at h
    rw [h, if_pos rfl, State.deviceFields, hb]
    simp only [refField, List.append_assoc]; rfl
  case spur =>
    intro p x
    rw [exec_readSpur hs, State.spurFields, named_true_false]
  case status =>
    have ha : s.handle .readStatus = s.reply s.statusFields := rfl
    rw [exec_replied hs (r := .readStatus) rfl ha, State.statusFields, named_true_false]; rfl

end Sys2Proof.Machine
end


section
/-! PROOFS. The statements on resets and on the end of a frame (R183 to R187): what the start of a reset clears, what its end
brings back, and what the transmitter sends next. -/

namespace Sys2Proof.Machine

/-! ## The start of a reset (R187) -/

section begins
variable (s : State) (c : Causes)

theorem State.clearDynamic_cleared : s.clearDynamic.Cleared where
  zones z := by
    simp only [clearDynamic, get_map_entry, Zone.afterReset, true_and]
    cases (s.zones.get z).configured <;> cases (s.zones.get z).trip <;> rfl
  channels c := by simp [clearDynamic, Channel.afterReset, Channel.cleared]
  trips o := by simp [clearDynamic, Trip.afterReset]
  signals g := by simp [clearDynamic, Signal.afterReset, chosenPattern]
  tags r t h := by
    simp only [clearDynamic, get_map_entry, Option.map_eq_some_iff] at h
    obtain ⟨y, -, rfl⟩ := h; rfl
  calls := ⟨rfl, rfl, rfl⟩
  voice e k := by simp [clearDynamic]
  trunk := ⟨rfl, rfl, rfl, rfl, rfl, rfl⟩
  vehicles v := by simp [clearDynamic, Vehicle.afterReset]
  junctions j := by simp [clearDynamic, Junction.afterReset]
  waits := rfl
  bursts v := by simp [clearDynamic]
  stations n := by simp [clearDynamic, Station.afterReset]
  runners r := by simp [clearDynamic]
  starts := ⟨rfl, rfl, rfl, rfl⟩
  devices e := by simp [clearDynamic, Device.afterReset, Device.settings]
  spurs p := by simp [clearDynamic]

/-- The link's fields are no part of what `Cleared` speaks of. -/
theorem State.Cleared.modSlp {s : State} (h : s.Cleared) (f : Slp → Slp) : (s.modSlp f).Cleared :=
  ⟨h.zones, h.channels, h.trips, h.signals, h.tags, h.calls, h.voice, h.trunk, h.vehicles, h.junctions, h.waits, h.bursts,
    h.stations, h.runners, h.starts, h.devices, h.spurs⟩

theorem State.beginReset_stopped : (s.beginReset c).Stopped c where
  cleared := s.clearDynamic_cleared.modSlp _
  mode := rfl
  receiver := rfl
  buffer := rfl
  replySlot := rfl
  sending := rfl
  queue := rfl
  marker := rfl
  resetDue := rfl
  causes := rfl

theorem map_map_of_eq {α β γ : Type} {n : Nat} {v : Vector α n} {f : α → β} {g : β → γ} {k : α → γ}
    (h : ∀ a, g (f a) = k a) : (v.map f).map g = v.map k := by
  rw [Vector.map_map]; exact congrArg (v.map ·) (funext h)

theorem Tag.map_afterReset_afterReset (t : Option Tag) :
    (t.map Tag.afterReset).map Tag.afterReset = t.map Tag.afterReset := by cases t <;> rfl

/-- What a reset keeps of the configuration: all but the pending W and the allotment. -/
def State.configurationAtReset (s : State) : Configuration :=
  { s.configuration with
    trips := s.trips.map fun x => { x.settings with waitPending := x.wait }, allotment := List.finRange 24 }

theorem State.beginReset_configuration : (s.beginReset c).configuration = s.configurationAtReset := by
  simp only [configuration, configurationAtReset, Configuration.mk.injEq]
  exact ⟨map_map_of_eq fun _ => rfl, map_map_of_eq fun _ => rfl,
    map_map_of_eq fun _ => rfl,
    map_map_of_eq Tag.map_afterReset_afterReset, map_map_of_eq fun _ => rfl, map_map_of_eq fun _ => rfl,
    map_map_of_eq fun _ => rfl, rfl, rfl, map_map_of_eq fun _ => rfl, rfl⟩

end begins

/-- A cause that arises while the part operates. -/
theorem State.resetCause_operating {s : State} (h : s.slp.inReset = none) (c : Causes) : s.resetCause c = s.beginReset c := by
  simp [resetCause, h]

/-- A cause that arises in a reset. -/
theorem State.resetCause_joins {s : State} {d : Causes} (h : s.slp.inReset = some d) (c : Causes) :
    s.resetCause c = { s with slp := { s.slp with inReset := some (d.join c) } } := by
  simp [resetCause, h, modSlp]

/-- Settles O4: the three causes start `beginReset`, whose state is `Stopped`; in a reset they join. -/
theorem resetBegins : Obligations.ResetBegins := by
  refine ⟨fun s cmd c hop hcmd => ?starts, fun s c hin => ?joins⟩
  case starts =>
    have hexec : exec cmd s = .next (s.beginReset c) := by
      rcases hcmd with ⟨rfl, rfl⟩ | ⟨rfl, rfl⟩ | ⟨rfl, rfl⟩ <;> exact congrArg _ (State.resetCause_operating hop _)
    refine ⟨s.beginReset c, hexec, s.beginReset_stopped c, rfl, s.beginReset_configuration c, rfl, rfl, fun o => ?_,
      fun g => ?_, fun e => ?_⟩
    · simp [State.beginReset, State.clearDynamic, Trip.afterReset]
    · simp [State.beginReset, State.clearDynamic, Signal.afterReset]
    · simp [State.beginReset, State.clearDynamic, Device.afterReset, Device.fallenBack]
  case joins =>
    refine ⟨congrArg _ ((State.resetCause_joins hin _).trans ?_), congrArg _ ((State.resetCause_joins hin _).trans ?_),
      congrArg _ ((State.resetCause_joins hin _).trans ?_)⟩ <;>
      simp [Causes.join, powerCauses]

/-! ## The end of a frame (R182, R183) -/

section frameEnds
variable {s : State} {x : Sending}

/-- The part after a frame has gone, before the transmitter begins the next. -/
def State.lineFree (s : State) : State := { s with slp := { s.slp with sending := none } }

theorem exec_frameSent (h : s.slp.inReset = none) : exec .frameSent s = .next s.frameEnds.beginSending :=
  congrArg _ (State.event_operating h State.frameEnds)

theorem State.beginReset_beginSending (s : State) (c : Causes) : (s.beginReset c).beginSending = s.beginReset c :=
  congrArg (fun l => { s.beginReset c with slp := l }) (Slp.beginSending_idle rfl rfl)

theorem State.frameEnds_report (hx : s.slp.sending = some x) (hr : x.isReply = false) : s.frameEnds = s.lineFree := by
  simp [frameEnds, hx, hr, lineFree, modSlp]

theorem State.frameEnds_reply (hx : s.slp.sending = some x) (hr : x.isReply = true) (hd : s.slp.resetDue = false) :
    s.frameEnds = s.lineFree.takeRequest := by
  simp [frameEnds, hx, hr, hd, lineFree, modSlp]

theorem State.frameEnds_resetDue (hx : s.slp.sending = some x) (hr : x.isReply = true) (hd : s.slp.resetDue = true) :
    s.frameEnds = s.lineFree.beginReset { link := true } := by
  simp [frameEnds, hx, hr, hd, lineFree, modSlp]

theorem State.takeRequest_empty (h : s.slp.buffer = []) : s.takeRequest = s := by
  unfold takeRequest; rw [h]; simp

/-- The oldest frame is taken on a free line, and its reply goes to the slot. -/
theorem State.takeRequest_front {tag : Byte} {r : Request} {rest : List Received} (hslot : s.slp.replySlot = none)
    (hbuf : s.slp.buffer = ⟨tag, .request r⟩ :: rest) : s.lineFree.takeRequest =
      ((({ s with slp := { s.slp with sending := none, buffer := rest } } : State).handle r).state).modSlp fun l =>
        { l with replySlot := some ⟨tag, replyBody (requestCode r)
          (({ s with slp := { s.slp with sending := none, buffer := rest } } : State).handle r)⟩ } := by
  have hfree : s.lineFree.slp.replyPending = false := by simp [lineFree, Slp.replyPending, hslot]
  have hbuf' : s.lineFree.slp.buffer = ⟨tag, .request r⟩ :: rest := hbuf
  unfold takeRequest
  rw [hfree, hbuf']; rfl

/-- With no request to take and no reset due, the end of any frame leaves the line free alone. -/
theorem State.frameEnds_free (hx : s.slp.sending = some x)
    (hr : x.isReply = true → s.slp.buffer = [] ∧ s.slp.resetDue = false) : s.frameEnds = s.lineFree := by
  cases hrep : x.isReply with
  | false => exact frameEnds_report hx hrep
  | true =>
    obtain ⟨hbuf, hdue⟩ := hr hrep
    rw [frameEnds_reply hx hrep hdue, takeRequest_empty (s := s.lineFree) hbuf]

end frameEnds

/-- Settles O11: the branches of `frameEnds`, each followed by what a free transmitter begins. -/
theorem frameSent : Obligations.FrameSent := by
  intro s hop
  have hsent {t : State} (h : s.frameEnds = t) : exec .frameSent s = .next t.beginSending := h ▸ exec_frameSent hop
  have begins {l : Slp} (h : s.lineFree.slp.beginSending = l) : s.lineFree.beginSending = { s with slp := l } := by
    rw [← h]; rfl
  refine ⟨fun x r hx hr hslot => ?reply, fun x r q hx hr hslot hq => ?report, fun x hx hr hslot hq => ?idle,
    fun x tag r rest hx hr hdue hslot hbuf a ha => ?request, fun x hx hr hdue => ?reset, fun hx => hsent ?none⟩
  case reply =>
    rw [hsent (State.frameEnds_report hx hr), begins (Slp.beginSending_reply rfl hslot)]; rfl
  case report =>
    rw [hsent (State.frameEnds_free hx hr), begins (Slp.beginSending_report rfl hslot hq)]; rfl
  case idle =>
    rw [hsent (State.frameEnds_free hx hr), begins (Slp.beginSending_idle hslot hq)]; rfl
  case request =>
    subst ha
    rw [hsent (State.frameEnds_reply hx hr hdue), State.takeRequest_front hslot hbuf]; rfl
  case reset =>
    rw [hsent (State.frameEnds_resetDue hx hr hdue), State.beginReset_beginSending]
    exact ⟨_, rfl, State.beginReset_stopped _ _, rfl, State.beginReset_configuration s.lineFree _⟩
  case none => simp [State.frameEnds, hx]

/-! ## The reset state -/

theorem State.reset_cleared : State.reset.Cleared where
  zones z := by simp [State.reset]
  channels c := by simp [State.reset]
  trips o := by simp [State.reset]
  signals g := by simp [State.reset]
  tags r t h := by simp [State.reset] at h
  calls := ⟨rfl, rfl, rfl⟩
  voice e k := by simp [State.reset]
  trunk := ⟨rfl, rfl, rfl, rfl, rfl, rfl⟩
  vehicles v := by simp [State.reset]
  junctions j := by simp [State.reset]
  waits := rfl
  bursts v := by simp [State.reset]
  stations n := by simp [State.reset]
  runners r := by simp [State.reset]
  starts := ⟨rfl, rfl, rfl, rfl⟩
  devices e := by simp [State.reset]
  spurs p := by simp [State.reset]

/-- A part without configuration in its tables: what `loseConfiguration` leaves. -/
theorem State.loseConfiguration_unconfigured (s : State) : s.loseConfiguration.Unconfigured where
  zones z := by simp [loseConfiguration]
  channels c := by simp [loseConfiguration]
  trips o := by simp [loseConfiguration]
  tags r := by simp [loseConfiguration]
  vehicles v := by simp [loseConfiguration]
  junctions j := by simp [loseConfiguration]
  stations n := by simp [loseConfiguration]
  steps i := by simp [loseConfiguration]
  programs p := by simp [loseConfiguration]
  devices e := by simp [loseConfiguration]

/-- The trips of the reset state are those that a lost configuration leaves with both pins low. -/
theorem State.loseConfiguration_reset : State.reset.loseConfiguration = State.reset := by
  simp [loseConfiguration, State.reset, Vector.map_replicate]

theorem State.reset_tablesAgree : State.reset.TablesAgree where
  names := ⟨fun e z h => by simp [State.reset] at h, fun j z h => by simp [State.reset] at h⟩
  occupancy := ⟨fun z _ => by simp [State.reset], fun z r => by simp [State.reset], fun z => by simp [State.reset],
    fun r t h => by simp [State.reset] at h⟩
  emptied z _ := by simp [State.reset]
  presence := ⟨fun z _ => by simp [State.reset], fun z v => by simp [State.reset], fun z => by simp [State.reset]⟩
  trunk := ⟨List.nodup_nil, by simp [State.reset], List.nodup_nil, by simp [State.reset], List.Pairwise.nil⟩
  claims := ⟨fun j v => by simp [State.reset], List.nodup_nil, by simp [State.reset]⟩
  calls := ⟨by simp [State.reset], by simp [State.reset], List.nodup_nil, fun r i => by simp [State.reset],
    fun v i => by simp [State.reset], by simp [State.reset], fun v i h => by simp [State.reset] at h⟩
  silent _ := rfl

/-- Settles O3: the reset state, table by table. -/
theorem resetState : Obligations.ResetState :=
  ⟨State.reset_cleared, State.loseConfiguration_reset ▸ State.reset.loseConfiguration_unconfigured,
    ⟨rfl, rfl, rfl, rfl⟩, ⟨by decide, by decide⟩,
    ⟨nofun, fun _ o => (State.reset_cleared.trips o).1⟩, State.reset_tablesAgree, rfl, rfl, rfl, rfl, rfl, rfl,
    rfl, rfl⟩

/-! ## The spurs at the end of a reset (R169, R176) -/

section spurs
variable {s : State}

/-- A change of one spur after another changes each as it says, and nothing else. -/
theorem State.forEach_spurs {f : State → SpurNo → State} {R : Spur → Spur → Prop} {l : List SpurNo} (hl : l.Nodup)
    (hf : ∀ v p, ∃ x, R (v.get p) x ∧ f { s with spurs := v } p = { s with spurs := v.set p x }) (v : Vector Spur 8) :
    ∃ w, State.forEach { s with spurs := v } l f = { s with spurs := w } ∧
      ∀ p, (p ∈ l → R (v.get p) (w.get p)) ∧ (p ∉ l → w.get p = v.get p) := by
  induction l generalizing v with
  | nil => exact ⟨v, rfl, fun p => ⟨nofun, fun _ => rfl⟩⟩
  | cons q l ih =>
    obtain ⟨hq, hl⟩ := List.nodup_cons.mp hl
    obtain ⟨x, hx, hfx⟩ := hf v q
    obtain ⟨w, hw, hall⟩ := ih hl (v.set q x)
    refine ⟨w, (congrArg (List.foldl f · l) hfx).trans hw, fun p => ?_⟩
    by_cases hp : p = q
    · subst hp
      have hwp : w.get p = x := by simpa using (hall p).2 hq
      exact ⟨fun _ => hwp ▸ hx, fun h => absurd List.mem_cons_self h⟩
    · have hset : (v.set q x).get p = v.get p := by simp [Ne.symm hp]
      exact ⟨fun h => hset ▸ (hall p).1 ((List.mem_cons.mp h).resolve_left hp),
        fun h => ((hall p).2 fun hm => h (List.mem_cons_of_mem _ hm)).trans hset⟩

/-- A spur after its broadcast reset: its count, and what the first round does not touch. -/
def Spur.Started (x y : Spur) : Prop :=
  y.broadcasts = x.broadcasts + 1 ∧ y.standby = x.standby ∧ y.counter = x.counter ∧ y.fetches = x.fetches

theorem State.modSpur_modSpur (s : State) (p : SpurNo) (f g : Spur → Spur) :
    (s.modSpur p f).modSpur p g = s.modSpur p fun x => g (f x) := by
  simp [modSpur]

theorem State.startSpur_eq (s : State) (p : SpurNo) : ∃ f : Spur → Spur, (∀ x, Spur.Started x (f x)) ∧
    (s.modSpur p fun x => { x with broadcasts := x.broadcasts + 1 }).beginRound p = s.modSpur p f := by
  unfold beginRound beginPoll; dsimp only
  split <;>
  · rw [modSpur_modSpur, modSpur_modSpur]
    refine ⟨_, ?_, rfl⟩
    exact fun x => ⟨rfl, rfl, rfl, rfl⟩

theorem State.spursStart_eq (s : State) :
    ∃ w, s.spursStart = { s with spurs := w } ∧ ∀ p, Spur.Started (s.spurs.get p) (w.get p) := by
  obtain ⟨w, hw, hall⟩ := forEach_spurs (s := s) (R := Spur.Started)
    (f := fun t p => (t.modSpur p fun x => { x with broadcasts := x.broadcasts + 1 }).beginRound p) (List.nodup_finRange 8)
    (fun v p => by
      obtain ⟨f, hf, hs⟩ := startSpur_eq { s with spurs := v } p
      exact ⟨f (v.get p), hf _, hs⟩) s.spurs
  exact ⟨w, hw, fun p => (hall p).1 (List.mem_finRange p)⟩

end spurs

/-! ## The reset grading (R20, R6) -/

section grading
variable {s t : State}

/-- The part but for what the reset grading changes: the summaries and the report queue. -/
def State.ungraded (s : State) : State :=
  { s with
    zones := s.zones.map fun x => { x with summary := .normal }, slp := { s.slp with queue := [], marker := .none } }

/-- A part that the reset grading finds: in LOADING, every output HELD, every channel in FAULT, no start held back. -/
structure State.Grading (s : State) : Prop where
  loading : s.slp.mode = .loading
  held : ∀ o : OutNo, (s.trips.get o).state = .held
  faults : ∀ c : ChanNo, (s.channels.get c).level = .fault
  settled : s.handOffs = []

theorem State.Grading.congr (h : t.Grading) (he : s.ungraded = t.ungraded) : s.Grading where
  loading := (congrArg (fun x : State => x.slp.mode) he).trans h.loading
  held o := (congrArg (fun x : State => (x.trips.get o).state) he).trans (h.held o)
  faults c := (congrArg (fun x : State => (x.channels.get c).level) he).trans (h.faults c)
  settled := (congrArg (fun x : State => x.handOffs) he).trans h.settled

theorem State.listZone_ungraded (s : State) : s.ungraded.listZone = s.listZone := by
  funext v; simp [listZone, ungraded]

theorem State.channelZone_ungraded (s : State) (c : ChanNo) : s.ungraded.channelZone c = s.channelZone c :=
  channelZone_congr rfl rfl rfl s.listZone_ungraded

theorem State.channelZone_of_ungraded (he : s.ungraded = t.ungraded) (c : ChanNo) : s.channelZone c = t.channelZone c := by
  rw [← channelZone_ungraded, he, channelZone_ungraded]

@[simp] theorem State.ungraded_report (s : State) (r : Report) : (s.report r).ungraded = s.ungraded := rfl

@[simp] theorem State.ungraded_summary (s : State) (z : ZoneNo) (x : Summary) :
    (s.modZone z fun y => { y with summary := x }).ungraded = s.ungraded := by
  simp only [ungraded, modZone, Vector.map_set]
  congr 1
  exact Vector.ext fun i hi => by
    by_cases h : z.val = i
    · subst h; simp [Vector.get_eq_getElem]
    · simp [h]

theorem State.withHandOffs_eq {l : List StartReq} (h : s.handOffs = l) : ({ s with handOffs := l } : State) = s := by rw [← h]

theorem State.drain_nil (h : s.handOffs = []) (n : Nat) : State.drain n s = s := by
  cases n with
  | zero => rfl
  | succ n => simp [drain, h]

theorem State.settle_nil (h : s.handOffs = []) : s.settle = s := drain_nil h _

/-- With no start held back, a start is taken at once. -/
theorem State.drain_single {q : StartReq} {n : Nat} (h : s.handOffs = []) (ht : (s.apuTake q).1.handOffs = []) :
    State.drain (n + 1) { s with handOffs := [q] } = (s.apuTake q).1 := by
  have hs : ({ s with handOffs := [] } : State) = s := State.withHandOffs_eq h
  simp only [drain]
  rw [hs, drain_nil ht]

theorem sendStart_nil (h : s.handOffs = []) : sendStart [] s = s := by
  have hs : ({ s with handOffs := s.handOffs ++ [] } : State) = s := State.withHandOffs_eq (by simp)
  unfold sendStart; rw [hs, State.settle_nil h]

theorem sendStart_single {q : StartReq} (h : s.handOffs = []) (ht : (s.apuTake q).1.handOffs = []) :
    sendStart [q] s = (s.apuTake q).1 := by
  unfold sendStart State.settle; rw [h]
  exact State.drain_single (n := 999) h ht

/-- In LOADING a start is dropped with its report. -/
theorem sendStart_loading {q : StartReq} (hm : s.slp.mode = .loading) (h : s.handOffs = []) :
    sendStart [q] s = s.reportDropped q .loading := by
  have htake : (s.apuTake q).1 = s.reportDropped q .loading := by simp [State.apuTake, hm]
  rw [sendStart_single h (by rw [htake]; exact h), htake]

theorem State.startBound_ungraded (h : s.Grading) (p : Option ProgNo) (z : ZoneNo) (c : StartCause) :
    (s.startBound sendStart p z c).ungraded = s.ungraded := by
  cases p with
  | none => rfl
  | some p =>
    exact (congrArg State.ungraded (sendStart_loading (q := ⟨p, z, c⟩) h.loading h.settled)).trans (ungraded_report _ _)

theorem State.startSummary_ungraded (h : s.Grading) (z : ZoneNo) (prev new : Summary) :
    (s.startSummary sendStart z prev new).ungraded = s.ungraded := by
  unfold startSummary
  split
  · split
    · rfl
    · exact startBound_ungraded h _ _ _
  · split
    · exact startBound_ungraded h _ _ _
    · rfl
  · rfl

theorem State.startSummary_zones (h : s.Grading) (z : ZoneNo) (prev new : Summary) :
    (s.startSummary sendStart z prev new).zones = s.zones := by
  have hb : ∀ p c, (s.startBound sendStart p z c).zones = s.zones := fun p c => by
    cases p with
    | none => rfl
    | some p =>
      have hs := sendStart_loading (q := ⟨p, z, c⟩) h.loading h.settled
      exact (congrArg (fun x : State => x.zones) hs :)
  unfold startSummary
  split
  · split
    · rfl
    · exact hb _ _
  · split
    · exact hb _ _
    · rfl
  · rfl

/-- A recomputation during the grading changes a summary and the queue. -/
theorem State.recompute_ungraded (h : s.Grading) (z : ZoneNo) : (s.recompute sendStart z).ungraded = s.ungraded := by
  unfold recompute; dsimp only
  split
  · have he : ∀ x v, ((s.modZone z fun y => { y with summary := x }).reportZone z (s.zones.get z).summary v).ungraded =
        s.ungraded := fun x v => ungraded_summary s z x
    rw [startSummary_ungraded (h.congr (he _ _)), he]
  · rfl

/-- Its zone, when it is CONFIGURED, then has summary FAULT. -/
theorem State.recompute_zones (h : s.Grading) {c : ChanNo} {z : ZoneNo} (hz : s.channelZone c = some z) :
    (s.recompute sendStart z).zones =
      if (s.zones.get z).configured then s.zones.set z { s.zones.get z with summary := .fault } else s.zones := by
  have hgrade : s.gradeOf z = .fault := gradeOf_eq_fault hz (h.faults c) fun d _ => by simp [h.faults d]
  unfold recompute; dsimp only; rw [hgrade]
  by_cases hcfg : (s.zones.get z).configured = true
  · by_cases hsum : (s.zones.get z).summary = .fault
    · have hself : ({ s.zones.get z with summary := .fault } : Zone) = s.zones.get z := by rw [← hsum]
      rw [if_neg (by simp [hsum]), if_pos hcfg, hself, set_get_self]
    · have he : ∀ v, ((s.modZone z fun y => { y with summary := .fault }).reportZone z (s.zones.get z).summary v).ungraded =
          s.ungraded := fun v => ungraded_summary s z _
      rw [if_pos ⟨hcfg, Ne.symm hsum⟩, startSummary_zones (h.congr (he _)), if_pos hcfg]; rfl
  · simp [hcfg]

/-- One channel of the reset grading. -/
def State.gradeStep (t : State) (c : ChanNo) : State :=
  let t1 := (t.channelZone c).elim t fun z => t.recompute sendStart z
  if (t1.channels.get c).qualifies then t1.raiseDemand sendStart c else t1

/-- Every output HELD, a demand changes nothing. -/
theorem State.raiseDemand_held (h : s.Grading) (c : ChanNo) : s.raiseDemand sendStart c = s := by
  have hd : ∀ o z, s.demand o z c = s := fun o z => by simp [demand, h.held o]
  unfold raiseDemand
  split
  · rfl
  · cases s.zoneOutput _ with
    | none => rfl
    | some o => simp [hd, sendStart_nil h.settled]

theorem State.gradeStep_unassigned (h : s.Grading) {c : ChanNo} (hc : s.channelZone c = none) : s.gradeStep c = s := by
  simp [gradeStep, hc, raiseDemand_held h]

theorem State.gradeStep_assigned (h : s.Grading) {c : ChanNo} {z : ZoneNo} (hc : s.channelZone c = some z) :
    s.gradeStep c = s.recompute sendStart z := by
  simp [gradeStep, hc, raiseDemand_held (h.congr (recompute_ungraded h z))]

theorem State.gradeStep_ungraded (h : s.Grading) (c : ChanNo) : (s.gradeStep c).ungraded = s.ungraded := by
  cases hc : s.channelZone c with
  | none => rw [gradeStep_unassigned h hc]
  | some z => rw [gradeStep_assigned h hc, recompute_ungraded h]

theorem State.configured_of_ungraded (he : s.ungraded = t.ungraded) (z : ZoneNo) :
    (s.zones.get z).configured = (t.zones.get z).configured := by
  have := congrArg (fun x : State => (x.zones.get z).configured) he
  simpa [ungraded] using this

theorem State.gradeStep_summary (h : s.Grading) (c : ChanNo) (z : ZoneNo) : ((s.gradeStep c).zones.get z).summary =
    if (s.zones.get z).configured = true ∧ s.channelZone c = some z then .fault else (s.zones.get z).summary := by
  cases hc : s.channelZone c with
  | none => simp [gradeStep_unassigned h hc]
  | some y =>
    rw [gradeStep_assigned h hc, recompute_zones h hc]
    by_cases hy : y = z
    · subst hy; by_cases hcfg : (s.zones.get y).configured = true <;> simp [hcfg]
    · by_cases hcfg : (s.zones.get y).configured = true <;> simp [hcfg, hy]

/-- Channel after channel: the summaries that become FAULT, and nothing else but reports. -/
theorem State.gradeSteps (h : s.Grading) (l : List ChanNo) : (s.forEach l gradeStep).ungraded = s.ungraded ∧
    ∀ z, ((s.forEach l gradeStep).zones.get z).summary =
      if (s.zones.get z).configured = true ∧ ∃ d ∈ l, s.channelZone d = some z then .fault else (s.zones.get z).summary := by
  induction l generalizing s with
  | nil => exact ⟨rfl, fun z => by simp [forEach]⟩
  | cons c l ih =>
    have he := gradeStep_ungraded h c
    obtain ⟨hrest, hsum⟩ := ih (h.congr he)
    refine ⟨hrest.trans he, fun z => (hsum z).trans ?_⟩
    simp only [configured_of_ungraded he, channelZone_of_ungraded he, gradeStep_summary h, List.mem_cons]
    by_cases hcfg : (s.zones.get z).configured = true
    · by_cases hc : s.channelZone c = some z
      · simp [hcfg, hc]
      · simp [hcfg, hc]
    · simp [hcfg]

/-- With no channel assigned the grading changes nothing. -/
theorem State.gradeSteps_unassigned (h : s.Grading) {l : List ChanNo} (hl : ∀ d ∈ l, s.channelZone d = none) :
    s.forEach l gradeStep = s := by
  induction l with
  | nil => rfl
  | cons c l ih =>
    obtain ⟨hc, hrest⟩ := List.forall_mem_cons.mp hl
    exact (congrArg (List.foldl gradeStep · l) (gradeStep_unassigned h hc)).trans (ih hrest)

/-- With one channel assigned the grading is that channel's recomputation. -/
theorem State.gradeSteps_single (h : s.Grading) {l : List ChanNo} (hl : l.Nodup) {c : ChanNo} {z : ZoneNo} (hc : c ∈ l)
    (hz : s.channelZone c = some z) (hrest : ∀ d, d ≠ c → s.channelZone d = none) :
    s.forEach l gradeStep = s.recompute sendStart z := by
  obtain ⟨before, after, rfl⟩ := List.append_of_mem hc
  have hmid := List.nodup_middle.mp hl
  have hne : ∀ d ∈ before ++ after, d ≠ c := fun d hd e => (List.nodup_cons.mp hmid).1 (e ▸ hd)
  have hfirst : s.forEach before gradeStep = s :=
    gradeSteps_unassigned h fun d hd => hrest d (hne d (List.mem_append_left _ hd))
  have he := gradeStep_ungraded h c
  have hlast : (s.gradeStep c).forEach after gradeStep = s.gradeStep c :=
    gradeSteps_unassigned (h.congr he) fun d hd =>
      (channelZone_of_ungraded he d).trans (hrest d (hne d (List.mem_append_right _ hd)))
  unfold forEach at *
  rw [List.foldl_append, List.foldl_cons, hfirst, hlast, gradeStep_assigned h hz]

theorem State.configured_of_channelZone {c : ChanNo} {z : ZoneNo} (h : s.channelZone c = some z) :
    (s.channels.get c).configured = true := by
  by_contra hc
  simp [channelZone, hc] at h

end grading

/-! ## The end of a reset (R187) -/

section resume
variable {s : State}

theorem State.report_room (h : s.slp.queue.length < 32) (r : Report) :
    s.report r = { s with slp := { s.slp with queue := s.slp.queue ++ [r] } } := (reportQueue s r).1 h

/-- SIGNAL_FAULT reports that find room join the queue in their order. -/
theorem State.forEach_reportSignalFault (l : List SigNo) (h : s.slp.queue.length + l.length ≤ 32) :
    s.forEach l reportSignalFault = { s with slp := { s.slp with
      queue := s.slp.queue ++ l.map fun g => ⟨.safety, 0x88, num g ++ faultField (s.signals.get g).fault⟩ } } := by
  induction l generalizing s with
  | nil => simp [forEach]
  | cons g l ih =>
    simp only [List.length_cons] at h
    have hroom : s.reportSignalFault g = _ := report_room (by omega) _
    refine (congrArg (fun t => State.forEach t l reportSignalFault) hroom).trans ((ih ?_).trans ?_)
    · simp only [List.length_append, List.length_singleton]; omega
    · simp

theorem State.signalFaults_frame (s : State) : ∃ q m, s.signalFaults = { s with slp := { s.slp with queue := q, marker := m } } := by
  unfold signalFaults
  generalize thoseOf 8 _ = l
  induction l generalizing s with
  | nil => exact ⟨_, _, rfl⟩
  | cons g l ih =>
    obtain ⟨q, m, h⟩ := ih (s.reportSignalFault g)
    exact ⟨q, m, h⟩

/-- The link as the part resumes. -/
def Slp.resumed (c : Causes) : Slp :=
  { mode := .loading, causes := c, retained := c.keep, receiver := .hunt, buffer := [], replySlot := none
    sending := some ⟨false, reportFrame .none (startReport c c.keep)⟩, queue := [], marker := .none, resetDue := false
    inReset := none }

/-- The part as it resumes, before the grading: configuration kept or lost, the time base at 0, START on the line. -/
def State.resumed (s : State) (c : Causes) : State :=
  { (if c.keep then s else s.loseConfiguration) with now := 0, slp := Slp.resumed c }

theorem State.resume_eq (s : State) (c : Causes) : s.resume c =
    ((s.resumed c).forEach (thoseOf 32 fun d => ((s.resumed c).channels.get d).configured)
      gradeStep).signalFaults.periodsStart.spursStart := rfl

theorem State.Cleared.loseConfiguration (h : s.Cleared) : s.loseConfiguration.Cleared where
  zones z := by simp [State.loseConfiguration]
  channels c := by simp [State.loseConfiguration]
  trips o := by simp [State.loseConfiguration]
  signals := h.signals
  tags r t h := by simp [State.loseConfiguration] at h
  calls := h.calls
  voice := h.voice
  trunk := h.trunk
  vehicles v := by simp [State.loseConfiguration]
  junctions j := by simp [State.loseConfiguration]
  waits := h.waits
  bursts := h.bursts
  stations n := by simp [State.loseConfiguration]
  runners := h.runners
  starts := h.starts
  devices e := by simp [State.loseConfiguration]
  spurs := h.spurs

theorem State.Cleared.resumed (h : s.Cleared) (c : Causes) : (s.resumed c).Cleared := by
  have h1 : (if c.keep then s else s.loseConfiguration).Cleared := by
    split
    · exact h
    · exact h.loseConfiguration
  exact ⟨h1.zones, h1.channels, h1.trips, h1.signals, h1.tags, h1.calls, h1.voice, h1.trunk, h1.vehicles, h1.junctions,
    h1.waits, h1.bursts, h1.stations, h1.runners, h1.starts, h1.devices, h1.spurs⟩

theorem State.Cleared.grading (h : s.Cleared) (c : Causes) : (s.resumed c).Grading :=
  have hr := h.resumed c
  ⟨rfl, fun o => (hr.trips o).1, fun d => (hr.channels d).1, hr.starts.2.2.1⟩

theorem State.Cleared.ungraded (h : s.Cleared) : s.ungraded.Cleared :=
  ⟨fun z => by simpa [State.ungraded] using (h.zones z).2, h.channels, h.trips, h.signals, h.tags, h.calls, h.voice, h.trunk,
    h.vehicles, h.junctions, h.waits, h.bursts, h.stations, h.runners, h.starts, h.devices, h.spurs⟩

theorem State.Unconfigured.of_ungraded (h : s.ungraded.Unconfigured) : s.Unconfigured :=
  ⟨fun z => by simpa [State.ungraded] using h.zones z, h.channels, h.trips, h.tags, h.vehicles, h.junctions, h.stations,
    h.steps, h.programs, h.devices⟩

theorem State.Unconfigured.ungraded (h : s.Unconfigured) : s.ungraded.Unconfigured :=
  ⟨fun z => by simpa [State.ungraded] using h.zones z, h.channels, h.trips, h.tags, h.vehicles, h.junctions, h.stations,
    h.steps, h.programs, h.devices⟩

theorem State.configuration_ungraded (s : State) : s.ungraded.configuration = s.configuration := by
  simp only [configuration, Configuration.mk.injEq]
  exact ⟨map_map_of_eq fun _ => rfl, rfl, rfl, rfl, rfl, rfl, rfl, rfl, rfl, rfl, rfl⟩

theorem State.configuration_periodsStart (s : State) : s.periodsStart.configuration = s.configuration := by
  simp only [configuration, Configuration.mk.injEq]
  exact ⟨rfl, rfl, rfl, rfl, map_map_of_eq fun _ => rfl, rfl, rfl, rfl, rfl, rfl, rfl⟩

/-- The part after the grading of a reset's end, before its SIGNAL_FAULT reports. -/
def State.graded (s : State) (c : Causes) : State :=
  (s.resumed c).forEach (thoseOf 32 fun d => ((s.resumed c).channels.get d).configured) gradeStep

theorem State.signalFaults_ungraded (s : State) : s.signalFaults.ungraded = s.ungraded := by
  obtain ⟨q, m, h⟩ := s.signalFaults_frame
  rw [h]; rfl

theorem State.signalFaults_zones (s : State) : s.signalFaults.zones = s.zones := by
  obtain ⟨q, m, h⟩ := s.signalFaults_frame
  rw [h]

/-- The whole of the resumed part: the graded one with its SIGNAL_FAULT reports, the period timers and the spurs. -/
theorem State.resume_frame (s : State) (c : Causes) : ∃ w, s.resume c =
    { (s.graded c).signalFaults.periodsStart with spurs := w } ∧
      ∀ p, Spur.Started ((s.graded c).signalFaults.spurs.get p) (w.get p) := by
  obtain ⟨w, hw, hall⟩ := spursStart_eq (s.graded c).signalFaults.periodsStart
  exact ⟨w, (resume_eq s c).trans hw, hall⟩

theorem State.graded_ungraded (h : s.Cleared) (c : Causes) :
    (s.graded c).signalFaults.ungraded = (s.resumed c).ungraded :=
  (signalFaults_ungraded _).trans (gradeSteps (h.grading c) _).1

theorem State.graded_summary (h : s.Cleared) (c : Causes) (z : ZoneNo) : ((s.graded c).signalFaults.zones.get z).summary =
    if ((s.resumed c).zones.get z).configured = true ∧ ∃ d, (s.resumed c).channelZone d = some z then .fault else .normal := by
  have hnormal : ((s.resumed c).zones.get z).summary = .normal := ((h.resumed c).zones z).1
  rw [signalFaults_zones]
  refine ((gradeSteps (h.grading c) _).2 z).trans ?_
  have hmem : (∃ d ∈ thoseOf 32 fun d => ((s.resumed c).channels.get d).configured, (s.resumed c).channelZone d = some z) ↔
      ∃ d, (s.resumed c).channelZone d = some z :=
    ⟨fun ⟨d, _, hd⟩ => ⟨d, hd⟩, fun ⟨d, hd⟩ => ⟨d, mem_thoseOf.mpr (configured_of_channelZone hd), hd⟩⟩
  simp only [hmem, hnormal]

/-- The SIGNAL_FAULT reports of the outputs whose sense reads open, in their order. -/
def State.openReports (s : State) : List Report :=
  ((List.finRange 8).filter fun g : SigNo => (s.signals.get g).openCircuit).map fun g =>
    ⟨.safety, 0x88, [BitVec.ofNat 8 (g.val + 1), 0x00]⟩

/-- They follow a queue that has room for all of them. -/
theorem State.signalFaults_queue (hfault : ∀ g : SigNo, (s.signals.get g).fault = (s.signals.get g).openCircuit)
    (hroom : s.slp.queue.length ≤ 24) : s.signalFaults.slp.queue = s.slp.queue ++ s.openReports := by
  have hlen : (thoseOf 8 fun g => (s.signals.get g).fault).length ≤ 8 :=
    (List.length_filter_le _ _).trans (List.length_finRange ..).le
  unfold signalFaults
  rw [forEach_reportSignalFault _ (by omega)]
  refine congrArg (s.slp.queue ++ ·) ?_
  simp only [openReports, thoseOf, hfault]
  refine List.map_congr_left fun g hg => ?_
  have hopen : (s.signals.get g).openCircuit = true := (List.mem_filter.mp hg).2
  rw [hopen]; rfl

end resume

theorem exec_resetEnd_operating {s : State} (h : s.slp.inReset = none) : exec .resetEnd s = .next s :=
  congrArg Host.Outcome.next (by simp only [State.endReset, h] : s.endReset = s)

theorem exec_resetEnd {s : State} {c : Causes} (h : s.slp.inReset = some c) : exec .resetEnd s = .next (s.resume c) :=
  congrArg Host.Outcome.next (by simp only [State.endReset, h] : s.endReset = s.resume c)

/-- Settles O5: `resume` in its parts, the grading by `gradeSteps`, the spurs by `spursStart_eq`. -/
theorem resetEnds : Obligations.ResetEnds := by
  refine ⟨fun s c h => ?ends, fun s h => ?none⟩
  case none => exact exec_resetEnd_operating h
  case ends =>
    obtain ⟨w, hw, hspurs⟩ := s.resume_frame c
    generalize ht : s.resume c = t at hw
    have hexec : exec .resetEnd s = .next t := ht ▸ exec_resetEnd h.causes
    have hcl := h.cleared
    have hun := State.graded_ungraded hcl c
    generalize hu : (s.graded c).signalFaults = u at hw hspurs hun
    have hslp : { t.slp with queue := [], marker := .none } = Slp.resumed c := by
      rw [hw]; exact congrArg (fun x : State => x.slp) hun
    have hclear : u.ungraded.Cleared := hun ▸ (hcl.resumed c).ungraded
    have hnow : u.now = 0 := congrArg (fun x : State => x.now) hun
    have hzone : ∀ d, t.channelZone d = (s.resumed c).channelZone d := fun d => by
      rw [hw]; exact State.channelZone_of_ungraded hun d
    have hfield {α : Type} (f : Slp → α) (hf : ∀ l : Slp, f { l with queue := [], marker := .none } = f l) :
        f t.slp = f (Slp.resumed c) := by rw [← hf t.slp, hslp]
    refine ⟨t, hexec, ⟨hfield _ fun _ => rfl, hfield _ fun _ => rfl, hfield _ fun _ => rfl, hfield _ fun _ => rfl⟩,
      hfield _ fun _ => rfl, hfield _ fun _ => rfl, hfield _ fun _ => rfl, ?sending, fun hkeep => ?kept, fun hlost => ?lost,
      ?cleared, ?trunk, ?pending, ?now, fun z => ?summary, fun v => ?period, fun p => ?spur, ?queue⟩
    case sending =>
      rw [hfield (·.sending) fun _ => rfl, hfield (·.retained) fun _ => rfl]; rfl
    case kept =>
      have hc : c.keep = true := (hfield (·.retained) fun _ => rfl).symm.trans hkeep
      have hs : (s.resumed c).configuration = s.configuration := by simp only [State.resumed, hc, if_true]; rfl
      have hconf : t.configuration = u.periodsStart.configuration := by rw [hw]; rfl
      rw [hconf, State.configuration_periodsStart, ← State.configuration_ungraded, hun, State.configuration_ungraded, hs]
    case lost =>
      have hc : c.keep = false := (hfield (·.retained) fun _ => rfl).symm.trans hlost
      have hs : (s.resumed c).Unconfigured := by
        have hl := s.loseConfiguration_unconfigured
        simp only [State.resumed, hc]
        exact ⟨hl.zones, hl.channels, hl.trips, hl.tags, hl.vehicles, hl.junctions, hl.stations, hl.steps, hl.programs,
          hl.devices⟩
      have hu' : u.Unconfigured := State.Unconfigured.of_ungraded (hun ▸ hs.ungraded)
      rw [hw]
      exact ⟨hu'.zones, hu'.channels, hu'.trips, hu'.tags, fun v => by simpa [State.periodsStart] using hu'.vehicles v,
        hu'.junctions, hu'.stations, hu'.steps, hu'.programs, hu'.devices⟩
    case cleared =>
      rw [hw]
      exact ⟨hclear.zones, hclear.channels, hclear.trips, hclear.signals, hclear.tags, hclear.calls, hclear.voice,
        hclear.trunk, fun v => by simp only [State.periodsStart, get_map_entry]; exact hclear.vehicles v, hclear.junctions, hclear.waits,
        hclear.bursts, hclear.stations, hclear.runners, hclear.starts, hclear.devices, hcl.spurs⟩
    case trunk =>
      rw [hw]; exact (congrArg (fun x : State => x.trunk) hun).trans (by unfold State.resumed; split <;> rfl)
    case pending =>
      rw [hw]; exact (congrArg (fun x : State => x.pending) hun).trans (by unfold State.resumed; split <;> rfl)
    case now => rw [hw]; exact hnow
    case summary =>
      have hsum := State.graded_summary hcl c z
      have hz : t.zones = u.zones := by rw [hw]; rfl
      rw [hu, ← State.configured_of_ungraded hun z] at hsum
      simp only [hzone, hz]; exact hsum
    case period =>
      rw [hw]; simp only [State.periodsStart, get_map_entry, hnow, Nat.zero_add]
    case spur =>
      have hs : u.spurs = s.spurs :=
        (congrArg (fun x : State => x.spurs) hun).trans (by unfold State.resumed; split <;> rfl)
      obtain ⟨hb, hstand, hcount, hfetch⟩ := hspurs p
      obtain ⟨hstand0, hcount0, hfetch0, -⟩ := hcl.spurs p
      have ht : t.spurs.get p = w.get p := by rw [hw]
      rw [ht, hb, hstand, hcount, hfetch, hs]
      exact ⟨rfl, hstand0, hcount0, hfetch0⟩
    case queue =>
      have hsig : (s.resumed c).signals = s.signals := by unfold State.resumed; split <;> rfl
      have hopen : ∀ x : State, x.ungraded = (s.resumed c).ungraded → x.openReports = s.openReports := fun x hx => by
        have : x.signals = s.signals := (congrArg (fun y : State => y.signals) hx).trans hsig
        unfold State.openReports; rw [this]
      have hqueue : t.slp.queue = u.slp.queue := by rw [hw]; rfl
      have hfaults : ∀ x : State, x.ungraded = (s.resumed c).ungraded → s.graded c = x → x.slp.queue.length ≤ 24 →
          t.slp.queue = x.slp.queue ++ s.openReports := fun x hx hg hroom => by
        have hxs : x.signals = s.signals := (congrArg (fun y : State => y.signals) hx).trans hsig
        rw [hqueue, ← hu, hg, State.signalFaults_queue (fun g => by rw [hxs]; exact (hcl.signals g).2.2) hroom, hopen x hx]
      refine ⟨fun hnone => ?_, fun d z hz hrest hcfg hprog => ?_⟩
      · exact hfaults (s.resumed c) rfl (State.gradeSteps_unassigned (hcl.grading c) fun d _ =>
          (hzone d).symm.trans (hnone d)) (Nat.zero_le _)
      · have hz0 := (hzone d).symm.trans hz
        have hg : s.graded c = (s.resumed c).recompute sendStart z :=
          State.gradeSteps_single (hcl.grading c) ((List.nodup_finRange 32).filter _)
            (mem_thoseOf.mpr (State.configured_of_channelZone hz0)) hz0 fun e he => (hzone e).symm.trans (hrest e he)
        have hu0 : (s.graded c).ungraded = (s.resumed c).ungraded := by rw [hg]; exact State.recompute_ungraded (hcl.grading c) z
        have hfix {α : Type} (f : Zone → α) (hf : ∀ x : Zone, f { x with summary := .normal } = f x) :
            f (t.zones.get z) = f ((s.resumed c).zones.get z) := by
          have := congrArg (fun x : State => f (x.zones.get z)) hun
          simp only [State.ungraded, get_map_entry, hf] at this
          rw [hw]; exact this
        have hcfg0 : ((s.resumed c).zones.get z).configured = true := (hfix _ fun _ => rfl).symm.trans hcfg
        have hprog0 : ((s.resumed c).zones.get z).onFault = none := (hfix _ fun _ => rfl).symm.trans hprog
        have hview : (t.zones.get z).view = ((s.resumed c).zones.get z).view := hfix _ fun _ => rfl
        obtain ⟨hnormal, -, hocc, -⟩ := (hcl.resumed c).zones z
        have hgrade : (s.resumed c).gradeOf z = .fault :=
          State.gradeOf_eq_fault hz0 ((hcl.grading c).faults d) fun e _ => by simp [(hcl.grading c).faults e]
        have hre := State.recompute_fault_unbound (st := sendStart) hcfg0 hgrade (by simp [hnormal]) hprog0
        rw [State.reportZone_newSummary] at hre
        have hcounts : (s.resumed c).countsField z = [0x00, 0x00] := by
          simp [State.countsField, State.missingCount, hocc, byteField]
        have hq := hre.trans (State.report_room (s := (s.resumed c).modZone z fun y => { y with summary := .fault })
          (Nat.zero_lt_succ 31) _)
        have hqueue' : (s.graded c).slp.queue = [_] := (congrArg (fun x : State => x.slp.queue) (hg.trans hq) :)
        rw [hfaults _ hu0 rfl (by rw [hqueue']; exact Nat.le_add_left 1 23), hqueue', hview, hcounts, hnormal]
        rfl

/-! ## A power-up from any operating part -/

section powerUp

/-- The reset state but for the waiting commands and the spurs. -/
def State.resetWith (pending : List Instr) (spurs : Vector Spur 8) : State :=
  { State.reset with pending := pending, spurs := spurs }

theorem firstOf_eq_none {n : Nat} {p : Fin n → Bool} (h : ∀ i, p i = false) : firstOf n p = none := by
  simp [firstOf, h]

/-- Without a CONFIGURED device a round is empty. -/
theorem State.nextPoll_unconfigured {s : State} (h : ∀ e, (s.devices.get e).configured = false) (p : SpurNo) :
    s.nextPoll p = none := by
  have hd : ∀ r, s.deviceAt r = none := fun r => firstOf_eq_none fun e => by simp [h e]
  simp [nextPoll, pollList, hd]

theorem State.spursStart_resetWith (q : List Instr) :
    (resetWith q (Vector.replicate 8 {})).spursStart = { State.reset with pending := q } := by
  obtain ⟨w, hw, hall⟩ := forEach_spurs (s := resetWith q (Vector.replicate 8 {})) (l := allOf 8)
    (f := fun t p => (t.modSpur p fun x => { x with broadcasts := x.broadcasts + 1 }).beginRound p)
    (R := fun x y => y = { x with broadcasts := x.broadcasts + 1, passed := 31, underWay := none })
    (List.nodup_finRange 8) (fun v p => by
      refine ⟨_, rfl, ?_⟩
      unfold beginRound; dsimp only
      rw [nextPoll_unconfigured (fun e => by simp [resetWith, State.reset])]
      dsimp only
      rw [modSpur_modSpur, modSpur_modSpur]; rfl) (Vector.replicate 8 {})
  have hspurs : w = Vector.replicate 8 { passed := 31, broadcasts := 1 } := Vector.ext fun i hi => by
    have := (hall ⟨i, hi⟩).1 (List.mem_finRange _)
    simpa [Vector.get_eq_getElem] using this
  exact hw.trans (by rw [hspurs]; rfl)

/-- With the pins at their low levels and the senses closed, a power-up leaves the reset state's tables. -/
theorem State.resumed_beginReset {s : State}
    (hpins : ∀ o : OutNo, (s.trips.get o).feedbackHigh = false ∧ (s.trips.get o).manualHigh = false)
    (hsense : ∀ g : SigNo, (s.signals.get g).openCircuit = false) :
    (s.beginReset powerCauses).resumed powerCauses = resetWith s.pending (Vector.replicate 8 {}) := by
  have htrips : ((s.trips.map Trip.afterReset).map fun t : Trip =>
      ({ feedbackHigh := t.feedbackHigh, manualHigh := t.manualHigh } : Trip)) = Vector.replicate 6 {} :=
    Vector.ext fun i hi => by
      obtain ⟨hf, hm⟩ := hpins ⟨i, hi⟩
      simp only [Vector.get_eq_getElem] at hf hm
      simp [Trip.afterReset, hf, hm]
  have hsignals : s.signals.map Signal.afterReset = Vector.replicate 8 {} :=
    Vector.ext fun i hi => by
      have := hsense ⟨i, hi⟩
      simp only [Vector.get_eq_getElem] at this
      simp [Signal.afterReset, this]
  have hlost : (s.beginReset powerCauses).resumed powerCauses =
      { (s.beginReset powerCauses).loseConfiguration with now := 0, slp := Slp.resumed powerCauses } := rfl
  rw [hlost]
  simp only [loseConfiguration, beginReset, clearDynamic, modSlp, htrips, hsignals]; rfl

theorem State.resume_beginReset {s : State}
    (hpins : ∀ o : OutNo, (s.trips.get o).feedbackHigh = false ∧ (s.trips.get o).manualHigh = false)
    (hsense : ∀ g : SigNo, (s.signals.get g).openCircuit = false) :
    (s.beginReset powerCauses).resume powerCauses = { State.reset with pending := s.pending } := by
  have hnone : (thoseOf 32 fun d => ((resetWith s.pending (Vector.replicate 8 {})).channels.get d).configured) = [] := by
    simp [thoseOf, resetWith, State.reset]
  have hgood : (thoseOf 8 fun g => ((resetWith s.pending (Vector.replicate 8 {})).signals.get g).fault) = [] := by
    simp [thoseOf, resetWith, State.reset]
  have hperiods : (resetWith s.pending (Vector.replicate 8 {})).periodsStart = resetWith s.pending (Vector.replicate 8 {}) := by
    simp [periodsStart, resetWith, State.reset, Vector.map_replicate]
  have hfaults : (resetWith s.pending (Vector.replicate 8 {})).signalFaults = resetWith s.pending (Vector.replicate 8 {}) := by
    unfold signalFaults; rw [hgood]; rfl
  rw [resume_eq, resumed_beginReset hpins hsense, hnone]
  refine Eq.trans ?_ (spursStart_resetWith s.pending)
  exact congrArg State.spursStart ((congrArg State.periodsStart hfaults).trans hperiods)

end powerUp

/-- Settles O6: the resumed part is the reset state's tables; a power-up in a reset adds POWER, which loses configuration. -/
theorem powerUpThenEndIsReset : Obligations.PowerUpThenEndIsReset := by
  refine ⟨fun s hop hpins hsense => ?operating, fun s c h => ?joins⟩
  case operating =>
    refine ⟨s.beginReset powerCauses, congrArg _ (State.resetCause_operating hop _), ?_⟩
    rw [exec_resetEnd (State.beginReset_stopped s powerCauses).causes, State.resume_beginReset hpins hsense]
  case joins =>
    have hjoin := (resetBegins.2 s c h.causes).1
    have hstopped : ({ s with slp := { s.slp with inReset := some { c with power := true } } } : State).Stopped
        { c with power := true } :=
      { h with cleared := h.cleared.modSlp fun l => { l with inReset := some { c with power := true } }, causes := rfl }
    obtain ⟨u, hu, -, -, hcauses, hretained, hsending, -, hlost, -, -, hpending, -⟩ := resetEnds.1 _ _ hstopped
    have hret : u.slp.retained = false := by rw [hretained]; simp
    exact ⟨_, u, hjoin, hu, hlost hret, hpending, hcauses, hret, by rw [hsending, hret]⟩

end Sys2Proof.Machine
end


section
/-! PROOFS. The statements on the Haulage Controller (R117 to R135): stop reasons, aborts, release processing, junctions, and the
reads of a beacon. -/

namespace Sys2Proof.Machine

/-! ## Changes of a record that agree at the record they change -/

section congruence
variable {s : State}

theorem State.modTrip_congr {o : OutNo} {f g : Trip → Trip} (h : f (s.trips.get o) = g (s.trips.get o)) :
    s.modTrip o f = s.modTrip o g := by simp only [modTrip, h]

theorem State.modVehicle_congr {v : VehNo} {f g : Vehicle → Vehicle} (h : f (s.vehicles.get v) = g (s.vehicles.get v)) :
    s.modVehicle v f = s.modVehicle v g := by simp only [modVehicle, h]

theorem State.modJunction_congr {j : JuncNo} {f g : Junction → Junction} (h : f (s.junctions.get j) = g (s.junctions.get j)) :
    s.modJunction j f = s.modJunction j g := by simp only [modJunction, h]

theorem State.modVehicle_self {v : VehNo} {f : Vehicle → Vehicle} (h : f (s.vehicles.get v) = s.vehicles.get v) :
    s.modVehicle v f = s := by simp [modVehicle, h]

theorem State.modVehicle_modVehicle (s : State) (v : VehNo) (f g : Vehicle → Vehicle) :
    (s.modVehicle v f).modVehicle v g = s.modVehicle v fun x => g (f x) := by simp [modVehicle]

theorem State.withWaits_self {l : List WaitEntry} (h : l = s.waits) : ({ s with waits := l } : State) = s := by subst h; rfl

end congruence

/-! ## Stop sets and the wait list -/

theorem StopSet.isEmpty_iff (x : StopSet) : x.isEmpty = true ↔ x = {} := by
  obtain ⟨a, b, c⟩ := x; cases a <;> cases b <;> cases c <;> decide

theorem StopSet.isEmpty_put_true (x : StopSet) (r : StopReason) : (x.put r true).isEmpty = false := by
  cases r <;> simp [put, isEmpty]

theorem StopSet.has_empty (r : StopReason) : ({} : StopSet).has r = false := by cases r <;> rfl

theorem State.waitOf_eq_none {s : State} {v : VehNo} : s.waitOf v = none ↔ ∀ w ∈ s.waits, w.vehicle ≠ v := by
  simp [waitOf, List.find?_eq_none]

/-! ## Stop reasons (R128) -/

section reasons
variable (s : State) (v : VehNo) (r : StopReason)

/-- A vehicle with a reason added: stopped when it had none and is under way. -/
def Vehicle.withReason (r : StopReason) (x : Vehicle) : Vehicle :=
  { x with
    stop := x.stop.put r true
    state := if x.stop = {} ∧ x.state ≠ .unseen ∧ x.state ≠ .lost then .stopped else x.state }

/-- A vehicle with a reason removed: idle when it stood STOPPED for that reason alone. -/
def Vehicle.withoutReason (r : StopReason) (x : Vehicle) : Vehicle :=
  { x with
    stop := x.stop.put r false
    state := if x.stop.put r false = {} ∧ x.state = .stopped then .idle else x.state }

/-- A reason added, with its report. -/
def State.reasonAdded : State :=
  (s.modVehicle v (Vehicle.withReason r)).reportVehicle v (s.vehicles.get v).state .reasonAdded (some r)

variable {s v r}

theorem State.addReason_has (h : (s.vehicles.get v).stop.has r = true) : s.addReason v r = s := by simp [addReason, h]

theorem State.removeReason_hasNot (h : (s.vehicles.get v).stop.has r = false) : s.removeReason v r = s := by
  simp [removeReason, h]

theorem Vehicle.withReason_eq (x : Vehicle) (r : StopReason) :
    (let y : Vehicle := { x with stop := x.stop.put r true }; if x.stop.isEmpty then settled y else y) = x.withReason r := by
  unfold withReason settled
  by_cases hs : x.stop.isEmpty = true
  · have he := (StopSet.isEmpty_iff _).mp hs
    by_cases hu : x.state = .unseen ∨ x.state = .lost
    · have hn : ¬(x.state ≠ .unseen ∧ x.state ≠ .lost) := by tauto
      simp [he, hu, hn, StopSet.isEmpty]
    · have hn : x.state ≠ .unseen ∧ x.state ≠ .lost := by tauto
      have hp := StopSet.isEmpty_put_true {} r
      simp [he, hu, hn, hp]; simp [StopSet.isEmpty]
  · have he : x.stop ≠ {} := fun h => hs ((StopSet.isEmpty_iff _).mpr h)
    simp [hs, he]

theorem State.addReason_eq (h : (s.vehicles.get v).stop.has r = false) : s.addReason v r =
    if (s.vehicles.get v).stop.isEmpty then (s.reasonAdded v r).abortWhole v .stop else s.reasonAdded v r := by
  have hm : (s.modVehicle v fun y =>
      let y : Vehicle := { y with stop := y.stop.put r true }
      if (s.vehicles.get v).stop.isEmpty then settled y else y) = s.modVehicle v (Vehicle.withReason r) :=
    modVehicle_congr (Vehicle.withReason_eq _ _)
  unfold addReason reasonAdded; dsimp only at hm ⊢
  rw [hm, if_neg (by simp [h])]

theorem State.addReason_more (h : (s.vehicles.get v).stop.has r = false) (hs : (s.vehicles.get v).stop ≠ {}) :
    s.addReason v r = s.reasonAdded v r := by
  rw [addReason_eq h, if_neg fun he => hs ((StopSet.isEmpty_iff _).mp he)]

theorem State.addReason_first (hs : (s.vehicles.get v).stop = {}) :
    s.addReason v r = (s.reasonAdded v r).abortWhole v .stop := by
  rw [addReason_eq (hs ▸ StopSet.has_empty r), if_pos ((StopSet.isEmpty_iff _).mpr hs)]

theorem State.removeReason_has (h : (s.vehicles.get v).stop.has r = true) : s.removeReason v r =
    (s.modVehicle v (Vehicle.withoutReason r)).reportVehicle v (s.vehicles.get v).state .reasonRemoved (some r) := by
  unfold removeReason; dsimp only
  rw [if_pos h]
  refine congrArg (fun t : State => t.reportVehicle v _ _ _) (modVehicle_congr ?_)
  simp only [Vehicle.withoutReason, Bool.and_eq_true, StopSet.isEmpty_iff, beq_iff_eq]
  split
  · rfl
  · rfl

end reasons

/-! ## Aborts (R129) -/

section abort
variable {s : State} {v : VehNo} {cause : AbortCause}

/-- A vehicle that has given up what it held. -/
def Vehicle.released (x : Vehicle) : Vehicle :=
  { x with
    claim := none
    state := if x.state = .unseen ∨ x.state = .lost then x.state else if x.stop = {} then .idle else .stopped }

theorem settled_eq (x : Vehicle) : settled { x with claim := none } = x.released := by
  unfold settled Vehicle.released
  dsimp only
  split
  · rfl
  · simp only [StopSet.isEmpty_iff]

/-- The part after the first steps of an abort: the junctions without holder, the claim and the wait entry gone. -/
def State.givenUp (s : State) (v : VehNo) : State :=
  ({ (((s.vehicles.get v).claim.elim [] fun c => (heldLegs c.legs).map Leg.junction).foldl
      (fun t j => t.modJunction j dropHolder) s) with waits := s.waits.filter fun w => w.vehicle != v } : State).modVehicle v
    Vehicle.released

theorem State.forEach_modJunction (l : List JuncNo) (f : Junction → Junction) (s : State) :
    ∃ js, s.forEach l (fun t j => t.modJunction j f) = { s with junctions := js } := by
  induction l generalizing s with
  | nil => exact ⟨_, rfl⟩
  | cons j l ih => exact ih (s.modJunction j f)

theorem State.abort_eq (s : State) (v : VehNo) (cause : AbortCause) : s.abort v cause =
    (if (s.vehicles.get v).claim.isSome || (s.waitOf v).isSome then
      (s.givenUp v).reportAborted v cause (s.vehicles.get v).claim.isSome
        ((s.vehicles.get v).claim.elim [] fun c => (heldLegs c.legs).map Leg.junction)
    else s.givenUp v, (s.vehicles.get v).claim.elim [] fun c => (heldLegs c.legs).map Leg.junction) := by
  have hlist : ((s.vehicles.get v).claim.elim [] fun c => heldLegs c.legs).map (fun l => l.junction) =
      (s.vehicles.get v).claim.elim [] fun c => (heldLegs c.legs).map Leg.junction := by
    cases (s.vehicles.get v).claim <;> rfl
  unfold abort givenUp
  dsimp only
  rw [hlist]
  obtain ⟨js, hjs⟩ := forEach_modJunction ((s.vehicles.get v).claim.elim [] fun c => (heldLegs c.legs).map Leg.junction)
    dropHolder s
  unfold forEach at *
  rw [hjs]
  simp only [settled_eq]
  split <;> rfl

theorem State.abort_released (s : State) (v : VehNo) (cause : AbortCause) : (s.abort v cause).2 =
    (s.vehicles.get v).claim.elim [] fun c => (heldLegs c.legs).map Leg.junction := by rw [abort_eq]

theorem State.releaseAll_nil (s : State) : s.releaseAll [] = s := rfl

/-- Release processing with no walk pending at the junctions and nobody waiting. -/
theorem State.releaseAll_idle {l : List JuncNo} (hwalk : ∀ j ∈ l, (s.junctions.get j).walkPending = false)
    (hwaits : s.waits = []) : s.releaseAll l = s := by
  have hwalked : s.forEach l releaseWalk = s := by
    induction l with
    | nil => rfl
    | cons j l ih =>
      obtain ⟨hj, hl⟩ := List.forall_mem_cons.mp hwalk
      have : s.releaseWalk j = s := by simp [releaseWalk, hj]
      exact (congrArg (List.foldl releaseWalk · l) this).trans (ih hl)
  unfold releaseAll
  rw [hwalked]; dsimp only
  rw [hwaits]
  split <;> rfl

end abort

section requests
variable {s : State} {v : VehNo}

theorem State.withVehicle_configured (h : (s.vehicles.get v).configured = true) (f : VehNo → Answer) :
    s.withVehicle (number v) f = f v := by simp [withVehicle, h]

theorem State.withVehicle_unconfigured (h : (s.vehicles.get v).configured = false) (f : VehNo → Answer) :
    s.withVehicle (number v) f = s.refuse .notFound := by simp [withVehicle, h]

theorem exec_stopVehicle (hs : s.Ready) (tag : Byte) (h : (s.vehicles.get v).configured = true) :
    exec (.stopVehicle tag (number v)) s = .next ((s.addReason v .host).answered tag [0x19, 0x00]) :=
  exec_accepted hs (r := .stopVehicle (number v)) rfl (State.withVehicle_configured h _)

theorem exec_releaseVehicle (hs : s.Ready) (tag : Byte) (h : (s.vehicles.get v).configured = true) :
    exec (.releaseVehicle tag (number v)) s = .next ((s.removeReason v .host).answered tag [0x1A, 0x00]) :=
  exec_accepted hs (r := .releaseVehicle (number v)) rfl (State.withVehicle_configured h _)

/-- A vehicle that holds nothing gives nothing up. -/
theorem State.abort_nothing {cause : AbortCause} (hclaim : (s.vehicles.get v).claim = none)
    (hwait : ∀ w ∈ s.waits, w.vehicle ≠ v) (hrel : (s.vehicles.get v).released = s.vehicles.get v) :
    s.abort v cause = (s, []) := by
  have hw : s.waitOf v = none := State.waitOf_eq_none.mpr hwait
  have hfilter : (s.waits.filter fun w => w.vehicle != v) = s.waits :=
    List.filter_eq_self.mpr fun w hm => by simpa using hwait w hm
  have hgiven : s.givenUp v = s := by
    unfold givenUp; rw [hclaim]
    dsimp only [Option.elim, List.foldl]
    rw [withWaits_self hfilter, modVehicle_self hrel]
  rw [abort_eq, hclaim, hw, hgiven]; rfl

theorem State.abortWhole_nothing {cause : AbortCause} (hclaim : (s.vehicles.get v).claim = none)
    (hwait : ∀ w ∈ s.waits, w.vehicle ≠ v) (hrel : (s.vehicles.get v).released = s.vehicles.get v) :
    s.abortWhole v cause = s := by
  unfold abortWhole; rw [abort_nothing hclaim hwait hrel]; rfl

theorem Vehicle.withReason_stop_ne (x : Vehicle) (r : StopReason) : (x.withReason r).stop ≠ {} := fun h => by
  have hp := StopSet.isEmpty_put_true x.stop r
  rw [(StopSet.isEmpty_iff (x.stop.put r true)).mpr h] at hp
  cases hp

/-- A vehicle stopped by its first reason keeps its state in the abort that follows. -/
theorem Vehicle.released_withReason {x : Vehicle} {r : StopReason} (hs : x.stop = {}) :
    (x.withReason r).released = { x.withReason r with claim := none } := by
  have hstate : (if (x.withReason r).state = .unseen ∨ (x.withReason r).state = .lost then (x.withReason r).state
      else if (x.withReason r).stop = {} then .idle else .stopped) = (x.withReason r).state := by
    rw [if_neg (x.withReason_stop_ne r)]
    by_cases hu : x.state = .unseen ∨ x.state = .lost
    · have : (x.withReason r).state = x.state := if_neg (by tauto)
      rw [this, if_pos hu]
    · have : (x.withReason r).state = .stopped := if_pos (by tauto)
      rw [this]; rfl
  unfold released; rw [hstate]

theorem State.reasonAdded_vehicle (s : State) (v : VehNo) (r : StopReason) :
    (s.reasonAdded v r).vehicles.get v = (s.vehicles.get v).withReason r := by simp [reasonAdded, reportVehicle]

/-- The abort of a claim of one held leg, with nobody waiting and no walk pending there. -/
theorem State.abortWhole_single {cause : AbortCause} {c : Claim} {l : Leg} (hc : (s.vehicles.get v).claim = some c)
    (hl : c.legs = [l]) (hcl : l.cleared = false) (hw : s.waits = [])
    (hp : (s.junctions.get l.junction).walkPending = false) : s.abortWhole v cause =
      (((s.modJunction l.junction dropHolder).modVehicle v Vehicle.released).reportAborted v cause true [l.junction]) := by
  have hheld : (heldLegs c.legs).map Leg.junction = [l.junction] := by simp [hl, heldLegs, hcl]
  have hgiven : s.givenUp v = (s.modJunction l.junction dropHolder).modVehicle v Vehicle.released := by
    unfold givenUp; rw [hc]
    dsimp only [Option.elim]
    rw [hheld, hw]
    exact congrArg (fun t : State => t.modVehicle v Vehicle.released) (withWaits_self hw.symm)
  unfold abortWhole
  rw [abort_eq, hc]
  simp only [Option.elim, Option.isSome_some, Bool.true_or, if_true]
  rw [hheld, hgiven]
  refine releaseAll_idle (fun j hj => ?_) hw
  rw [List.mem_singleton.mp hj]
  simpa [reportAborted, dropHolder] using hp

end requests

/-- Settles O47: the reasons by `addReason_eq` and `removeReason_has`, the abort by `abort_eq`. -/
theorem stopAndReleaseVehicle : Obligations.StopAndReleaseVehicle := by
  refine ⟨fun s v r => ?reasons, fun s v cause => ?abort, fun s tag hs => ⟨fun k hk => ?outside, fun v => ?requests⟩⟩
  case reasons =>
    intro x added
    have hadded : added = s.reasonAdded v r :=
      congrArg (fun t : State => t.reportVehicle v x.state .reasonAdded (some r)) (State.modVehicle_congr rfl)
    rw [hadded]
    exact ⟨State.addReason_has, fun h => ⟨State.removeReason_hasNot h, State.addReason_more h, State.addReason_first⟩,
      State.removeReason_has⟩
  case abort =>
    intro x released freed gone nothing
    have hgone : gone = s.givenUp v := rfl
    have habort := s.abort_eq v cause
    have hcond : nothing ↔ ¬((x.claim.isSome || (s.waitOf v).isSome) = true) := by
      simp [nothing, ← State.waitOf_eq_none]
    refine ⟨fun h => ?_, fun h => ?_, rfl⟩
    · rw [habort, if_neg (hcond.mp h), hgone, h.1]; rfl
    · rw [habort, if_pos (by_contra fun hn => h (hcond.mpr hn)), hgone]; rfl
  case outside =>
    have hnone := index?_eq_none.mpr hk
    exact ⟨exec_refused hs (r := .stopVehicle k) (x := .badValue) rfl (by simp [State.handle, State.doStopVehicle, State.withVehicle, hnone]),
      exec_refused hs (r := .releaseVehicle k) (x := .badValue) rfl (by
        simp [State.handle, State.doReleaseVehicle, State.withVehicle, hnone])⟩
  case requests =>
    intro x stop release stopped
    refine ⟨fun h => ?unconfigured, fun h => ?configured⟩
    case unconfigured =>
      exact ⟨exec_refused hs (r := .stopVehicle (number v)) (x := .notFound) rfl (State.withVehicle_unconfigured h _),
        exec_refused hs (r := .releaseVehicle (number v)) (x := .notFound) rfl (State.withVehicle_unconfigured h _)⟩
    case configured =>
      have hstop := exec_stopVehicle hs tag h
      have hrelease := exec_releaseVehicle hs tag h
      have hstopped (he : x.stop = {}) : s.reasonAdded v .host = stopped := by
        refine congrArg (fun t : State => t.reportVehicle v x.state .reasonAdded (some .host)) (State.modVehicle_congr ?_)
        simp only [Vehicle.withReason, x] at he ⊢
        rw [he]
        by_cases hu : (s.vehicles.get v).state = .unseen ∨ (s.vehicles.get v).state = .lost
        · rw [if_pos hu, if_neg (by tauto)]; rfl
        · rw [if_neg hu, if_pos (by tauto)]; rfl
      refine ⟨fun hh => ?_, fun hh => ?_, fun hh hother => ?_, fun he => ⟨?_, fun hc hw => ?_, fun c l hc hl hcl hw hp => ?_⟩,
        fun hh => ?_⟩
      · rw [hstop, State.addReason_has (v := v) (r := .host) hh]
      · rw [hrelease, State.removeReason_hasNot (v := v) (r := .host) hh]
      · have hne : x.stop ≠ {} := fun he => by rcases hother with ht | ht <;> rw [he] at ht <;> cases ht
        rw [hstop, State.addReason_more (v := v) (r := .host) hh hne]
        refine congrArg (fun t : State => Host.Outcome.next ((t.reportVehicle v x.state .reasonAdded (some .host)).answered tag
          [0x19, 0x00])) (State.modVehicle_congr ?_)
        simp only [Vehicle.withReason, StopSet.put]
        rw [if_neg fun hc => hne hc.1]
      · rw [hstop, State.addReason_first he, hstopped he]
      · rw [hstop, State.addReason_first he, ← hstopped he]
        refine congrArg (fun t : State => Host.Outcome.next (t.answered tag [0x19, 0x00]))
          (State.abortWhole_nothing ?_ hw ?_)
        · rw [State.reasonAdded_vehicle]; exact hc
        · rw [State.reasonAdded_vehicle, Vehicle.released_withReason he]
          exact congrArg (fun c => { (s.vehicles.get v).withReason .host with claim := c }) hc.symm
      · rw [hstop, State.addReason_first he, ← hstopped he,
          State.abortWhole_single ((congrArg Vehicle.claim (s.reasonAdded_vehicle v .host)).trans hc) hl hcl hw hp]
        refine congrArg (fun t : State => Host.Outcome.next ((t.reportAborted v .stop true [l.junction]).answered tag
          [0x19, 0x00])) (State.modVehicle_congr ?_)
        have hget : ((s.reasonAdded v .host).modJunction l.junction dropHolder).vehicles.get v =
            (s.vehicles.get v).withReason .host := s.reasonAdded_vehicle v .host
        rw [hget, Vehicle.released_withReason he]
      · rw [hrelease, State.removeReason_has (v := v) (r := .host) hh]
        refine congrArg (fun t : State => Host.Outcome.next ((t.reportVehicle v x.state .reasonRemoved (some .host)).answered tag
          [0x1A, 0x00])) (State.modVehicle_congr ?_)
        have hput : x.stop.put .host false = {} ↔ x.stop.trip = false ∧ x.stop.evacuation = false := by
          simp [StopSet.put]
        simp only [Vehicle.withoutReason, hput, x, and_assoc]; rfl

/-! ## Operands in range -/

theorem index?_range {n k : Nat} {i : Fin n} (h : index? n k = some i) : 1 ≤ k ∧ k ≤ n := by
  by_contra hk
  rw [index?_eq_none.mpr (by omega : k = 0 ∨ n < k)] at h; cases h

theorem optIndex?_range {n k : Nat} {i : Option (Fin n)} (h : optIndex? n k = some i) : k ≤ n := by
  by_contra hk
  rw [optIndex?_eq_none.mpr (by omega : n < k)] at h; cases h

theorem devRef?_range {p a : Nat} {r : DevRef} (h : devRef? p a = some r) : (1 ≤ p ∧ p ≤ 8) ∧ 1 ≤ a ∧ a ≤ 31 := by
  simp only [devRef?, Option.bind_eq_bind, Option.bind_eq_some_iff] at h
  obtain ⟨i, hi, j, hj, -⟩ := h
  exact ⟨index?_range hi, index?_range hj⟩

theorem named_range {α : Type} {l : List α} {k : Nat} {a : α} (h : l[k]? = some a) : k < l.length :=
  (List.getElem?_eq_some_iff.mp h).1

theorem configuredStates_get (b : Bool) : configuredStates[if b then 0 else 1]? = some b := by cases b <;> rfl

/-! ## SET_JUNCTION (R120) -/

section setJunction
variable {s : State}

theorem junctionWritten?_range {f : JunctionFields} {x : JuncNo × Junction} (h : junctionWritten? f = some x) :
    (1 ≤ f.junction ∧ f.junction ≤ 24) ∧ f.state < 2 ∧ (1 ≤ f.zone ∧ f.zone ≤ 16) ∧
      ((1 ≤ f.spur ∧ f.spur ≤ 8) ∧ 1 ≤ f.address ∧ f.address ≤ 31) ∧ 2 ≤ f.branches ∧ f.branches ≤ 4 ∧ 5 ≤ f.walk ∧
      f.walk ≤ 60 := by
  simp only [junctionWritten?, Option.bind_eq_bind, Option.bind_eq_some_iff, Option.ite_none_right_eq_some] at h
  obtain ⟨j, hj, b, hb, z, hz, r, hr, hfits, -⟩ := h
  exact ⟨index?_range hj, named_range hb, index?_range hz, devRef?_range hr, hfits⟩

theorem junctionWritten?_numbers (j : JuncNo) (cfg : Bool) (z : ZoneNo) (r : DevRef) (branches walk : Nat) :
    junctionWritten? ⟨number j, if cfg then 0 else 1, number z, number r.spur, number r.addr, branches, walk⟩ =
      if (2 ≤ branches ∧ branches ≤ 4) ∧ 5 ≤ walk ∧ walk ≤ 60 then
        some (j, { configured := cfg, zone := some z, beacon := some r, branches := branches, walk := walk })
      else none := by
  simp [junctionWritten?, configuredStates_get, and_assoc]

theorem State.junctionInUse_iff {j : JuncNo} : s.junctionInUse j = true ↔
    (s.junctions.get j).holder ≠ .none ∨ (s.junctions.get j).walkPending = true ∨
      (∃ v c l, (s.vehicles.get v).claim = some c ∧ l ∈ c.legs ∧ l.junction = j) ∨
      ∃ w ∈ s.waits, ∃ l ∈ w.legs, l.junction = j := by
  simp [junctionInUse, allOf, Option.any_eq_true, or_assoc]

theorem State.deviceOfKind_eq_some {k : DeviceKind} {r : DevRef} {e : EntryNo} :
    s.deviceOfKind k r = some e ↔ s.deviceAt r = some e ∧ (s.devices.get e).kind = k := by
  simp [deviceOfKind, Option.filter_eq_some_iff]

theorem State.deviceOfKind_eq_none {k : DeviceKind} {r : DevRef} :
    s.deviceOfKind k r = none ↔ ¬∃ e, s.deviceAt r = some e ∧ (s.devices.get e).kind = k := by
  simp [Option.eq_none_iff_forall_ne_some, deviceOfKind_eq_some]

theorem State.beaconTaken_iff {j : JuncNo} {r : DevRef} : s.beaconTaken j (some r) = true ↔
    ∃ k : JuncNo, k ≠ j ∧ (s.junctions.get k).configured = true ∧ (s.junctions.get k).beacon = some r := by
  simp [beaconTaken, allOf, and_assoc]

/-- The record of a junction written CONFIGURED whose beacon is a device. -/
theorem State.junctionAfter_configured {z : ZoneNo} {r : DevRef} {branches walk : Nat} {e : EntryNo}
    (he : s.deviceOfKind .beacon r = some e) :
    s.junctionAfter { configured := true, zone := some z, beacon := some r, branches := branches, walk := walk } =
      { configured := true, zone := some z, beacon := some r, branches := branches, walk := walk
        state := if (s.devices.get e).state = .online then .inService else .failed
        fresh := (s.devices.get e).state != .online
        holder := if (s.zones.get z).evac = .none then .none else .evacuation } := by
  have hon : s.deviceOnline .beacon (some r) = ((s.devices.get e).state == .online) := by simp [deviceOnline, he]
  have hstate : (if ((s.devices.get e).state == .online) = true then JunctionState.inService else .failed) =
      if (s.devices.get e).state = .online then .inService else .failed := by simp only [beq_iff_eq]
  unfold junctionAfter
  rw [hon]
  dsimp only
  rw [hstate]
  by_cases hevac : (s.zones.get z).evac = .none
  · simp [evacuating, hevac, bne]
  · simp [evacuating, hevac, evacHolder, endWalk, bne]

end setJunction

/-- Settles O49. -/
theorem setJunction : Obligations.SetJunction := by
  refine ⟨fun s tag f hs hbad => ?outside, fun s tag j cfg z r branches walk hs => ?checked⟩
  case outside =>
    have hnone : junctionWritten? f = none := Option.eq_none_iff_forall_ne_some.mpr fun x hx => by
      have := junctionWritten?_range hx; omega
    exact exec_refused hs (r := .setJunction f) (x := .badValue) rfl (by simp [State.handle, State.doSetJunction, hnone])
  case checked =>
    intro old i fits used missing taken base
    have hwritten := junctionWritten?_numbers j cfg z r branches walk
    have hmissing : ((some z : Option ZoneNo).any (fun z => !(s.zones.get z).configured) ||
        ((some r).bind (s.deviceOfKind .beacon)).isNone) = true ↔ missing := by
      simp [missing, State.deviceOfKind_eq_none]
    have hbase (h : cfg = false) : s.junctionAfter base = base := by simp [State.junctionAfter, base, h]
    have refused {x : Status} (hx : s.doSetJunction ⟨number j, if cfg then 0 else 1, number z, number r.spur, number r.addr,
        branches, walk⟩ = s.refuse x) : exec i s = .next (s.answered tag [0x18, statusByte x]) :=
      exec_refused hs (r := .setJunction _) rfl hx
    have accepted {t : State} (hx : s.doSetJunction ⟨number j, if cfg then 0 else 1, number z, number r.spur, number r.addr,
        branches, walk⟩ = t.accept) : exec i s = .next (t.answered tag [0x18, 0x00]) :=
      exec_accepted hs (r := .setJunction _) rfl hx
    refine ⟨fun hf => refused (x := .badValue) ?_, fun hf hu => refused (x := .busy) ?_, fun hf hu hc => accepted ?_,
      fun hf hu hc hm => refused (x := .notFound) ?_, fun hf hu hc hm ht => refused (x := .badValue) ?_,
      fun hf hu hc hm ht e he => accepted ?_⟩
    all_goals unfold State.doSetJunction; rw [hwritten]
    · rw [if_neg hf]
    all_goals rw [if_pos hf]; dsimp only
    · rw [if_pos (State.junctionInUse_iff.mpr hu)]
    all_goals rw [if_neg (fun h => hu (State.junctionInUse_iff.mp h))]
    · rw [if_pos hc, hbase hc]
    all_goals rw [if_neg (by simp [hc])]
    · rw [if_pos (hmissing.mpr hm)]
    all_goals rw [if_neg (fun h => hm (hmissing.mp h))]
    · rw [if_pos (State.beaconTaken_iff.mpr ht)]
    rw [if_neg (fun h => ht (State.beaconTaken_iff.mp h)), hc]
    have hkind : s.deviceOfKind .beacon r = some e := by
      refine State.deviceOfKind_eq_some.mpr ⟨he, ?_⟩
      obtain ⟨e', he', hk⟩ := not_not.mp fun h => hm (.inr h)
      rw [he] at he'; cases he'; exact hk
    rw [State.junctionAfter_configured hkind]
    simp only [base, hc]

/-! ## What the Haulage Controller leaves unchanged -/

section offRoad
variable {s : State}

/-- The part but for the vehicles, the junctions, the route wait list and the report queue. -/
def State.offRoad (s : State) : State :=
  { s with
    vehicles := Vector.replicate 12 {}, junctions := Vector.replicate 24 {}, waits := []
    slp := { s.slp with queue := [], marker := .none } }

theorem State.forEach_keeps {α β : Type} (k : State → β) {f : State → α → State} (h : ∀ t a, k (f t a) = k t) (l : List α)
    (s : State) : k (s.forEach l f) = k s := by
  induction l generalizing s with
  | nil => rfl
  | cons a l ih => exact (ih (f s a)).trans (h s a)

@[simp] theorem State.grant_offRoad (s : State) (v : VehNo) (legs : List Leg) : (s.grant v legs).offRoad = s.offRoad := by
  have h := forEach_keeps offRoad (f := fun t l => t.modJunction l.junction (claimHolder v l)) (fun _ _ => rfl) legs
    { s with waits := s.waits.filter fun w => w.vehicle != v }
  exact h

@[simp] theorem State.releaseWalk_offRoad (s : State) (j : JuncNo) : (s.releaseWalk j).offRoad = s.offRoad := by
  unfold releaseWalk; dsimp only; split <;> rfl

@[simp] theorem State.scanEntry_offRoad (s : State) (w : WaitEntry) : (s.scanEntry w).offRoad = s.offRoad := by
  unfold scanEntry; split
  · exact grant_offRoad ..
  · rfl

@[simp] theorem State.releaseAll_offRoad (s : State) (l : List JuncNo) : (s.releaseAll l).offRoad = s.offRoad := by
  unfold releaseAll; split
  · rfl
  · exact (forEach_keeps offRoad scanEntry_offRoad _ _).trans (forEach_keeps offRoad releaseWalk_offRoad _ _)

@[simp] theorem State.givenUp_offRoad (s : State) (v : VehNo) : (s.givenUp v).offRoad = s.offRoad :=
  forEach_keeps offRoad (f := fun t j => t.modJunction j dropHolder) (fun _ _ => rfl) _ s

@[simp] theorem State.abort_offRoad (s : State) (v : VehNo) (c : AbortCause) : (s.abort v c).1.offRoad = s.offRoad := by
  rw [abort_eq]; dsimp only; split <;> exact givenUp_offRoad s v

@[simp] theorem State.abortWhole_offRoad (s : State) (v : VehNo) (c : AbortCause) :
    (s.abortWhole v c).offRoad = s.offRoad := (releaseAll_offRoad ..).trans (abort_offRoad ..)

@[simp] theorem State.addReason_offRoad (s : State) (v : VehNo) (r : StopReason) : (s.addReason v r).offRoad = s.offRoad := by
  by_cases h : (s.vehicles.get v).stop.has r = true
  · rw [addReason_has h]
  · rw [addReason_eq (by simpa using h)]; split
    · exact abortWhole_offRoad ..
    · rfl

@[simp] theorem State.removeReason_offRoad (s : State) (v : VehNo) (r : StopReason) :
    (s.removeReason v r).offRoad = s.offRoad := by
  by_cases h : (s.vehicles.get v).stop.has r = true
  · rw [removeReason_has h]; rfl
  · rw [removeReason_hasNot (by simpa using h)]

@[simp] theorem State.hlcPowerView_offRoad (s : State) (z : ZoneNo) (p n : Option TripState) :
    (s.hlcPowerView z p n).offRoad = s.offRoad := by
  unfold hlcPowerView; dsimp only
  split
  · exact forEach_keeps offRoad (fun t v => addReason_offRoad t v .trip) _ _
  · split
    · exact forEach_keeps offRoad (fun t v => removeReason_offRoad t v .trip) _ _
    · rfl

end offRoad

/-! ## What stays of a junction and of a stop set -/

section keeps
variable {s : State}

theorem State.junctionsOf_of_standing {t : State} (h : t.standing = s.standing) (z : ZoneNo) :
    t.junctionsOf z = s.junctionsOf z := by
  have hj : ∀ j, (t.junctions.get j).afterReset = (s.junctions.get j).afterReset := fun j => by
    have := congrArg (fun x : Standing => x.configuration.junctions.get j) h
    simpa only [standing, configuration, get_map_entry] using this
  have hfields : ∀ j, (t.junctions.get j).configured = (s.junctions.get j).configured ∧
      (t.junctions.get j).zone = (s.junctions.get j).zone := fun j => by
    obtain ⟨hc, hz, -⟩ := (Junction.afterReset_eq _ _).mp (hj j)
    exact ⟨hc, hz⟩
  unfold junctionsOf
  simp only [hfields]

/-- A grant leaves every junction with a holder as it was. -/
theorem State.grant_keeps {v : VehNo} {legs : List Leg} {j : JuncNo} (hfree : s.allFree legs = true)
    (h : (s.junctions.get j).holder ≠ .none) : (s.grant v legs).junctions.get j = s.junctions.get j := by
  have hne : ∀ l ∈ legs, l.junction ≠ j := fun l hl he => by
    have := (List.all_eq_true.mp hfree) l hl
    simp only [Junction.isFree, he, Bool.and_eq_true, beq_iff_eq] at this
    exact h this.1.2
  have hfold : ∀ (legs : List Leg) (t : State), (∀ l ∈ legs, l.junction ≠ j) →
      (t.forEach legs fun t l => t.modJunction l.junction (claimHolder v l)).junctions.get j = t.junctions.get j := by
    intro legs
    induction legs with
    | nil => exact fun _ _ => rfl
    | cons l legs ih =>
      intro t ht
      obtain ⟨hl, hrest⟩ := List.forall_mem_cons.mp ht
      exact (ih _ hrest).trans (by simp [hl])
  exact hfold legs _ hne

theorem State.scanEntry_keeps {w : WaitEntry} {j : JuncNo} (h : (s.junctions.get j).holder ≠ .none) :
    (s.scanEntry w).junctions.get j = s.junctions.get j := by
  unfold scanEntry; split
  · next hf => exact grant_keeps hf h
  · rfl

theorem State.releaseWalk_keeps {i j : JuncNo} (h : (s.junctions.get j).holder ≠ .none) :
    (s.releaseWalk i).junctions.get j = s.junctions.get j := by
  unfold releaseWalk; dsimp only; split
  · next hi =>
    have hij : i ≠ j := fun e => h (e ▸ hi.2.1)
    simp [hij]
  · rfl

/-- Release processing leaves every junction with a holder as it was. -/
theorem State.releaseAll_keeps {l : List JuncNo} {j : JuncNo} (h : (s.junctions.get j).holder ≠ .none) :
    (s.releaseAll l).junctions.get j = s.junctions.get j := by
  have hwalk : ∀ (l : List JuncNo) (t : State), (t.junctions.get j).holder ≠ .none →
      (t.forEach l releaseWalk).junctions.get j = t.junctions.get j := by
    intro l
    induction l with
    | nil => exact fun _ _ => rfl
    | cons i l ih =>
      intro t ht
      have hi := releaseWalk_keeps (i := i) ht
      exact (ih _ (hi ▸ ht)).trans hi
  have hscan : ∀ (l : List WaitEntry) (t : State), (t.junctions.get j).holder ≠ .none →
      (t.forEach l scanEntry).junctions.get j = t.junctions.get j := by
    intro l
    induction l with
    | nil => exact fun _ _ => rfl
    | cons w l ih =>
      intro t ht
      have hw := scanEntry_keeps (w := w) ht
      exact (ih _ (hw ▸ ht)).trans hw
  unfold releaseAll; split
  · rfl
  · exact (hscan _ _ (by rw [hwalk l s h]; exact h)).trans (hwalk l s h)

/-- Neither grants, releases nor aborts touch a stop set. -/
theorem State.grant_stop (s : State) (v : VehNo) (legs : List Leg) (w : VehNo) :
    ((s.grant v legs).vehicles.get w).stop = (s.vehicles.get w).stop := by
  have hfold : (({ s with waits := s.waits.filter fun w => w.vehicle != v } : State).forEach legs fun t l =>
      t.modJunction l.junction (claimHolder v l)).vehicles = s.vehicles :=
    forEach_keeps State.vehicles (f := fun t l => t.modJunction l.junction (claimHolder v l)) (fun _ _ => rfl) _ _
  unfold grant; dsimp only
  by_cases h : v = w
  · subst h; simp [hfold]
  · simp [hfold, h]

theorem State.releaseAll_stop (s : State) (l : List JuncNo) (w : VehNo) :
    ((s.releaseAll l).vehicles.get w).stop = (s.vehicles.get w).stop := by
  have hscan : ∀ (t : State) (e : WaitEntry), ((t.scanEntry e).vehicles.get w).stop = (t.vehicles.get w).stop := fun t e => by
    unfold scanEntry; split
    · exact grant_stop ..
    · rfl
  have hwalk : ∀ (t : State) (j : JuncNo), ((t.releaseWalk j).vehicles.get w).stop = (t.vehicles.get w).stop := fun t j => by
    unfold releaseWalk; dsimp only; split <;> rfl
  unfold releaseAll; split
  · rfl
  · exact (forEach_keeps (fun t => (t.vehicles.get w).stop) hscan _ _).trans
      (forEach_keeps (fun t => (t.vehicles.get w).stop) hwalk _ _)

theorem State.abort_stop (s : State) (v : VehNo) (c : AbortCause) (w : VehNo) :
    ((s.abort v c).1.vehicles.get w).stop = (s.vehicles.get w).stop := by
  have hgiven : ((s.givenUp v).vehicles.get w).stop = (s.vehicles.get w).stop := by
    have hfold : ∀ l : List JuncNo, (l.foldl (fun (t : State) j => t.modJunction j dropHolder) s).vehicles = s.vehicles :=
      fun l => forEach_keeps State.vehicles (f := fun t j => t.modJunction j dropHolder) (fun _ _ => rfl) l s
    unfold givenUp
    by_cases h : v = w
    · subst h; simp [hfold, Vehicle.released]
    · simp [hfold, h]
  rw [abort_eq]; dsimp only; split <;> exact hgiven

theorem State.abortWhole_stop (s : State) (v : VehNo) (c : AbortCause) (w : VehNo) :
    ((s.abortWhole v c).vehicles.get w).stop = (s.vehicles.get w).stop :=
  (releaseAll_stop ..).trans (abort_stop ..)

theorem State.addReason_stop_self (s : State) (v : VehNo) (r : StopReason) :
    ((s.addReason v r).vehicles.get v).stop.has r = true := by
  have hput : ∀ x : StopSet, (x.put r true).has r = true := fun x => by cases r <;> rfl
  by_cases h : (s.vehicles.get v).stop.has r = true
  · rwa [addReason_has h]
  · rw [addReason_eq (by simpa using h)]
    split
    · rw [abortWhole_stop, reasonAdded_vehicle]; exact hput _
    · rw [reasonAdded_vehicle]; exact hput _

/-- A reason added to one vehicle takes none from another. -/
theorem State.addReason_stop (s : State) (v w : VehNo) (r q : StopReason) (h : (s.vehicles.get w).stop.has q = true) :
    ((s.addReason v r).vehicles.get w).stop.has q = true := by
  have hput : ∀ x : StopSet, x.has q = true → (x.put r true).has q = true := fun x hx => by
    cases r <;> cases q <;> first | rfl | exact hx
  have hadd : ((s.reasonAdded v r).vehicles.get w).stop.has q = true := by
    by_cases hv : v = w
    · subst hv; rw [reasonAdded_vehicle]; exact hput _ h
    · simpa [reasonAdded, reportVehicle, hv] using h
  by_cases hr : (s.vehicles.get v).stop.has r = true
  · rwa [addReason_has hr]
  · rw [addReason_eq (by simpa using hr)]
    split
    · rwa [abortWhole_stop]
    · exact hadd

theorem State.addReasons_stop {l : List VehNo} {r : StopReason} (s : State) :
    ∀ v, v ∈ l ∨ (s.vehicles.get v).stop.has r = true →
      ((s.forEach l fun t v => t.addReason v r).vehicles.get v).stop.has r = true := by
  induction l generalizing s with
  | nil => exact fun v h => h.resolve_left (by simp)
  | cons w l ih =>
    refine fun v h => ih (s.addReason w r) v ?_
    rcases h with h | h
    · rcases List.mem_cons.mp h with rfl | h
      · exact .inr (addReason_stop_self ..)
      · exact .inl h
    · exact .inr (addReason_stop _ _ _ _ _ h)

theorem State.removeReason_frame (s : State) (v : VehNo) (r : StopReason) : ∃ x q m, s.removeReason v r =
    { s with vehicles := s.vehicles.set v x, slp := { s.slp with queue := q, marker := m } } ∧ x.stop.has r = false ∧
      ∀ q, (s.vehicles.get v).stop.has q = false → x.stop.has q = false := by
  by_cases h : (s.vehicles.get v).stop.has r = true
  · refine ⟨_, _, _, removeReason_has h, ?_, fun q hq => ?_⟩
    · cases r <;> rfl
    · cases r <;> cases q <;> first | rfl | exact hq
  · exact ⟨s.vehicles.get v, _, _, (removeReason_hasNot (by simpa using h)).trans (by rw [set_get_self]), by simpa using h,
      fun q hq => hq⟩

theorem State.removeReasons_frame {l : List VehNo} {r : StopReason} (s : State) : ∃ vs q m,
    (s.forEach l fun t v => t.removeReason v r) =
      { s with vehicles := vs, slp := { s.slp with queue := q, marker := m } } ∧
      ∀ v, v ∈ l ∨ (s.vehicles.get v).stop.has r = false → (vs.get v).stop.has r = false := by
  induction l generalizing s with
  | nil => exact ⟨_, _, _, rfl, fun v h => h.resolve_left (by simp)⟩
  | cons w l ih =>
    obtain ⟨x, q, m, he, hx, hother⟩ := s.removeReason_frame w r
    obtain ⟨vs, q', m', hl, hall⟩ := ih (s.removeReason w r)
    refine ⟨vs, q', m', hl.trans (by rw [he]), fun v h => hall v ?_⟩
    rw [he]
    by_cases hv : w = v
    · subst hv; exact .inr (by simpa using hx)
    · rcases h with h | h
      · exact .inl ((List.mem_cons.mp h).resolve_left (Ne.symm hv))
      · exact .inr (by simpa [hv] using h)

end keeps

/-! ## Evacuation holds (R131) -/

section holds
variable {s : State} {z : ZoneNo}

/-- A junction held by an evacuation. -/
theorem evacHolder_eq (y : Junction) :
    evacHolder y = { y with holder := .evacuation, go := none, walkPending := false, walkAt := none } := by
  unfold evacHolder endWalk; split <;> rfl

theorem State.forEach_modJunction_get {f : Junction → Junction} (hf : ∀ y, f (f y) = f y) (l : List JuncNo) (s : State)
    (j : JuncNo) : ((s.forEach l fun t j => t.modJunction j f).junctions.get j) =
      if j ∈ l then f (s.junctions.get j) else s.junctions.get j := by
  induction l generalizing s with
  | nil => rfl
  | cons i l ih =>
    refine (ih (s.modJunction i f)).trans ?_
    by_cases hi : i = j
    · subst hi; simp [hf]
    · simp [hi, Ne.symm hi]

/-- An abort repeated gives nothing up. -/
theorem State.abort_abort (s : State) (v : VehNo) (c : AbortCause) :
    (s.abort v c).1.abort v c = ((s.abort v c).1, []) := by
  have hfold : ∀ l : List JuncNo, (l.foldl (fun (t : State) j => t.modJunction j dropHolder) s).vehicles = s.vehicles :=
    fun l => forEach_keeps State.vehicles (f := fun t j => t.modJunction j dropHolder) (fun _ _ => rfl) l s
  have hvehicle : (s.abort v c).1.vehicles.get v = (s.vehicles.get v).released := by
    have hgiven : (s.givenUp v).vehicles.get v = (s.vehicles.get v).released := by unfold givenUp; simp [hfold]
    rw [abort_eq]; dsimp only; split <;> exact hgiven
  have hwaits : (s.abort v c).1.waits = s.waits.filter fun w => w.vehicle != v := by
    rw [abort_eq]; dsimp only; split <;> rfl
  refine abort_nothing (by rw [hvehicle]; rfl) (fun w hw => ?_) ?_
  · rw [hwaits, List.mem_filter] at hw
    simpa using hw.2
  · rw [hvehicle]
    unfold Vehicle.released
    dsimp only
    by_cases hu : (s.vehicles.get v).state = .unseen ∨ (s.vehicles.get v).state = .lost
    · simp [hu]
    · by_cases he : (s.vehicles.get v).stop = {} <;> simp [hu, he]

/-- The part with every CONFIGURED junction of a zone held by its evacuation. -/
def State.evacuationHeld (t : State) (s : State) (z : ZoneNo) : State :=
  (s.junctionsOf z).foldl (fun u j => u.modJunction j evacHolder) t

theorem State.addReasons_standing (s : State) (l : List VehNo) (r : StopReason) :
    (s.forEach l fun t v => t.addReason v r).standing = s.standing := forEach_standing _ fun t v => by simp

theorem State.abortForEvacuations_standing (l : List JuncNo) (acc : State × List JuncNo) :
    (l.foldl abortForEvacuation acc).1.standing = acc.1.standing := by
  induction l generalizing acc with
  | nil => rfl
  | cons j l ih => exact (ih _).trans abortForEvacuation_standing

/-- `hlcEvacuate` with its parts named. -/
theorem State.hlcEvacuate_eq (s : State) (z : ZoneNo) {acc : State × List JuncNo}
    (hacc : (s.junctionsOf z).foldl abortForEvacuation
      ((s.forEach (s.zones.get z).vehicles fun t v => t.addReason v .evacuation), []) = acc) :
    s.hlcEvacuate z = (acc.1.evacuationHeld s z).releaseAll (acc.2.filter fun j => (s.junctions.get j).zone != some z) := by
  have h1 := junctionsOf_of_standing (addReasons_standing s (s.zones.get z).vehicles .evacuation) z
  have hstanding : acc.1.standing = s.standing := by
    rw [← hacc, abortForEvacuations_standing]; exact addReasons_standing ..
  have h2 := junctionsOf_of_standing hstanding z
  have h3 : (acc.1.evacuationHeld s z).standing = s.standing := by
    rw [← hstanding]
    exact forEach_standing _ fun t j => modJunction_standing _ (evacHolder_afterReset _)
  have hzone : ∀ j, ((acc.1.evacuationHeld s z).junctions.get j).zone = (s.junctions.get j).zone := fun j => by
    have := congrArg (fun x : Standing => x.configuration.junctions.get j) h3
    simp only [standing, configuration, get_map_entry] at this
    exact ((Junction.afterReset_eq _ _).mp this).2.1
  unfold hlcEvacuate
  dsimp only
  rw [h1, hacc, h2]
  refine congrArg (State.releaseAll _) (List.filter_congr fun j _ => ?_)
  exact congrArg (· != some z) (hzone j)

/-- No claim on a junction of the zone: nothing is aborted. -/
theorem State.abortForEvacuations_none {t : State} {r : List JuncNo} {l : List JuncNo}
    (h : ∀ j ∈ l, ∀ v, (t.junctions.get j).holder ≠ .claim v) : l.foldl abortForEvacuation (t, r) = (t, r) := by
  induction l with
  | nil => rfl
  | cons j l ih =>
    obtain ⟨hj, hl⟩ := List.forall_mem_cons.mp h
    have hstep : abortForEvacuation (t, r) j = (t, r) := by
      unfold abortForEvacuation
      cases hh : (t.junctions.get j).holder with
      | claim v => exact absurd hh (hj v)
      | _ => rfl
    rw [List.foldl_cons, hstep, ih hl]

/-- Once a vehicle's claim is aborted, a junction that still names it brings no more. -/
theorem State.abortForEvacuations_again {t : State} {r : List JuncNo} {l : List JuncNo} {v : VehNo}
    (hagain : t.abort v .evacuationHold = (t, []))
    (h : ∀ j ∈ l, ∀ w, (t.junctions.get j).holder = .claim w → w = v) : l.foldl abortForEvacuation (t, r) = (t, r) := by
  induction l with
  | nil => rfl
  | cons j l ih =>
    obtain ⟨hj, hl⟩ := List.forall_mem_cons.mp h
    have hstep : abortForEvacuation (t, r) j = (t, r) := by
      unfold abortForEvacuation
      cases hh : (t.junctions.get j).holder with
      | claim w => rw [hj w hh]; dsimp only; rw [hagain, List.append_nil]
      | _ => rfl
    rw [List.foldl_cons, hstep, ih hl]

theorem State.abort_holder_claim (s : State) (v : VehNo) (c : AbortCause) (j : JuncNo) (w : VehNo)
    (h : ((s.abort v c).1.junctions.get j).holder = .claim w) : (s.junctions.get j).holder = .claim w := by
  have hfold : ∀ l : List JuncNo, ((l.foldl (fun (t : State) j => t.modJunction j dropHolder) s).junctions.get j).holder =
      .claim w → (s.junctions.get j).holder = .claim w := fun l hl => by
    have := forEach_modJunction_get (f := dropHolder) (fun _ => rfl) l s j
    unfold forEach at this
    rw [this] at hl
    split at hl
    · cases hl
    · exact hl
  have hj : (s.abort v c).1.junctions = (((s.vehicles.get v).claim.elim [] fun c => (heldLegs c.legs).map Leg.junction).foldl
      (fun (t : State) j => t.modJunction j dropHolder) s).junctions := by
    rw [abort_eq]; dsimp only; split <;> rfl
  exact hfold _ (hj ▸ h)

/-- The claims of one vehicle on the zone's junctions: its abort, once. -/
theorem State.abortForEvacuations_single {t : State} {l : List JuncNo} {v : VehNo}
    (hsome : ∃ j ∈ l, (t.junctions.get j).holder = .claim v)
    (h : ∀ j ∈ l, ∀ w, (t.junctions.get j).holder = .claim w → w = v) :
    l.foldl abortForEvacuation (t, []) = t.abort v .evacuationHold := by
  induction l with
  | nil => obtain ⟨j, hj, -⟩ := hsome; cases hj
  | cons j l ih =>
    obtain ⟨hj, hl⟩ := List.forall_mem_cons.mp h
    rw [List.foldl_cons]
    by_cases hc : (t.junctions.get j).holder = .claim v
    · have hstep : abortForEvacuation (t, []) j = t.abort v .evacuationHold := by
        unfold abortForEvacuation; rw [hc]; rfl
      rw [hstep]
      exact abortForEvacuations_again (t.abort_abort v _) fun i hi w hw =>
        hl i hi w (abort_holder_claim t v _ i w hw)
    · have hstep : abortForEvacuation (t, []) j = (t, []) := by
        unfold abortForEvacuation
        cases hh : (t.junctions.get j).holder with
        | claim w => exact absurd (hj w hh ▸ hh) hc
        | _ => rfl
      obtain ⟨i, hi, hci⟩ := hsome
      rw [hstep]
      exact ih ⟨i, (List.mem_cons.mp hi).resolve_left fun e => hc (e ▸ hci), hci⟩ hl

theorem State.abortForEvacuations_stop (l : List JuncNo) (acc : State × List JuncNo) (w : VehNo) :
    ((l.foldl abortForEvacuation acc).1.vehicles.get w).stop = (acc.1.vehicles.get w).stop := by
  induction l generalizing acc with
  | nil => rfl
  | cons j l ih =>
    refine (ih _).trans ?_
    unfold abortForEvacuation
    split
    · exact abort_stop ..
    · rfl

theorem State.hlcEvacuation_begins {prev new : Evac} (hp : prev = .none) (hn : new ≠ .none) :
    s.hlcEvacuation z prev new = s.hlcEvacuate z := by simp [hlcEvacuation, hp, hn]

theorem State.hlcEvacuation_ends {prev : Evac} (hp : prev ≠ .none) : s.hlcEvacuation z prev .none = s.hlcLift z := by
  simp [hlcEvacuation, hp]

theorem State.hlcEvacuation_stays {prev new : Evac} (hp : prev ≠ .none) (hn : new ≠ .none) :
    s.hlcEvacuation z prev new = s := by simp [hlcEvacuation, hp, hn]

/-- Taking the holds of an evacuation leaves the zones. -/
theorem State.hlcEvacuate_offRoad (s : State) (z : ZoneNo) : (s.hlcEvacuate z).offRoad = s.offRoad := by
  have habort : ∀ (l : List JuncNo) (acc : State × List JuncNo), (l.foldl abortForEvacuation acc).1.offRoad = acc.1.offRoad := by
    intro l
    induction l with
    | nil => exact fun _ => rfl
    | cons j l ih =>
      intro acc
      refine (ih _).trans ?_
      unfold abortForEvacuation
      split
      · exact abort_offRoad ..
      · rfl
  rw [hlcEvacuate_eq s z rfl, releaseAll_offRoad]
  unfold evacuationHeld
  refine (forEach_keeps offRoad (f := fun t j => t.modJunction j evacHolder) (fun _ _ => rfl) _ _).trans ((habort _ _).trans ?_)
  exact forEach_keeps offRoad (fun t v => addReason_offRoad t v .evacuation) _ _

end holds

/-- Settles O20: the checks, then `hlcEvacuate_eq` with the aborts that `abortForEvacuations_single` counts. -/
theorem orderEvacuation : Obligations.OrderEvacuation := by
  refine ⟨fun s tag hs => ⟨fun k hk => ?outside, fun z => ?request⟩, fun s z => ?holds⟩
  case outside =>
    have hnone := index?_eq_none.mpr hk
    exact exec_refused hs (r := .orderEvacuation k) (x := .badValue) rfl (by
      simp [State.handle, State.doOrderEvacuation, hnone])
  case request =>
    intro old c reported ordered
    have hdo (h : old.configured = true) : exec c s = .next ((s.orderEvac z .hostOrder).answered tag [0x02, 0x00]) :=
      exec_accepted hs (r := .orderEvacuation (number z)) rfl (by
        simp only [State.handle, State.doOrderEvacuation, index?_number]; exact if_pos h)
    refine ⟨fun h => ?_, fun h ho => ?_, fun h ho => ?_⟩
    · exact exec_refused hs (r := .orderEvacuation (number z)) (x := .notFound) rfl (by
        simp only [State.handle, State.doOrderEvacuation, index?_number]; exact if_neg (by simp [old] at h; simp [h]))
    · rw [hdo h]; unfold State.orderEvac; rw [if_pos ho]
    · have hset : s.setEvac z .ordered .hostOrder = ordered := by
        unfold State.setEvac
        dsimp only [ordered]
        split
        · next hn => rw [State.hlcEvacuation_begins hn (by decide)]
        · next hn => rw [State.hlcEvacuation_stays hn (by decide)]
      have hzones : ordered.zones = reported.zones := by
        dsimp only [ordered]
        split
        · exact (congrArg (fun x : State => x.zones) (State.hlcEvacuate_offRoad reported z) :)
        · rfl
      have hevac : (ordered.zones.get z).evac = .ordered ∧ (ordered.zones.get z).occupancy = old.occupancy := by
        rw [hzones]; simp [reported, State.reportEvacuation, old]
      have horder : s.orderEvac z .hostOrder = ordered.testEmpty z := by
        unfold State.orderEvac; rw [if_neg ho, hset]
      rw [hdo h, horder]
      unfold State.testEmpty
      rw [hevac.1, hevac.2]
      refine ⟨fun hocc => by rw [if_neg fun hc => hocc hc.2], fun hocc => ?_⟩
      rw [if_pos ⟨rfl, hocc⟩]
      unfold State.setEvac
      dsimp only
      rw [hevac.1, State.hlcEvacuation_stays (by decide) (by decide)]
  case holds =>
    intro stopped ours held after
    have hheld : ∀ t : State, held t = t.evacuationHeld s z := fun t => by
      refine congrArg (fun f => List.foldl f t (s.junctionsOf z)) ?_
      funext u j
      exact State.modJunction_congr (evacHolder_eq _).symm
    have hours : ∀ j, ours j = true ↔ j ∈ s.junctionsOf z := fun j => mem_thoseOf.symm
    refine ⟨fun hnone => ?_, fun v c hc hsome hone => ?_, fun j hj => ?_, fun v hv => ?_⟩
    · have hacc : (s.junctionsOf z).foldl State.abortForEvacuation (stopped, []) = (stopped, []) :=
        State.abortForEvacuations_none fun j hj v => hnone j v ((hours j).mpr hj)
      exact (State.hlcEvacuate_eq s z hacc).trans ((State.releaseAll_nil _).trans (hheld stopped).symm)
    · obtain ⟨j, hj, hv⟩ := hsome
      have hacc : (s.junctionsOf z).foldl State.abortForEvacuation (stopped, []) = stopped.abort v .evacuationHold :=
        State.abortForEvacuations_single ⟨j, (hours j).mp hj, hv⟩ fun i hi w hw => hone i w ((hours i).mpr hi) hw
      have hrel : (stopped.abort v .evacuationHold).2 = (c.legs.filter fun l => !l.cleared).map Leg.junction := by
        rw [State.abort_released, hc]; rfl
      rw [hheld, ← hrel]
      exact State.hlcEvacuate_eq s z hacc
    all_goals
      generalize hacc : (s.junctionsOf z).foldl State.abortForEvacuation (stopped, []) = acc
      have hafter : after = (acc.1.evacuationHeld s z).releaseAll
        (acc.2.filter fun j => (s.junctions.get j).zone != some z) := State.hlcEvacuate_eq s z hacc
    · have hget : (acc.1.evacuationHeld s z).junctions.get j = evacHolder (acc.1.junctions.get j) :=
        (State.forEach_modJunction_get (f := evacHolder) (fun y => by simp [evacHolder_eq]) (s.junctionsOf z) acc.1 j).trans
          (if_pos ((hours j).mp hj))
      rw [hafter, State.releaseAll_keeps (by rw [hget, evacHolder_eq]; exact nofun), hget, evacHolder_eq]
      exact ⟨rfl, rfl, rfl, rfl⟩
    · have hstop : (stopped.vehicles.get v).stop.has .evacuation = true :=
        State.addReasons_stop (r := .evacuation) s v (.inl hv)
      have hkeep : ((acc.1.evacuationHeld s z).vehicles.get v).stop = (acc.1.vehicles.get v).stop :=
        State.forEach_keeps (fun t => (t.vehicles.get v).stop) (f := fun t j => t.modJunction j evacHolder) (fun _ _ => rfl) _
          acc.1
      rw [hafter, State.releaseAll_stop, hkeep, ← hacc, State.abortForEvacuations_stop]
      exact hstop

/-- Settles O21: the checks, then `hlcLift` by the frame of the reasons removed. -/
theorem liftEvacuation : Obligations.LiftEvacuation := by
  refine ⟨fun s tag hs => ⟨fun n m hk => ?outside, fun z k => ?request⟩, fun s z => ?holds⟩
  case outside =>
    refine exec_refused hs (r := .liftEvacuation n m) (x := .badValue) rfl ?_
    have hnone : index? 16 n = none ∨ key? m = none := by
      rw [index?_eq_none, key?_eq_none]; tauto
    simp only [State.handle, State.doLiftEvacuation]
    rcases hnone with h | h <;> rw [h]
    cases index? 16 n <;> rfl
  case request =>
    intro old c
    have hdo : s.handle (.liftEvacuation (number z) k.val) =
        if old.configured = false then s.refuse .notFound
        else if old.evac = .none then s.refuse .wrongMode
        else if s.keyFails k z then s.refuse .badKey
        else (s.setEvac z .none .hostLift).accept := by
      simp only [State.handle, State.doLiftEvacuation, index?_number, key?_val]; rfl
    have hkey : s.keyFails k z = true ↔ old.key ≠ 0 ∧ old.key ≠ k := by simp [State.keyFails, old]
    refine ⟨fun h => ?_, fun h hn => ?_, fun h hn h0 hk => ?_, fun h hn hk => ?_⟩
    · exact exec_refused hs (r := .liftEvacuation (number z) k.val) (x := .notFound) rfl (by rw [hdo, if_pos h])
    · exact exec_refused hs (r := .liftEvacuation (number z) k.val) (x := .wrongMode) rfl (by
        rw [hdo, if_neg (by simp [h]), if_pos hn])
    · exact exec_refused hs (r := .liftEvacuation (number z) k.val) (x := .badKey) rfl (by
        rw [hdo, if_neg (by simp [h]), if_neg hn, if_pos (hkey.mpr ⟨h0, hk⟩)])
    · refine exec_accepted hs (r := .liftEvacuation (number z) k.val) rfl ?_
      rw [hdo, if_neg (by simp [h]), if_neg hn, if_neg (fun hf => by have := hkey.mp hf; tauto)]
      unfold State.setEvac
      dsimp only
      rw [State.hlcEvacuation_ends hn]
  case holds =>
    intro eased frees freed after
    obtain ⟨vs, q, m, he, hstops⟩ := State.removeReasons_frame (l := (s.zones.get z).vehicles) (r := .evacuation) s
    have heased : eased = _ := he
    have hfreed : ((s.junctionsOf z).filter fun j => (s.junctions.get j).holder == .evacuation) = freed := by
      simp only [State.junctionsOf, thoseOf, List.filter_filter, freed, frees]
      exact List.filter_congr fun j _ => by rw [Bool.and_comm]
    have hafter : after =
        (freed.foldl (fun t j => t.modJunction j fun y => { y with holder := .none, go := none }) eased).releaseAll freed := by
      have hj : eased.junctions = s.junctions := by rw [heased]
      have hl : eased.junctionsOf z = s.junctionsOf z := by unfold State.junctionsOf; rw [hj]
      have hunfold : after = (((eased.junctionsOf z).filter fun j => (eased.junctions.get j).holder == .evacuation).foldl
          (fun t j => t.modJunction j dropHolder) eased).releaseAll
            ((eased.junctionsOf z).filter fun j => (eased.junctions.get j).holder == .evacuation) := rfl
      rw [hunfold, hl, hj, hfreed]; rfl
    refine ⟨hafter, fun hw hwalk => ?_, fun v hv => ?_⟩
    · have hget : ∀ j, ((freed.foldl (fun t j => t.modJunction j dropHolder) eased).junctions.get j) =
          if frees j then dropHolder (s.junctions.get j) else s.junctions.get j := fun j => by
        have := State.forEach_modJunction_get (f := dropHolder) (fun _ => rfl) freed eased j
        have hj : eased.junctions = s.junctions := by rw [heased]
        rw [hj] at this
        refine this.trans ?_
        simp only [freed, List.mem_filter, List.mem_finRange, true_and]
      have hidle : after = freed.foldl (fun t j => t.modJunction j dropHolder) eased := by
        refine hafter.trans (State.releaseAll_idle (fun j hj => ?_) ?_)
        · have hfj : frees j = true := (List.mem_filter.mp hj).2
          refine (congrArg Junction.walkPending (hget j)).trans ?_
          rw [if_pos hfj]; exact hwalk j hfj
        · exact (State.forEach_keeps State.waits (f := fun t j => t.modJunction j dropHolder) (fun _ _ => rfl) freed eased).trans
            (by rw [heased]; exact hw)
      refine ⟨fun j hj => ?_, fun j hj => ?_⟩
      · rw [hidle, hget, if_pos hj]; exact ⟨rfl, rfl⟩
      · rw [hidle, hget, if_neg (by simp [hj])]
    · rw [hafter, State.releaseAll_stop]
      have hkeep : ((freed.foldl (fun t j => t.modJunction j fun y => { y with holder := .none, go := none }) eased).vehicles.get
          v).stop = (eased.vehicles.get v).stop :=
        State.forEach_keeps (fun t => (t.vehicles.get v).stop)
          (f := fun t j => t.modJunction j fun y => { y with holder := .none, go := none }) (fun _ _ => rfl) freed eased
      rw [hkeep, heased]
      exact hstops v (.inl hv)

end Sys2Proof.Machine
end


section
/-! PROOFS. The statements on the Trip Control Unit (R46 to R66) and on SET_ZONE: what a change of an output's state brings, and
the requests, expiries and inputs that change it. -/

namespace Sys2Proof.Machine

/-! ## The power view of a zone (R8) -/

section views
variable {s : State} {z : ZoneNo}

theorem State.modZone_self {f : Zone → Zone} (h : f (s.zones.get z) = s.zones.get z) : s.modZone z f = s := by
  simp [modZone, h]

theorem State.modTrip_self {o : OutNo} {f : Trip → Trip} (h : f (s.trips.get o) = s.trips.get o) : s.modTrip o f = s := by
  simp [modTrip, h]

theorem State.modTrip_modTrip (s : State) (o : OutNo) (f g : Trip → Trip) :
    (s.modTrip o f).modTrip o g = s.modTrip o fun x => g (f x) := by simp [modTrip]

theorem State.reportZone_view (s : State) (z : ZoneNo) (new : Option TripState) (sum : Summary) (prev : Option TripState) :
    (s.modZone z fun x => { x with view := new }).reportZone z sum prev =
      (s.modZone z fun x => { x with view := new }).report ⟨.safety, 0x82,
        num z ++ named summaries sum ++ named summaries (s.zones.get z).summary ++ named powerViews prev ++
          named powerViews new ++ s.countsField z⟩ := by
  simp [reportZone, countsField, missingCount]

/-- A view that stays. -/
theorem State.updateView_same (h : s.viewOf z = (s.zones.get z).view) : s.updateView z = s := by
  unfold updateView; dsimp only; rw [if_neg (not_not.mpr h)]

/-- A new view, its report, and what the vehicles make of it. -/
theorem State.updateView_new (h : s.viewOf z ≠ (s.zones.get z).view) : s.updateView z =
    ((s.modZone z fun x => { x with view := s.viewOf z }).reportZone z (s.zones.get z).summary (s.zones.get z).view).hlcPowerView
      z (s.zones.get z).view (s.viewOf z) := by
  unfold updateView; dsimp only; rw [if_pos h]

/-- Whatever else follows, the view is the one derived and the rest but the haulage stays. -/
theorem State.updateView_offRoad (s : State) (z : ZoneNo) :
    (s.updateView z).offRoad = (s.modZone z fun x => { x with view := s.viewOf z }).offRoad := by
  by_cases h : s.viewOf z = (s.zones.get z).view
  · rw [updateView_same h, h]
    exact congrArg offRoad (modZone_self rfl).symm
  · rw [updateView_new h, hlcPowerView_offRoad]; rfl

theorem State.updateView_zones (s : State) (z : ZoneNo) :
    (s.updateView z).zones = s.zones.set z { s.zones.get z with view := s.viewOf z } :=
  (congrArg (fun t : State => t.zones) (updateView_offRoad s z) :)

theorem State.updateView_trips (s : State) (z : ZoneNo) : (s.updateView z).trips = s.trips :=
  (congrArg (fun t : State => t.trips) (updateView_offRoad s z) :)

theorem State.updateView_signals (s : State) (z : ZoneNo) : (s.updateView z).signals = s.signals :=
  (congrArg (fun t : State => t.signals) (updateView_offRoad s z) :)

theorem State.updateView_channels (s : State) (z : ZoneNo) : (s.updateView z).channels = s.channels :=
  (congrArg (fun t : State => t.channels) (updateView_offRoad s z) :)

theorem State.updateView_handOffs (s : State) (z : ZoneNo) : (s.updateView z).handOffs = s.handOffs :=
  (congrArg (fun t : State => t.handOffs) (updateView_offRoad s z) :)

/-- A zone with no vehicle present: no stop reason changes. -/
theorem State.hlcPowerView_empty (h : (s.zones.get z).vehicles = []) (p n : Option TripState) : s.hlcPowerView z p n = s := by
  unfold hlcPowerView; dsimp only; rw [h]
  split
  · rfl
  · split <;> rfl

theorem State.followOutput_closed (h : s.viewOpens z = false) : s.followOutput z = s.updateView z := by
  unfold followOutput; rw [h]; rfl

theorem State.followOutput_opens (h : s.viewOpens z = true) : s.followOutput z =
    (s.updateView z).startBound deferStart (s.zones.get z).onTrip z .zoneTrip := by
  unfold followOutput; rw [h]; rfl

/-- The start that follows an output is held back: no table changes. -/
theorem State.startBound_defer (s : State) (p : Option ProgNo) (z : ZoneNo) (c : StartCause) :
    s.startBound deferStart p z c = { s with handOffs := s.handOffs ++ p.elim [] fun p => [⟨p, z, c⟩] } := by
  cases p with
  | none => simp [startBound]
  | some p => rfl

theorem State.followOutput_frame (s : State) (z : ZoneNo) : ∃ q, s.followOutput z = { s.updateView z with handOffs := q } := by
  by_cases h : s.viewOpens z = true
  · exact ⟨_, (followOutput_opens h).trans (startBound_defer ..)⟩
  · exact ⟨_, followOutput_closed (by simpa using h)⟩

theorem State.followOutput_trips (s : State) (z : ZoneNo) : (s.followOutput z).trips = s.trips := by
  obtain ⟨q, h⟩ := s.followOutput_frame z
  rw [h]; exact updateView_trips s z

theorem State.outputChanged_trips (s : State) (o : OutNo) : (s.outputChanged o).trips = s.trips :=
  forEach_keeps State.trips followOutput_trips _ _

theorem State.mem_boundZones {o : OutNo} : z ∈ s.boundZones o ↔ (s.zones.get z).configured = true ∧ (s.zones.get z).trip = some o := by
  simp [boundZones, mem_thoseOf]

theorem State.viewOf_bound {o : OutNo} (h : z ∈ s.boundZones o) : s.viewOf z = some (s.trips.get o).state := by
  obtain ⟨hc, ht⟩ := mem_boundZones.mp h
  simp [viewOf, zoneOutput, hc, ht]

end views

/-! ## A change of an output's state (R47, R48) -/

section moveTrip
variable {s : State} {o : OutNo}

/-- The output has changed, its report is produced, and its wait origin is gone. -/
def State.tripMoved (s : State) (o : OutNo) (new : TripState) (cause : TripCause) : State :=
  ((s.modTrip o fun t => t.entered s.now new cause).reportTrip o (s.trips.get o).state cause).modTrip o fun t =>
    if new = .waiting then t else { t with origin := none }

/-- The TRIP report of a change to a state other than WAITING. -/
theorem State.reportTrip_entered (s : State) (o : OutNo) {new : TripState} (cause : TripCause) (h : new ≠ .waiting) :
    (s.modTrip o fun t => t.entered s.now new cause).reportTrip o (s.trips.get o).state cause =
      (s.modTrip o fun t => t.entered s.now new cause).report ⟨.safety, 0x85,
        num o ++ named tripStates (s.trips.get o).state ++ named tripStates new ++ named tripCauses cause ++
          originField (if cause = .waitExpired ∨ cause = .abandoned then (s.trips.get o).origin else none) ++
            feedbackField (s.trips.get o) ++ wordField (s.trips.get o).wait⟩ := by
  have horigin : shownOrigin ((s.trips.get o).entered s.now new cause) cause =
      if cause = .waitExpired ∨ cause = .abandoned then (s.trips.get o).origin else none := by
    cases cause <;> simp [shownOrigin, Trip.entered, h]
  have hget : (s.modTrip o fun t => t.entered s.now new cause).trips.get o = (s.trips.get o).entered s.now new cause := by simp
  unfold reportTrip
  dsimp only
  rw [hget, horigin]
  rfl

/-- A change of state: what the output's own record and its warning become, then its bound zones. -/
theorem State.moveTrip_eq (s : State) (o : OutNo) {new : TripState} (cause : TripCause) (h : new ≠ .waiting) :
    s.moveTrip o new cause =
      (s.boundZones o).foldl followOutput ((s.tripMoved o new cause).warn o false) := by
  have hwarn : decide (new = .waiting ∧ ((s.tripMoved o new cause).trips.get o).waitAt.isSome = true) = false := by
    simp [h]
  have hbound : ((s.tripMoved o new cause).warn o false).boundZones o = s.boundZones o := by
    unfold warn; split
    · rfl
    · dsimp only; split
      · rfl
      · split <;> rfl
  have hmove : s.moveTrip o new cause = ((s.tripMoved o new cause).warn o
      (decide (new = .waiting ∧ ((s.tripMoved o new cause).trips.get o).waitAt.isSome = true))).outputChanged o := rfl
  rw [hmove, hwarn]
  unfold outputChanged forEach
  rw [hbound]

/-- An output that no zone is bound to and that warns nothing: the change of the output alone. -/
theorem State.moveTrip_free {new : TripState} {cause : TripCause} (h : new ≠ .waiting) (hb : s.boundZones o = [])
    (hw : (s.trips.get o).warning = none) : s.moveTrip o new cause = s.tripMoved o new cause := by
  have hwarning : ((s.tripMoved o new cause).trips.get o).warning = none := by
    simp [tripMoved, reportTrip, Trip.entered, h, hw]
  rw [moveTrip_eq s o cause h, hb]
  unfold warn; rw [hwarning]; rfl

theorem State.warn_trips (s : State) (o : OutNo) (b : Bool) : (s.warn o b).trips = s.trips := by
  unfold warn; split
  · rfl
  · dsimp only; split
    · rfl
    · split <;> rfl

/-- A change of one output's state changes that output's record alone. -/
theorem State.moveTrip_trips (s : State) (o : OutNo) (new : TripState) (cause : TripCause) :
    (s.moveTrip o new cause).trips = s.trips.set o (let t := (s.trips.get o).entered s.now new cause
      if new = .waiting then t else { t with origin := none }) := by
  have hmoved : (s.tripMoved o new cause).trips = s.trips.set o (let t := (s.trips.get o).entered s.now new cause
      if new = .waiting then t else { t with origin := none }) := by simp [tripMoved, reportTrip]
  rw [← hmoved]
  exact (outputChanged_trips _ _).trans (warn_trips _ _ _)

theorem State.moveTrip_state (s : State) (o : OutNo) (new : TripState) (cause : TripCause) :
    ((s.moveTrip o new cause).trips.get o).state = new := by
  rw [moveTrip_trips, get_set_entry, if_pos rfl]
  dsimp only; split <;> rfl

theorem State.moveTrip_powerOff (s : State) (o : OutNo) (new : TripState) (cause : TripCause) :
    ((s.moveTrip o new cause).trips.get o).powerOff = (s.trips.get o).powerOff := by
  rw [moveTrip_trips, get_set_entry, if_pos rfl]
  dsimp only; split <;> rfl

theorem State.moveTrip_backup (s : State) (o : OutNo) (new : TripState) (cause : TripCause) :
    ((s.moveTrip o new cause).trips.get o).backup = (s.trips.get o).backup := by
  rw [moveTrip_trips, get_set_entry, if_pos rfl]
  dsimp only; split <;> rfl

theorem State.moveTrip_other {p : OutNo} (h : p ≠ o) (new : TripState) (cause : TripCause) :
    (s.moveTrip o new cause).trips.get p = s.trips.get p := by
  rw [moveTrip_trips, get_set_entry, if_neg (Ne.symm h)]

theorem State.openTrip_on {cause : TripCause} (h : (s.trips.get o).powerOff = false) :
    s.openTrip o cause = s.moveTrip o .opening cause := by
  unfold openTrip testOpening; rw [moveTrip_powerOff, h]; simp

theorem State.openTrip_off {cause : TripCause} (h : (s.trips.get o).powerOff = true) :
    s.openTrip o cause = (s.moveTrip o .opening cause).moveTrip o .opened .feedbackOff := by
  unfold openTrip testOpening; rw [moveTrip_powerOff, moveTrip_state, h]; simp

theorem State.tripNow_closed {cause : TripCause} (h : (s.trips.get o).state = .closed ∨ (s.trips.get o).state = .waiting) :
    s.tripNow o cause = s.openTrip o cause := by
  unfold tripNow tripClosed; rcases h with h | h <;> simp [h]

theorem State.tripNow_other {cause : TripCause} (hc : (s.trips.get o).state ≠ .closed) (hw : (s.trips.get o).state ≠ .waiting) :
    s.tripNow o cause = s := by
  unfold tripNow tripClosed; simp [hc, hw]

end moveTrip

/-! ## TRIP and RESTORE (R53, R57, R58) -/

section requests
variable {s : State} {o : OutNo}

theorem exec_trip (hs : s.Ready) (tag : Byte) (h : (s.trips.get o).state ≠ .held) :
    exec (.trip tag (number o)) s = .next ((s.tripNow o .host).settle.answered tag [0x09, 0x00]) :=
  exec_accepted hs (r := .trip (number o)) rfl (by
    simp only [State.handle, State.doTrip, index?_number]; exact if_neg h)

/-- A record entered into OPENING and one entered into a state that is not, with the wait origin gone. -/
theorem State.tripMoved_eq (s : State) (o : OutNo) {new : TripState} (cause : TripCause) (h : new ≠ .waiting) :
    s.tripMoved o new cause = ((s.modTrip o fun t => { t with
      state := new, lastCause := some cause, waitAt := none
      confirmAt := if new = .opening ∨ cause = .restore then some (s.now + t.confirm) else none }).reportTrip o
        (s.trips.get o).state cause).modTrip o fun t => { t with origin := none } := by
  simp only [tripMoved, Trip.entered, if_neg h]

end requests

/-- Settles O29: TRIP by the state of the output, and a change of state by `moveTrip_eq`. -/
theorem tripRequest : Obligations.TripRequest := by
  refine ⟨fun s tag hs => ⟨fun k hk => ?outside, fun o => ?request⟩, fun s o new cause hnew => ?moves, fun s z o hc ht => ?follows,
    fun s o cause => ⟨State.openTrip_on, State.openTrip_off⟩⟩
  case outside =>
    have hnone := index?_eq_none.mpr hk
    exact exec_refused hs (r := .trip k) (x := .badValue) rfl (by simp [State.handle, State.doTrip, hnone])
  case request =>
    intro x i opening opened
    have hexec (h : x.state ≠ .held) : exec i s = .next ((s.tripNow o .host).settle.answered tag [0x09, 0x00]) :=
      exec_trip hs tag h
    refine ⟨fun h => ?_, fun h ho => ?_, fun h => ⟨?_, fun hb hw ho => ?_⟩⟩
    · exact exec_refused hs (r := .trip (number o)) (x := .wrongMode) rfl (by
        simp only [State.handle, State.doTrip, index?_number]; exact if_pos h)
    · rw [hexec (by rcases h with h | h | h <;> simp [h]),
        State.tripNow_other (by rcases h with h | h | h <;> simp [x] at h <;> simp [h])
          (by rcases h with h | h | h <;> simp [x] at h <;> simp [h]), State.settle_nil ho]
    · rw [hexec (by rcases h with h | h <;> simp [h]), State.tripNow_closed h]
    · rw [hexec (by rcases h with h | h <;> simp [h]), State.tripNow_closed h]
      have hmoved : s.moveTrip o .opening .host = opening :=
        (State.moveTrip_free (by decide) hb hw).trans (State.tripMoved_eq s o .host (by decide))
      refine ⟨fun hp => ?_, fun hp => ?_⟩
      · rw [State.openTrip_on hp, hmoved, State.settle_nil (s := opening) ho]
      · have hw' : (opening.trips.get o).warning = none := by simp [opening, State.reportTrip]; exact hw
        have hfree : opening.moveTrip o .opened .feedbackOff = opening.tripMoved o .opened .feedbackOff :=
          State.moveTrip_free (by decide) hb hw'
        have hstate : (opening.trips.get o).state = .opening := by simp [opening, State.reportTrip]
        have hsecond : opening.moveTrip o .opened .feedbackOff = opened := by
          rw [hfree, State.tripMoved_eq _ _ _ (by decide), hstate]
          refine (State.modTrip_self ?_).trans (congrArg (fun t : State => t.reportTrip o .opening .feedbackOff)
            (State.modTrip_congr ?_))
          · simp [opening, State.reportTrip]
          · simp [opening, State.reportTrip]
        rw [State.openTrip_off hp, hmoved, hsecond, State.settle_nil (s := opened) ho]
  case moves =>
    intro x origin changed left quiet bound
    have hleft : s.tripMoved o new cause = left := by
      unfold State.tripMoved
      rw [State.reportTrip_entered s o cause hnew]
      simp only [if_neg hnew, feedbackField, named_true_false, originField, List.append_assoc, left, changed, origin, x,
        Trip.entered]
    have hquiet : (s.tripMoved o new cause).warn o false = quiet := by
      have hw : (left.trips.get o).warning = x.warning := by simp [left, changed, x]
      rw [hleft]
      unfold State.warn
      rw [hw]
      dsimp only [quiet]
      cases x.warning with
      | none => rfl
      | some g =>
        by_cases hd : Driver.warning o ∈ (s.signals.get g).drivers
        · have hd' : Driver.warning o ∈ (left.signals.get g).drivers := hd
          simp [hd, hd']
        · have hd' : Driver.warning o ∉ (left.signals.get g).drivers := hd
          simp [hd, hd']
    rw [State.moveTrip_eq s o cause hnew, hquiet]; rfl
  case follows =>
    intro x seen opens
    have hview : s.viewOf z = some (s.trips.get o).state := State.viewOf_bound (State.mem_boundZones.mpr ⟨hc, ht⟩)
    have hopens : s.viewOpens z = true ↔ opens := by
      simp [State.viewOpens, hview, opens, x]
    refine ⟨fun h => ?_, fun h p hp => ?_⟩
    · rcases h with h | h
      · exact State.followOutput_closed (by rw [Bool.eq_false_iff]; exact fun e => h (hopens.mp e))
      · obtain ho | ho := Bool.eq_false_or_eq_true (s.viewOpens z)
        · rw [State.followOutput_opens ho]
          exact congrArg (fun p => State.startBound seen deferStart p z .zoneTrip) h
        · exact State.followOutput_closed ho
    · rw [State.followOutput_opens (hopens.mpr h)]
      exact congrArg (fun p => State.startBound seen deferStart p z .zoneTrip) hp

/-- Settles O30: the checks of R57 in their order, then `restoreTrip`. -/
theorem restoreRequest : Obligations.RestoreRequest := by
  refine fun s tag hs => ⟨fun n m hk => ?outside, fun o k => ?request⟩
  case outside =>
    refine exec_refused hs (r := .restore n m) (x := .badValue) rfl ?_
    have hnone : index? 6 n = none ∨ key? m = none := by
      rw [index?_eq_none, key?_eq_none]; tauto
    simp only [State.handle, State.doRestore]
    rcases hnone with h | h <;> rw [h]
    cases index? 6 n <;> rfl
  case request =>
    intro x i bound ready locked barred closed
    have hdo : s.handle (.restore (number o) k.val) =
        if x.state ≠ .opened ∧ x.state ≠ .unconfirmed then s.refuse .wrongMode
        else if (s.boundZones o).any (s.keyFails k) then s.refuse .badKey
        else if s.restoreBarred o then s.refuse .condition
        else (s.restoreTrip o).accept := by
      simp only [State.handle, State.doRestore, index?_number, key?_val]; rfl
    have hready : ready ↔ ¬(x.state ≠ .opened ∧ x.state ≠ .unconfirmed) := by simp only [ready]; tauto
    have hlocked : (s.boundZones o).any (s.keyFails k) = true ↔ locked := by
      simp [locked, bound, State.keyFails, State.mem_boundZones]
    have hbarred : s.restoreBarred o = true ↔ barred := by
      have hzones : ((s.boundZones o).any s.zoneQualifies || (s.boundZones o).any s.evacuating) = true ↔
          ∃ z, bound z ∧ (s.zoneQualifies z = true ∨ (s.zones.get z).evac ≠ .none) := by
        simp only [Bool.or_eq_true, List.any_eq_true, State.mem_boundZones, State.evacuating, bne_iff_ne, ← exists_or,
          ← and_or_left, bound]
      have hmanual : x.manualActive = true ↔
          x.edge = .falling ∧ x.manualHigh = false ∨ x.edge = .rising ∧ x.manualHigh = true := by
        rw [manualActive_eq]; simp
      unfold State.restoreBarred
      rw [Bool.or_eq_true, hzones, show (s.trips.get o).manualActive = x.manualActive from rfl, hmanual]
    have hrestore : s.restoreTrip o = (s.moveTrip o .closed .restore).modTrip o fun t => { t with
        confirmAt := if x.powerOff then t.confirmAt else none } := by
      refine State.modTrip_congr ?_
      rw [State.moveTrip_powerOff]
      by_cases hp : x.powerOff = true
      · rw [if_pos hp, if_pos hp]
      · rw [if_neg hp, if_neg hp]
    refine ⟨fun h => ?_, fun h hl => ?_, fun h hl hb => ?_, fun h hl hb => ?_⟩
    · exact exec_refused hs (r := .restore (number o) k.val) (x := .wrongMode) rfl (by
        rw [hdo, if_pos (by by_contra hn; exact h (hready.mpr hn))])
    · exact exec_refused hs (r := .restore (number o) k.val) (x := .badKey) rfl (by
        rw [hdo, if_neg (hready.mp h), if_pos (hlocked.mpr hl)])
    · exact exec_refused hs (r := .restore (number o) k.val) (x := .condition) rfl (by
        rw [hdo, if_neg (hready.mp h), if_neg (fun e => hl (hlocked.mp e)), if_pos (hbarred.mpr hb)])
    · have hexec : exec i s = .next ((s.restoreTrip o).answered tag [0x0A, 0x00]) :=
        exec_accepted hs (r := .restore (number o) k.val) rfl (by
          rw [hdo, if_neg (hready.mp h), if_neg (fun e => hl (hlocked.mp e)), if_neg (fun e => hb (hbarred.mp e))])
      refine ⟨hexec.trans (by rw [hrestore]), fun hz hw => ?_⟩
      rw [hexec, hrestore, State.moveTrip_free (by decide) hz hw, State.tripMoved_eq s o .restore (by decide),
        State.modTrip_modTrip]
      simp only [or_true, if_true, closed, x]

/-! ## SET_TRIP (R60, R61) -/

theorem tripWritten?_range {f : TripFields} {x : OutNo × Trip} (h : tripWritten? f = some x) :
    (1 ≤ f.output ∧ f.output ≤ 6) ∧ f.mode < 2 ∧ f.backup ≤ 6 ∧ f.warning ≤ 8 ∧ f.edge < 3 ∧ f.sense < 2 ∧
      f.wait ≤ 300 ∧ 5 ≤ f.confirm ∧ f.confirm ≤ 100 := by
  simp only [tripWritten?, Option.bind_eq_bind, Option.bind_eq_some_iff, Option.ite_none_right_eq_some] at h
  obtain ⟨o, ho, m, hm, b, hb, w, hw, e, he, d, hd, hfits, -⟩ := h
  exact ⟨index?_range ho, named_range hm, optIndex?_range hb, optIndex?_range hw, named_range he, named_range hd, hfits⟩

theorem tripModes_get (m : TripMode) : tripModes[tripModes.idxOf m]? = some m := by cases m <;> rfl
theorem manualEdges_get (e : ManualEdge) : manualEdges[manualEdges.idxOf e]? = some e := by cases e <;> rfl
theorem senses_get (d : Sense) : senses[senses.idxOf d]? = some d := by cases d <;> rfl

theorem tripWritten?_numbers (o : OutNo) (m : TripMode) (w c : Nat) (b : Option OutNo) (g : Option SigNo) (e : ManualEdge)
    (d : Sense) : tripWritten? ⟨number o, tripModes.idxOf m, w, c, optNo b, optNo g, manualEdges.idxOf e, senses.idxOf d⟩ =
      if w ≤ 300 ∧ 5 ≤ c ∧ c ≤ 100 then
        some (o, { mode := m, wait := w, confirm := c, backup := b, warning := g, edge := e, sense := d })
      else none := by
  simp [tripWritten?, tripModes_get, manualEdges_get, senses_get]

theorem State.warningTaken_iff {s : State} {o : OutNo} {g : Option SigNo} : s.warningTaken o g = true ↔
    ∃ q : OutNo, ∃ n : SigNo, q ≠ o ∧ g = some n ∧ (s.trips.get q).warning = some n := by
  cases g <;> simp [warningTaken, allOf]

section feedback
variable {s : State} {o : OutNo}

theorem State.rereadFeedback_same {f : Trip → Trip} (h : (f (s.trips.get o)).powerOff = (s.trips.get o).powerOff) :
    s.rereadFeedback o f = s.modTrip o f := by
  unfold rereadFeedback; dsimp only
  rw [if_pos (by simpa using h)]

theorem State.rereadFeedback_changed {f : Trip → Trip} (h : (f (s.trips.get o)).powerOff ≠ (s.trips.get o).powerOff) :
    s.rereadFeedback o f = (s.modTrip o f).feedbackEvent o := by
  unfold rereadFeedback; dsimp only
  rw [if_neg (by simpa using h)]

theorem State.feedbackEvent_closed (h : (s.trips.get o).state = .closed) (hp : (s.trips.get o).powerOff = false) :
    s.feedbackEvent o = s.modTrip o fun t => { t with confirmAt := none } := by unfold feedbackEvent; dsimp only; rw [h, hp]

theorem State.feedbackEvent_opened (h : (s.trips.get o).state = .opened) (hp : (s.trips.get o).powerOff = false) :
    s.feedbackEvent o = s.unconfirm o .feedbackOn := by unfold feedbackEvent; dsimp only; rw [h, hp]

theorem State.feedbackEvent_off (h : (s.trips.get o).state = .opening ∨ (s.trips.get o).state = .unconfirmed)
    (hp : (s.trips.get o).powerOff = true) : s.feedbackEvent o = s.moveTrip o .opened .feedbackOff := by
  unfold feedbackEvent; dsimp only
  rcases h with h | h <;> rw [h, hp]

/-- In every other state and reading a feedback change is no event. -/
theorem State.feedbackEvent_none (h : (s.trips.get o).state = .held ∨ (s.trips.get o).state = .waiting ∨
    ((s.trips.get o).state = .closed ∨ (s.trips.get o).state = .opened) ∧ (s.trips.get o).powerOff = true ∨
      ((s.trips.get o).state = .opening ∨ (s.trips.get o).state = .unconfirmed) ∧ (s.trips.get o).powerOff = false) :
    s.feedbackEvent o = s := by
  unfold feedbackEvent; dsimp only
  rcases h with h | h | ⟨h | h, hp⟩ | ⟨h | h, hp⟩
  · rw [h]
  · rw [h]
  all_goals rw [h, hp]

end feedback

/-- Settles O31: the checks of R60 in their order, then the feedback read again. -/
theorem setTrip : Obligations.SetTrip := by
  refine ⟨fun s tag f hs hbad => ?outside, fun s tag o m w c b g e d hs => ?checked⟩
  case outside =>
    have hnone : tripWritten? f = none := Option.eq_none_iff_forall_ne_some.mpr fun x hx => by
      have := tripWritten?_range hx; omega
    exact exec_refused hs (r := .setTrip f) (x := .badValue) rfl (by simp [State.handle, State.doSetTrip, hnone])
  case checked =>
    intro x i inRange taken waits wired write
    have hwritten := tripWritten?_numbers o m w c b g e d
    have hdo : s.handle (.setTrip ⟨number o, tripModes.idxOf m, w, c, optNo b, optNo g, manualEdges.idxOf e, senses.idxOf d⟩) =
        if ¬inRange then s.refuse .badValue
        else if taken then s.refuse .badValue
        else if waits then s.refuse .wrongMode
        else if wired then s.refuse .wrongMode
        else (s.rereadFeedback o write).settle.accept := by
      simp only [State.handle, State.doSetTrip]
      rw [hwritten]
      by_cases hr : inRange
      · rw [if_pos hr, if_neg (not_not.mpr hr)]
        dsimp only
        have htaken : taken ↔ b = some o ∨ s.warningTaken o g = true := by simp [taken, State.warningTaken_iff]
        have hwaits : ((s.trips.get o).state = .waiting ∧ ((s.trips.get o).mode ≠ m ∨ (s.trips.get o).warning ≠ g)) ↔ waits := by
          simp only [waits, x, ne_comm]
        have hwired : ((s.trips.get o).state ≠ .held ∧ (s.trips.get o).state ≠ .opened ∧
            ((s.trips.get o).edge ≠ e ∨ (s.trips.get o).sense ≠ d)) ↔ wired := by
          simp only [wired, x, ne_comm (a := e), ne_comm (a := d)]
        simp only [htaken, ite_or, hwaits, hwired]
        rfl
      · rw [if_neg hr, if_pos hr]
    have refused {y : Status} (hx : s.handle (.setTrip ⟨number o, tripModes.idxOf m, w, c, optNo b, optNo g,
        manualEdges.idxOf e, senses.idxOf d⟩) = s.refuse y) : exec i s = .next (s.answered tag [0x08, statusByte y]) :=
      exec_refused hs (r := .setTrip _) rfl hx
    refine ⟨fun hr => refused (y := .badValue) ?_, fun hr ht => refused (y := .badValue) ?_,
      fun hr ht hw => refused (y := .wrongMode) ?_, fun hr ht hw hd => refused (y := .wrongMode) ?_, fun hr ht hw hd => ?_⟩
    · rw [hdo, if_pos hr]
    · rw [hdo, if_neg (not_not.mpr hr), if_pos ht]
    · rw [hdo, if_neg (not_not.mpr hr), if_neg ht, if_pos hw]
    · rw [hdo, if_neg (not_not.mpr hr), if_neg ht, if_neg hw, if_pos hd]
    · have hexec : exec i s = .next ((s.rereadFeedback o write).settle.answered tag [0x08, 0x00]) :=
        exec_accepted hs (r := .setTrip _) rfl (by rw [hdo, if_neg (not_not.mpr hr), if_neg ht, if_neg hw, if_neg hd])
      refine ⟨fun hp ho => ?_, fun hp hh ho => ?_, fun hp hopen => ⟨fun hx => ?_, fun hx ho => ?_⟩⟩
      · rw [hexec, State.rereadFeedback_same hp, State.settle_nil (s := s.modTrip o write) ho]
      all_goals
        have hget : (s.modTrip o write).trips.get o = write x := by simp [x]
        rw [hexec, State.rereadFeedback_changed hp]
      · rw [State.feedbackEvent_none (.inl (by rw [hget]; exact hh)), State.settle_nil (s := s.modTrip o write) ho]
      · rw [State.feedbackEvent_opened (by rw [hget]; exact hopen) (by rw [hget]; simpa [hx] using hp)]
      · rw [State.feedbackEvent_none (.inr (.inr (.inl ⟨.inr (by rw [hget]; exact hopen), by
          rw [hget]; simpa [hx] using hp⟩))), State.settle_nil (s := s.modTrip o write) ho]

/-! ## Demands and waits (R51, R52) -/

section demands
variable {s : State} {o : OutNo}

/-- Zone after zone follows: every view visited is the one derived, and only the views and the haulage change. -/
theorem State.forEach_updateView (l : List ZoneNo) (s : State) :
    (s.forEach l updateView).trips = s.trips ∧ (s.forEach l updateView).signals = s.signals ∧
      (s.forEach l updateView).channels = s.channels ∧ (s.forEach l updateView).handOffs = s.handOffs ∧
      ∀ y, (s.forEach l updateView).zones.get y =
        if y ∈ l then { s.zones.get y with view := s.viewOf y } else s.zones.get y := by
  induction l generalizing s with
  | nil => exact ⟨rfl, rfl, rfl, rfl, fun y => rfl⟩
  | cons z l ih =>
    obtain ⟨htrips, hsignals, hchannels, hoffs, hzones⟩ := ih (s.updateView z)
    have hz := updateView_zones s z
    have hview : ∀ y, (s.updateView z).viewOf y = s.viewOf y := fun y => by
      unfold viewOf zoneOutput
      rw [hz, updateView_trips]
      by_cases hy : z = y
      · subst hy; simp
      · simp [hy]
    refine ⟨htrips.trans (updateView_trips s z), hsignals.trans (updateView_signals s z), hchannels.trans
      (updateView_channels s z), hoffs.trans (updateView_handOffs s z), fun y => (hzones y).trans ?_⟩
    rw [hview, hz]
    by_cases hy : z = y
    · subst hy; simp
    · simp [hy, Ne.symm hy]

/-- Zones whose output is in another state than OPENING follow without a start. -/
theorem State.forEach_followOutput {l : List ZoneNo} (h : ∀ y ∈ l, s.viewOf y ≠ some .opening) :
    s.forEach l followOutput = s.forEach l updateView := by
  induction l generalizing s with
  | nil => rfl
  | cons z l ih =>
    obtain ⟨hz, hl⟩ := List.forall_mem_cons.mp h
    have hone : s.followOutput z = s.updateView z := followOutput_closed (by simp [viewOpens, hz])
    have hview : ∀ y, (s.updateView z).viewOf y = s.viewOf y := fun y => by
      unfold viewOf zoneOutput
      rw [updateView_zones, updateView_trips]
      by_cases hy : z = y
      · subst hy; simp
      · simp [hy]
    exact (congrArg (fun t => State.forEach t l followOutput) hone).trans (ih fun y hy => by rw [hview]; exact hl y hy)

theorem State.zoneQualifies_congr {t : State} (hc : t.channels = s.channels)
    (hz : ∀ y, (t.zones.get y).vehicles = (s.zones.get y).vehicles) (z : ZoneNo) : t.zoneQualifies z = s.zoneQualifies z := by
  have hlist : t.listZone = s.listZone := by funext v; simp [listZone, hz]
  have hzone : ∀ d, t.channelZone d = s.channelZone d := fun d => channelZone_congr (by rw [hc]) (by rw [hc]) (by rw [hc]) hlist
  unfold zoneQualifies channelsOf
  simp only [hzone, hc]

theorem State.boundZones_congr {t : State} (h : ∀ y, (t.zones.get y).configured = (s.zones.get y).configured ∧
    (t.zones.get y).trip = (s.zones.get y).trip) (o : OutNo) : t.boundZones o = s.boundZones o := by
  unfold boundZones
  simp only [h]

theorem State.endWait_qualified (h : ∃ y ∈ s.boundZones o, s.zoneQualifies y = true) : s.endWait o = s.openTrip o .waitExpired := by
  unfold endWait; rw [if_pos (List.any_eq_true.mpr h)]

theorem State.endWait_abandoned (h : ∀ y ∈ s.boundZones o, s.zoneQualifies y = false) : s.endWait o =
    (s.moveTrip o .closed .abandoned).reportTripAbandoned o (s.trips.get o).origin := by
  unfold endWait
  rw [if_neg]
  rw [List.any_eq_true]
  rintro ⟨y, hy, hq⟩
  rw [h y hy] at hq; cases hq

/-- A demand's output in WAITING, with its report. -/
def State.demandWaits (s : State) (o : OutNo) (z : ZoneNo) (c : ChanNo) : State :=
  (s.modTrip o fun t => { t with
    state := .waiting, lastCause := some .demand, wait := t.waitPending, origin := some (z, c)
    waitAt := if t.waitPending = 0 then none else some (s.now + t.waitPending)
    confirmAt := none }).reportTrip o .closed .demand

/-- The part of a demand up to the bound zones. -/
theorem State.startWait_moved {z : ZoneNo} {c : ChanNo} (h : (s.trips.get o).state = .closed) :
    ((s.modTrip o fun t => { t with
      wait := t.waitPending, origin := some (z, c)
      waitAt := if t.waitPending = 0 then none else some (s.now + t.waitPending) }).moveTrip o .waiting .demand) =
    ((s.demandWaits o z c).warn o (decide (0 < (s.trips.get o).waitPending))).forEach (s.boundZones o) updateView := by
  generalize hw : (s.modTrip o fun t => { t with
    wait := t.waitPending, origin := some (z, c)
    waitAt := if t.waitPending = 0 then none else some (s.now + t.waitPending) }) = w
  have hget : w.trips.get o = { s.trips.get o with
      wait := (s.trips.get o).waitPending, origin := some (z, c)
      waitAt := if (s.trips.get o).waitPending = 0 then none else some (s.now + (s.trips.get o).waitPending) } := by
    simp [← hw]
  have hmoved : w.tripMoved o .waiting .demand = s.demandWaits o z c := by
    unfold tripMoved demandWaits
    rw [hget, State.modTrip_self rfl]
    subst hw
    rw [modTrip_modTrip]
    simp [Trip.entered, h]
  have hwaitAt : decide (TripState.waiting = .waiting ∧ ((w.tripMoved o .waiting .demand).trips.get o).waitAt.isSome = true) =
      decide (0 < (s.trips.get o).waitPending) := by
    rw [hmoved]
    simp only [demandWaits, reportTrip, report_trips, modTrip_trips, get_set_entry, if_true, true_and]
    by_cases hp : (s.trips.get o).waitPending = 0
    · simp [hp]
    · simp [hp, Nat.pos_of_ne_zero hp]
  have hmove : w.moveTrip o .waiting .demand = ((w.tripMoved o .waiting .demand).warn o
      (decide (TripState.waiting = .waiting ∧ ((w.tripMoved o .waiting .demand).trips.get o).waitAt.isSome = true))).outputChanged
        o := rfl
  rw [hmove, hwaitAt, hmoved]
  generalize hv : (s.demandWaits o z c).warn o (decide (0 < (s.trips.get o).waitPending)) = v
  have hzones : v.zones = s.zones := by
    rw [← hv]
    unfold warn; split
    · rfl
    · dsimp only; split
      · rfl
      · split <;> rfl
  have hbound : v.boundZones o = s.boundZones o := boundZones_congr (fun y => by rw [hzones]; exact ⟨rfl, rfl⟩) o
  have hstate : (v.trips.get o).state = .waiting := by
    rw [← hv, warn_trips]; simp [demandWaits, reportTrip]
  unfold outputChanged
  rw [hbound]
  refine forEach_followOutput fun y hy => ?_
  rw [viewOf_bound (hbound ▸ hy : y ∈ v.boundZones o), hstate]
  decide

end demands

/-- Settles O32: `demand` in each state and mode, a wait by `startWait_moved`. -/
theorem tripDemand : Obligations.TripDemand := by
  intro s o z c x
  refine ⟨fun h => ?_, fun h hm => ?_, fun h hm => ?delayed⟩
  · unfold State.demand; rw [if_neg h]
  · unfold State.demand; rw [if_pos h]; dsimp only [x] at hm; rw [hm]
  case delayed =>
    intro after waiting warned
    have hdemand : after = s.startWait o z c := by
      dsimp only [after]
      unfold State.demand; rw [if_pos h]; dsimp only [x] at hm; rw [hm]
    have hstart := State.startWait_moved (z := z) (c := c) h
    have hwaiting : s.demandWaits o z c = waiting := rfl
    rw [hwaiting] at hstart
    have hwarning : (waiting.trips.get o).warning = x.warning := by simp [waiting, State.reportTrip, x]
    have hsignals : waiting.signals = s.signals := rfl
    refine ⟨fun hp => ?_, fun hp hnot => ?_⟩
    · have hwarned : waiting.warn o true = warned := by
        unfold State.warn
        rw [hwarning, hsignals]
        dsimp only [warned]
        cases x.warning with
        | none => rfl
        | some g => by_cases hd : Driver.warning o ∈ (s.signals.get g).drivers <;> simp [hd]
      have hafter : after = warned.forEach (s.boundZones o) State.updateView := by
        rw [hdemand]
        unfold State.startWait
        dsimp only
        rw [if_neg (Nat.pos_iff_ne_zero.mp hp)]
        refine hstart.trans ?_
        rw [decide_eq_true hp, hwarned]
      obtain ⟨htrips, hsig, -, -, hzones⟩ := State.forEach_updateView (s.boundZones o) warned
      refine ⟨hafter, fun g hg => ?_, fun y hy => ?_⟩
      · rw [hafter, hsig]
        dsimp only [warned]
        rw [hg]
        dsimp only [Option.elim]
        split
        · next hd => exact hd
        · rw [State.changeDrivers_get]
          simp
      · have hwz : warned.zones = s.zones := by
          dsimp only [warned]
          cases x.warning with
          | none => rfl
          | some g => dsimp only [Option.elim]; split <;> rfl
        have hwt : warned.trips = waiting.trips := by
          dsimp only [warned]
          cases x.warning with
          | none => rfl
          | some g => dsimp only [Option.elim]; split <;> rfl
        have hbound : y ∈ warned.boundZones o := by
          rw [State.boundZones_congr (s := s) (fun y => by rw [hwz]; exact ⟨rfl, rfl⟩)]; exact hy
        have hview := State.viewOf_bound hbound
        rw [hwt, show (waiting.trips.get o).state = .waiting by simp [waiting, State.reportTrip]] at hview
        rw [hafter, hzones, if_pos hy, hview]
    · intro tested
      have hquiet : waiting.warn o false = waiting := by
        unfold State.warn
        rw [hwarning, hsignals]
        cases hw : x.warning with
        | none => rfl
        | some g => simp [hnot g hw]
      obtain ⟨htrips, -, hchannels, -, hzones⟩ := State.forEach_updateView (s.boundZones o) waiting
      have hafter : after = tested.endWait o := by
        rw [hdemand]
        unfold State.startWait
        dsimp only
        rw [if_pos hp]
        refine congrArg (fun t : State => t.endWait o) (hstart.trans ?_)
        rw [decide_eq_false (by show ¬0 < x.waitPending; omega), hquiet]
      have hbound : tested.boundZones o = s.boundZones o := State.boundZones_congr (fun y => by
        rw [hzones]; split <;> exact ⟨rfl, rfl⟩) o
      have hqual : ∀ y, tested.zoneQualifies y = s.zoneQualifies y := State.zoneQualifies_congr hchannels fun y => by
        rw [hzones]; split <;> rfl
      have horigin : (tested.trips.get o).origin = some (z, c) := by rw [htrips]; simp [waiting, State.reportTrip]
      refine ⟨fun hq => hafter.trans (State.endWait_qualified ?_), fun hq => hafter.trans ?_⟩
      · simpa only [hbound, hqual] using hq
      · rw [State.endWait_abandoned (by simpa only [hbound, hqual] using hq), horigin]

/-! ## Expiries (R52, R54, R58) -/

section expiries
variable {s : State} {o : OutNo}

theorem State.expiry_some (t : Time) (f : State → State) : s.expiry (some t) f = f (s.reach t) := rfl

theorem exec_waitExpiry (h : s.slp.inReset = none) : exec (.waitExpiry o) s =
    .next (s.expiry (s.trips.get o).waitTimer fun s => (s.endWait o).settle).beginSending :=
  congrArg Host.Outcome.next (State.event_operating h _)

theorem exec_confirmExpiry (h : s.slp.inReset = none) : exec (.confirmExpiry o) s =
    .next (s.expiry ((s.trips.get o).confirmTimer .opening) fun s => (s.confirmEnds o).settle).beginSending :=
  congrArg Host.Outcome.next (State.event_operating h _)

theorem exec_closeConfirmExpiry (h : s.slp.inReset = none) : exec (.closeConfirmExpiry o) s =
    .next (s.expiry ((s.trips.get o).confirmTimer .closed) fun s => s.closeConfirmEnds o).beginSending :=
  congrArg Host.Outcome.next (State.event_operating h _)

/-- A change to UNCONFIRMED without a backup is the change alone. -/
theorem State.unconfirm_alone {cause : TripCause} (h : (s.trips.get o).backup = none) :
    s.unconfirm o cause = s.moveTrip o .unconfirmed cause := by
  unfold unconfirm; dsimp only
  rw [moveTrip_backup, h]; rfl

theorem State.unconfirm_backup {cause : TripCause} {b : OutNo} (h : (s.trips.get o).backup = some b) :
    s.unconfirm o cause = (s.moveTrip o .unconfirmed cause).tripNow b .backup := by
  unfold unconfirm; dsimp only
  rw [moveTrip_backup, h]; rfl

end expiries

/-- Settles O33: `endWait` at the moment of the expiry. -/
theorem waitExpiry : Obligations.WaitExpiry := by
  intro s o hs x
  refine ⟨fun h => ?_, fun t hx ht => ?_⟩
  · have hnone : x.waitTimer = none := by
      unfold Trip.waitTimer
      rcases h with h | h
      · exact if_neg h
      · rw [h]; exact ite_self _
    rw [exec_waitExpiry hs, show (s.trips.get o).waitTimer = none from hnone]; rfl
  · intro qualified
    have hexec : exec (.waitExpiry o) s = .next (((s.reach t).endWait o).settle).beginSending := by
      have hsome : x.waitTimer = some t := by unfold Trip.waitTimer; rw [if_pos hx, ht]
      rw [exec_waitExpiry hs, show (s.trips.get o).waitTimer = some t from hsome]; rfl
    have hqual : qualified ↔ ∃ y ∈ (s.reach t).boundZones o, (s.reach t).zoneQualifies y = true := by
      constructor
      · rintro ⟨z, hc, hz, hq⟩; exact ⟨z, State.mem_boundZones.mpr ⟨hc, hz⟩, hq⟩
      · rintro ⟨z, hz, hq⟩
        obtain ⟨hc, hz⟩ := State.mem_boundZones.mp hz
        exact ⟨z, hc, hz, hq⟩
    have habandon (h : ¬qualified) : (s.reach t).endWait o =
        ((s.reach t).moveTrip o .closed .abandoned).reportTripAbandoned o x.origin :=
      State.endWait_abandoned fun y hy => by
        rw [Bool.eq_false_iff]; exact fun hq => h (hqual.mpr ⟨y, hy, hq⟩)
    refine ⟨fun h => by rw [hexec, State.endWait_qualified (hqual.mp h)], fun h => by rw [hexec, habandon h],
      fun hb hw ho => ?_⟩
    have hnot : ¬qualified := fun h => by
      obtain ⟨y, hy, -⟩ := hqual.mp h
      rw [show (s.reach t).boundZones o = [] from hb] at hy; cases hy
    have hstate : ((s.reach t).trips.get o).state = .waiting := hx
    rw [hexec, habandon hnot, State.moveTrip_free (s := s.reach t) (by decide) hb hw,
      State.tripMoved_eq (s.reach t) o .abandoned (by decide), hstate]
    refine congrArg (fun u : State => Host.Outcome.next u.beginSending) (State.settle_nil ?_)
    exact ho

/-- Settles O34: the confirm timer in OPENING and in CLOSED. -/
theorem confirmExpiries : Obligations.ConfirmExpiries := by
  intro s o hs x
  have htimer (st : TripState) (h : x.state ≠ st ∨ x.confirmAt = none) : (s.trips.get o).confirmTimer st = none := by
    unfold Trip.confirmTimer
    rcases h with h | h
    · exact if_neg h
    · rw [show (s.trips.get o).confirmAt = none from h]; exact ite_self _
  refine ⟨fun h => by rw [exec_confirmExpiry hs, htimer .opening h]; rfl,
    fun h => by rw [exec_closeConfirmExpiry hs, htimer .closed h]; rfl, fun t ht => ⟨fun hx => ?_, fun hx => ?_⟩⟩
  · have hsome : (s.trips.get o).confirmTimer .opening = some t := by unfold Trip.confirmTimer; rw [if_pos hx]; exact ht
    have hexec : exec (.confirmExpiry o) s = .next ((s.reach t).unconfirm o .confirmTimeout).settle.beginSending := by
      rw [exec_confirmExpiry hs, hsome]; rfl
    refine ⟨hexec, fun hb hw hn ho => ?_⟩
    have hstate : ((s.reach t).trips.get o).state = .opening := hx
    rw [hexec, State.unconfirm_alone (s := s.reach t) hn, State.moveTrip_free (s := s.reach t) (by decide) hb hw,
      State.tripMoved_eq (s.reach t) o .confirmTimeout (by decide), hstate]
    refine congrArg (fun u : State => Host.Outcome.next u.beginSending) (State.settle_nil ?_)
    exact ho
  · have hsome : (s.trips.get o).confirmTimer .closed = some t := by unfold Trip.confirmTimer; rw [if_pos hx]; exact ht
    rw [exec_closeConfirmExpiry hs, hsome]; rfl

/-! ## Feedback and manual inputs (R49, R50, R55) -/

section pins
variable {s : State} {o : OutNo}

theorem State.pinEvent_reset {l f : State → State} (h : s.slp.inReset.isSome = true) : s.pinEvent l f = l s := by
  unfold pinEvent; rw [if_pos h]

theorem State.pinEvent_operating {l f : State → State} (h : s.slp.inReset = none) : s.pinEvent l f = (f s).beginSending := by
  unfold pinEvent; rw [h]; rfl

end pins

/-- Settles O35: the reading read again, and `unconfirm` with its backup. -/
theorem feedbackChange : Obligations.FeedbackChange := by
  refine ⟨fun s o high => ?pin, fun s o cause => ?backup⟩
  case pin =>
    intro x i noted off
    refine ⟨fun h => congrArg Host.Outcome.next (State.pinEvent_reset h), fun h => ?_⟩
    have hexec : exec i s = .next ((s.rereadFeedback o fun t => { t with feedbackHigh := high }).settle).beginSending :=
      congrArg Host.Outcome.next (State.pinEvent_operating h)
    have hget : noted.trips.get o = { x with feedbackHigh := high } := by simp [noted, x]
    have hoff : ({ x with feedbackHigh := high } : Trip).powerOff = off := by
      simp only [Trip.powerOff, off]
      cases high <;> cases x.sense <;> rfl
    have hsame (h : off = x.powerOff) : (s.rereadFeedback o fun t => { t with feedbackHigh := high }) = noted :=
      State.rereadFeedback_same (hoff.trans h)
    have hchanged (h : off ≠ x.powerOff) : (s.rereadFeedback o fun t => { t with feedbackHigh := high }) = noted.feedbackEvent o :=
      State.rereadFeedback_changed (fun e => h (hoff.symm.trans e))
    refine ⟨fun he ho => ?_, fun hne => ⟨fun hx hp ho => ?_, fun hx hp => ?_, fun hx hp => ?_, fun hx ho => ?_⟩⟩
    · rw [hexec, hsame he, State.settle_nil (s := noted) ho]
    all_goals rw [hexec, hchanged hne]
    · rw [State.feedbackEvent_closed (by rw [hget]; exact hx) (by rw [hget, hoff]; exact hp)]
      refine congrArg (fun u : State => Host.Outcome.next u.beginSending) (State.settle_nil ?_)
      exact ho
    · rw [State.feedbackEvent_opened (by rw [hget]; exact hx) (by rw [hget, hoff]; exact hp)]
    · rw [State.feedbackEvent_off (by rw [hget]; exact hx) (by rw [hget, hoff]; exact hp)]
    · rw [State.feedbackEvent_none (by rw [hget, hoff]; exact hx), State.settle_nil (s := noted) ho]
  case backup =>
    intro moved after
    refine ⟨State.unconfirm_alone, fun b hb => ?_⟩
    intro ready
    have hafter : after = moved.tripNow b .backup := State.unconfirm_backup hb
    refine ⟨fun hr => ?_, fun hr => ?_⟩
    · obtain ⟨hne, hst⟩ := hr
      exact hafter.trans (State.tripNow_closed (by rw [State.moveTrip_other hne]; exact hst))
    · refine hafter.trans ?_
      by_cases hbo : b = o
      · subst hbo
        refine State.tripNow_other ?_ ?_ <;> rw [State.moveTrip_state] <;> decide
      · have hst : ¬((s.trips.get b).state = .closed ∨ (s.trips.get b).state = .waiting) := fun h => hr ⟨hbo, h⟩
        refine State.tripNow_other ?_ ?_ <;> rw [State.moveTrip_other hbo] <;> tauto

/-- Settles O37: the level, the flag and the report of a changed reading. -/
theorem faultSense : Obligations.FaultSense := by
  intro s g bad noted
  refine ⟨fun h => congrArg Host.Outcome.next (State.pinEvent_reset h), fun h => ?_⟩
  have hexec : exec (.faultSenseChange g bad) s = .next (s.senseChange g bad).beginSending :=
    congrArg Host.Outcome.next (State.pinEvent_operating h)
  refine ⟨fun he => ?_, fun he => ?_⟩
  · rw [hexec]; unfold State.senseChange; rw [if_pos he]
  · have hfault : (noted.signals.get g).fault = bad := by simp [noted]
    have hchange : s.senseChange g bad = noted.reportSignalFault g := by unfold State.senseChange; rw [if_neg he]
    rw [hexec, hchange]
    unfold State.reportSignalFault
    rw [hfault]
    cases bad <;> rfl

/-- Settles O36: the edge that leads to the active level, in each state of the output. -/
theorem manualInput : Obligations.ManualInput := by
  intro s o high i hi x noted active trips
  have hpin : exec i s = .next (s.pinEvent (fun s => s.manualPin o high) fun s => (s.manualLevel o high).settle) := by
    rcases hi with rfl | rfl <;> rfl
  refine ⟨fun h => hpin.trans (congrArg Host.Outcome.next (State.pinEvent_reset h)), fun h => ?_⟩
  have hexec : exec i s = .next ((s.manualLevel o high).settle).beginSending :=
    hpin.trans (congrArg Host.Outcome.next (State.pinEvent_operating h))
  have hget : noted.trips.get o = { x with manualHigh := high } := by simp [noted, x]
  have hactive : (noted.trips.get o).manualActive = true ↔ active := by
    rw [hget, manualActive_eq]; simp [active]
  have htrip (ht : trips) : s.manualLevel o high = noted.openTrip o .manual := by
    obtain ⟨hne, ha, hst⟩ := ht
    unfold State.manualLevel
    rw [if_neg hne]
    refine (if_pos (hactive.mpr ha)).trans (State.tripNow_closed ?_)
    rw [show (s.modTrip o fun t => { t with manualHigh := high }).trips.get o = _ from hget]; exact hst
  have hquiet (ht : ¬trips) : s.manualLevel o high = noted := by
    unfold State.manualLevel
    by_cases hne : x.manualHigh = high
    · refine (if_pos hne).trans (State.modTrip_self ?_).symm
      rw [← hne]
    · refine (if_neg hne).trans ?_
      by_cases ha : active
      · have hst : ¬(x.state = .closed ∨ x.state = .waiting) := fun hst => ht ⟨hne, ha, hst⟩
        refine (if_pos (hactive.mpr ha)).trans (State.tripNow_other ?_ ?_) <;>
          rw [show (s.modTrip o fun t => { t with manualHigh := high }).trips.get o = _ from hget] <;> tauto
      · exact if_neg fun e => ha (hactive.mp e)
  refine ⟨fun ht => by rw [hexec, htrip ht], fun ht ho => by rw [hexec, hquiet ht, State.settle_nil (s := noted) ho],
    fun ht hp hw z hb => ?_⟩
  intro y hv hview opening seen
  have hmoved : noted.tripMoved o .opening .manual = opening := by
    have hstate : (noted.trips.get o).state = x.state := by rw [hget]
    rw [State.tripMoved_eq _ _ _ (by decide), hstate]; rfl
  have hopening : opening.warn o false = opening := by
    unfold State.warn
    rw [show (opening.trips.get o).warning = none by simp [opening, State.reportTrip, hget, hw]]
  have hopen : noted.openTrip o .manual = opening.followOutput z := by
    rw [State.openTrip_on (by rw [hget]; exact hp), State.moveTrip_eq _ _ _ (by decide), hmoved, hopening,
      show noted.boundZones o = [z] from hb]; rfl
  have hzb : z ∈ opening.boundZones o := by rw [show opening.boundZones o = [z] from hb]; exact List.mem_singleton_self z
  have hnew : opening.viewOf z = some .opening := by
    rw [State.viewOf_bound hzb]; simp [opening, State.reportTrip]
  have hopens : opening.viewOpens z = true := by
    have : (opening.zones.get z).view ≠ some .opening := hview
    simp [State.viewOpens, hnew, this]
  have hseen : opening.updateView z = seen := by
    have hzone : opening.zones.get z = y := rfl
    rw [State.updateView_new (by rw [hnew]; exact fun e => hview e.symm), hnew, State.reportZone_view,
      State.hlcPowerView_empty (by simpa using (show (opening.zones.get z).vehicles = [] from hv))]
    rfl
  have hfollow : opening.followOutput z = seen.startBound deferStart y.onTrip z .zoneTrip := by
    rw [State.followOutput_opens hopens, hseen]; rfl
  refine ⟨fun hn ho => ?_, fun p hn => ?_⟩
  · rw [hexec, htrip ht, hopen, hfollow, hn]
    exact congrArg (fun u : State => Host.Outcome.next u.beginSending) (State.settle_nil (s := seen) ho)
  · rw [hexec, htrip ht, hopen, hfollow, hn]; rfl

/-! ## SET_ZONE (R3 to R5) -/

section setZone
variable {s : State} {z : ZoneNo}

theorem zoneWritten?_range {f : ZoneFields} {x : ZoneNo × Zone} (h : zoneWritten? f = some x) :
    (1 ≤ f.zone ∧ f.zone ≤ 16) ∧ f.state < 2 ∧ f.key ≤ 15 ∧ f.trip ≤ 6 ∧ f.onAlarm ≤ 32 ∧ f.onFault ≤ 32 ∧ f.onTrip ≤ 32 ∧
      f.onEmergency ≤ 32 := by
  simp only [zoneWritten?, Option.bind_eq_bind, Option.bind_eq_some_iff] at h
  obtain ⟨z, hz, b, hb, k, hk, o, ho, a, ha, e, he, t, ht, m, hm, -⟩ := h
  have hkey : f.key ≤ 15 := by
    by_contra hn
    rw [key?_eq_none.mpr (by omega)] at hk; cases hk
  exact ⟨index?_range hz, named_range hb, hkey, optIndex?_range ho, optIndex?_range ha, optIndex?_range he, optIndex?_range ht,
    optIndex?_range hm⟩

theorem zoneWritten?_numbers (z : ZoneNo) (cfg : Bool) (k : Key) (out : Option OutNo) (a f t e : Option ProgNo) :
    zoneWritten? ⟨number z, if cfg then 0 else 1, k.val, optNo out, optNo a, optNo f, optNo t, optNo e⟩ =
      some (z, { configured := cfg, key := k, trip := out, onAlarm := a, onFault := f, onTrip := t, onEmergency := e }) := by
  simp [zoneWritten?, configuredStates_get]

/-- What the vehicles present make of a new view: the reason TRIP joins or goes with the tripped views. -/
theorem State.hlcPowerView_same (p n : Option TripState) (h : isTripped n = isTripped p) : s.hlcPowerView z p n = s := by
  unfold hlcPowerView; dsimp only
  cases hp : isTripped p <;> simp [h, hp]

theorem State.hlcPowerView_trips {p n : Option TripState} (hn : isTripped n = true) (hp : isTripped p = false) :
    s.hlcPowerView z p n = ((s.zones.get z).vehicles.filter fun v => stopsOnTrip (s.vehicles.get v).kind).foldl
      (fun t v => t.addReason v .trip) s := by
  unfold hlcPowerView; dsimp only; rw [hn, hp]; rfl

theorem State.hlcPowerView_clears {p n : Option TripState} (hn : isTripped n = false) (hp : isTripped p = true) :
    s.hlcPowerView z p n = (s.zones.get z).vehicles.foldl (fun t v => t.removeReason v .trip) s := by
  unfold hlcPowerView; dsimp only; rw [hn, hp]; rfl

theorem isTripped_iff (v : Option TripState) :
    isTripped v = true ↔ v = some .opening ∨ v = some .opened ∨ v = some .unconfirmed := by
  cases v with
  | none => decide
  | some x => cases x <;> decide

theorem stopsOnTrip_eq (k : VehicleKind) : stopsOnTrip k = (k != .service) := by cases k <;> rfl

theorem State.openOrHeld_iff {o : Option OutNo} : s.openOrHeld o = true ↔
    ∀ p, o = some p → (s.trips.get p).state = .opened ∨ (s.trips.get p).state = .held := by
  cases o <;> simp [openOrHeld]

theorem State.bindingsDefined_eq_false {l : List (Option ProgNo)} : s.bindingsDefined l = false ↔
    ∃ p : ProgNo, some p ∈ l ∧ (s.programs.get p).defined = false := by
  simp only [bindingsDefined, List.all_eq_false, Option.all_eq_true, Bool.not_eq_true]
  constructor
  · rintro ⟨p, hp, hn⟩
    cases p with
    | none => exact absurd hn (by simp)
    | some p => exact ⟨p, hp, by simpa using hn⟩
  · rintro ⟨p, hp, hn⟩
    exact ⟨some p, hp, by simpa using hn⟩

theorem State.zoneBusy_iff : s.zoneBusy z = true ↔ s.inUse z = true ∨ (s.zones.get z).evac ≠ .none ∨
    (∃ r : RunnerNo, (s.runners.get r).state ≠ .idle ∧ (s.runners.get r).zone = some z) ∨
    (∃ q ∈ s.startQueue, q.req.zone = z) ∨
      ¬∀ p, (s.zones.get z).trip = some p → (s.trips.get p).state = .opened ∨ (s.trips.get p).state = .held := by
  rw [← openOrHeld_iff]
  simp [zoneBusy, evacuating, allOf, Runner.running, or_assoc]

end setZone

/-- Settles O19. -/
theorem setZone : Obligations.SetZone := by
  refine ⟨fun s tag f hs hbad => ?outside, fun s z => ?view, fun s tag z cfg k out a f t e hs => ?checked⟩
  case outside =>
    have hnone : zoneWritten? f = none := Option.eq_none_iff_forall_ne_some.mpr fun x hx => by
      have := zoneWritten?_range hx; omega
    exact exec_refused hs (r := .setZone f) (x := .badValue) rfl (by simp [State.handle, State.doSetZone, hnone])
  case view =>
    intro x tripped new hnew told
    have hview : s.viewOf z = new := by
      rw [hnew]; unfold State.viewOf State.zoneOutput
      by_cases hc : (s.zones.get z).configured = true <;> simp [hc, x]
    have htold : (s.modZone z fun y => { y with view := s.viewOf z }).reportZone z x.summary x.view = told := by
      rw [hview, State.reportZone_view]
      simp only [told, State.countsField, x, List.append_assoc]
    have hchanged (h : new ≠ x.view) : s.updateView z = told.hlcPowerView z x.view new := by
      rw [State.updateView_new (by rw [hview]; exact h), ← htold, hview]
    have htripped : ∀ v, tripped v ↔ isTripped v = true := fun v => (isTripped_iff v).symm
    have hzone : (told.zones.get z).vehicles = x.vehicles := by simp [told, x]
    refine ⟨fun h => State.updateView_same (hview.trans h), fun h hsame => ?_, fun hn hp => ?_, fun hp hn => ?_⟩
    · rw [hchanged h]
      refine State.hlcPowerView_same _ _ (Bool.eq_iff_iff.mpr ?_)
      rw [← htripped, ← htripped]; exact hsame
    · have hne : new ≠ x.view := fun h => hp (h ▸ hn)
      rw [hchanged hne, State.hlcPowerView_trips ((htripped _).mp hn) (by
        rw [Bool.eq_false_iff]; exact fun h => hp ((htripped _).mpr h)), hzone]
      simp only [stopsOnTrip_eq]; rfl
    · have hne : new ≠ x.view := fun h => hn (h ▸ hp)
      rw [hchanged hne, State.hlcPowerView_clears (by
        rw [Bool.eq_false_iff]; exact fun h => hn ((htripped _).mpr h)) ((htripped _).mp hp), hzone]
  case checked =>
    intro old new c undefined openOrHeld busy bound stuck rewritten
    have hbound : boundBefore old new = bound := by
      simp only [boundBefore, bound, new]
      cases old.configured <;> cases cfg <;> rfl
    have hundefined : (s.slp.mode = .run ∧ s.bindingsDefined [a, f, t, e] = false) ↔ undefined := by
      simp only [State.bindingsDefined_eq_false, undefined, List.mem_cons, List.not_mem_nil, or_false,
        @eq_comm (Option ProgNo) (some _)]
    have hbusy : (old.configured = true ∧ cfg = false ∧ s.zoneBusy z = true) ↔ busy := by
      simp only [State.zoneBusy_iff, busy, openOrHeld, old]
    have hstuck : (bound ≠ out ∧ (s.openOrHeld bound && s.openOrHeld out) = false) ↔ stuck := by
      simp only [stuck, ← Bool.not_eq_true, Bool.and_eq_true, State.openOrHeld_iff, openOrHeld]
    have hdo : s.handle (.setZone ⟨number z, if cfg then 0 else 1, k.val, optNo out, optNo a, optNo f, optNo t, optNo e⟩) =
        if undefined then s.refuse .badValue else if busy then s.refuse .busy
        else if stuck then s.refuse .wrongMode else (s.writeZone z new).accept := by
      simp only [State.handle, State.doSetZone, zoneWritten?_numbers]
      dsimp only [new] at hbound
      rw [hbound]
      simp only [hundefined, show ((s.zones.get z).configured = true ∧ cfg = false ∧ s.zoneBusy z = true) ↔ busy from hbusy,
        hstuck]
      rfl
    refine ⟨fun hu => exec_refused hs (r := .setZone _) (x := .badValue) rfl (by rw [hdo, if_pos hu]),
      fun hu hb => exec_refused hs (r := .setZone _) (x := .busy) rfl (by rw [hdo, if_neg hu, if_pos hb]),
      fun hu hb hk => exec_refused hs (r := .setZone _) (x := .wrongMode) rfl (by rw [hdo, if_neg hu, if_neg hb, if_pos hk]),
      fun hu hb hk => ?_⟩
    have hwrite {u : State} (h : s.writeZone z new = u) : exec c s = .next (u.answered tag [0x01, 0x00]) :=
      exec_accepted hs (r := .setZone _) rfl (by rw [hdo, if_neg hu, if_neg hb, if_neg hk, h])
    have hold : s.zones.get z = old := rfl
    refine ⟨fun ho hc => hwrite ?_, fun ho hc hv => hwrite ?_, fun ho hc => hwrite ?_, fun ho hc hn => hwrite ?_,
      fun hc => hwrite ?_⟩
    all_goals unfold State.writeZone; rw [hold]; dsimp only
    · rw [if_pos (by simp [ho, new, hc])]
    · rw [if_pos (by simp [ho, new, hc])]
      refine State.updateView_same ?_
      simp [State.viewOf, State.zoneOutput, hold, ho, hv, new]
    · rw [if_neg (by simp [ho]), if_pos hc]
    · rw [if_neg (by simp [ho]), if_pos hc]
      refine State.updateView_same ?_
      simp [State.viewOf, State.zoneOutput, new, hn]
    · rw [if_neg (by simp [new, hc]), if_neg (by simp [new, hc])]

end Sys2Proof.Machine
end


section
/-! PROOFS. The statements on the Air Reading Unit (R19 to R45): the arithmetic of a sample, faults and samples handed on, and
SET_CHANNEL. -/

namespace Sys2Proof.Machine

/-- A raw value inside the band, up to the zero and above it (R31, R32). -/
theorem Channel.convert_zero {x : Channel} {raw : Nat} (h : ¬raw + 100 < x.zero) (hz : raw ≤ x.zero) :
    x.convert raw = some (0, false) := by
  simp [convert, h, hz]

theorem Channel.convert_above {x : Channel} {raw : Nat} (hz : x.zero < raw) : x.convert raw =
    if rangeMax x.gas < ((raw - x.zero) * x.span + 2000) / 4000 then some (rangeMax x.gas, true)
    else some (((raw - x.zero) * x.span + 2000) / 4000, false) := by
  have : ¬raw + 100 < x.zero := by omega
  simp [convert, this, hz.not_ge]

/-- Settles O24: the four cases of `convert` by the place of the raw value from the zero. -/
theorem sampleConversion : Obligations.SampleConversion := by
  intro x raw hz hraw d v
  have hv (h : 1 ≤ d) : ((raw - x.zero) * x.span + 2000) / 4000 = v := by
    have : d.toNat = raw - x.zero := by omega
    simp only [v, this]
  refine ⟨fun hd => if_pos (by omega), fun hlow hd => Channel.convert_zero (by omega) (by omega), fun hd hmax => ?within,
    fun hd hmax => ?held⟩
  all_goals rw [Channel.convert_above (by omega), hv hd]
  case within => exact if_neg (Nat.not_lt.mpr hmax)
  case held => exact if_pos hmax

/-! ## A sample entered (R33, R34, R37) -/

section entered
variable {x : Channel} (now v : Nat) (sat : Bool)

@[simp] theorem Channel.checkRate_window (x : Channel) : x.checkRate.window = x.window := by
  unfold checkRate; split_ifs <;> rfl

@[simp] theorem Channel.checkRate_f (x : Channel) : x.checkRate.f = x.f := by unfold checkRate; split_ifs <;> rfl

/-- The rate check between two marks, and at one. -/
theorem Channel.checkRate_between (hg : isRising x.gas = true) (hr : 0 < x.rise) (h : x.count + 1 < x.rateInterval) :
    x.checkRate = { x with count := x.count + 1 } := by
  unfold checkRate; rw [if_pos ⟨hg, hr⟩, if_neg (by omega)]

theorem Channel.checkRate_mark (hg : isRising x.gas = true) (hr : 0 < x.rise) (h : x.count + 1 = x.rateInterval) :
    x.checkRate = { x with riseSet := decide (x.mark + x.rise ≤ x.f), mark := x.f, count := 0 } := by
  unfold checkRate; rw [if_pos ⟨hg, hr⟩, if_pos h]

theorem pushWindow_room {n : Nat} {w : List Nat} (h : w.length < n) : pushWindow n w v = w ++ [v] := by
  unfold pushWindow
  dsimp only
  rw [if_neg (by simp; omega)]

theorem pushWindow_full {n : Nat} {w : List Nat} (h : w.length = n) (hn : 1 ≤ n) : pushWindow n w v = w.tail ++ [v] := by
  unfold pushWindow
  dsimp only
  rw [if_pos (by simp; omega)]
  exact List.tail_append_of_ne_nil (List.ne_nil_of_length_pos (by omega))

theorem Channel.enter_fresh (h : x.level = .fault) : x.enter now v sat =
    { x.enterFresh v with saturated := sat, lastValid := some now, staleAt := some (now + 10 * x.stale) } := by
  unfold enter; rw [if_pos h]; rfl

end entered

/-- Settles O26: the fresh record of a channel in FAULT, and the window, f and rate check of the others. -/
theorem sampleEntered : Obligations.SampleEntered := by
  intro x now v sat y
  refine ⟨rfl, fun h => ?fresh, fun h hlen hn => ?next⟩
  case fresh =>
    have hy : y = { x.enterFresh v with saturated := sat, lastValid := some now, staleAt := some (now + 10 * x.stale) } :=
      Channel.enter_fresh now v sat h
    rw [hy]
    refine ⟨rfl, rfl, rfl, rfl, rfl, rfl, fun hg => ?_, fun hg => ?_⟩
    · exact if_pos (isRising_iff.mpr hg)
    · exact if_neg (by show ¬isRising x.gas = true; rw [isRising_eq_false_iff.mpr hg]; decide)
  case next =>
    have hy : y = { x.enterNext v with saturated := sat, lastValid := some now, staleAt := some (now + 10 * x.stale) } :=
      Channel.enter_of_not_fault now v sat h
    have hwindow : y.window = pushWindow x.filter x.window v := by rw [hy]; simp [Channel.enterNext]
    have hf : y.f = filtered (pushWindow x.filter x.window v) := by rw [hy]; simp [Channel.enterNext]
    refine ⟨fun hl => hwindow.trans (pushWindow_room v hl), fun hl => hwindow.trans (pushWindow_full v hl hn), ?_,
      fun hg hr => ⟨fun hc => ?_, fun hc => ?_⟩⟩
    · rw [hf, hwindow]; rfl
    · have hrate := Channel.checkRate_between (x := { x with
        window := pushWindow x.filter x.window v, f := filtered (pushWindow x.filter x.window v) }) hg hr hc
      rw [hy]
      unfold Channel.enterNext
      dsimp only
      rw [hrate]; exact ⟨rfl, rfl, rfl⟩
    · have hrate := Channel.checkRate_mark (x := { x with
        window := pushWindow x.filter x.window v, f := filtered (pushWindow x.filter x.window v) }) hg hr hc
      rw [hf, hy]
      unfold Channel.enterNext
      dsimp only
      rw [hrate]; exact ⟨rfl, rfl, decide_eq_true_iff⟩

/-! ## Summaries, faults and samples (R6, R7, R28 to R30, R38, R39, R41) -/

section summaries
variable {s : State} {z : ZoneNo} {c : ChanNo} {st : Starter}

theorem summaryRank_injective : Function.Injective summaryRank := by intro a b; cases a <;> cases b <;> decide

/-- A zone's grade is the summary that no channel outranks and that NORMAL or a channel attains. -/
theorem State.gradeOf_eq_of {new : Summary}
    (hmax : ∀ d, s.channelZone d = some z → summaryRank (summaryOf (s.channels.get d).level) ≤ summaryRank new)
    (hat : new = .normal ∨ ∃ d, s.channelZone d = some z ∧ summaryOf (s.channels.get d).level = new) : s.gradeOf z = new := by
  refine summaryRank_injective (le_antisymm ?_ ?_)
  · rcases s.gradeOf_attained z with h | ⟨d, hd, h⟩
    · rw [h]; exact Nat.zero_le _
    · rw [h]; exact hmax d hd
  · rcases hat with h | ⟨d, hd, h⟩
    · rw [h]; exact Nat.zero_le _
    · rw [← h]; exact State.le_gradeOf hd

/-- A level outranks no more than the absence of the levels above it says. -/
theorem summaryRank_summaryOf (l : Level) :
    (l ≠ .alarm → summaryRank (summaryOf l) ≤ 2) ∧ (l ≠ .alarm → l ≠ .fault → summaryRank (summaryOf l) ≤ 1) ∧
      (l ≠ .alarm → l ≠ .fault → l ≠ .alert → summaryRank (summaryOf l) ≤ 0) ∧ summaryRank (summaryOf l) ≤ 3 := by
  cases l <;> decide

/-- The grade by the levels that stand in the zone, the highest first (R6). -/
theorem State.gradeOf_ranked {new : Summary}
    (h : let has (l : Level) := ∃ d : ChanNo, s.channelZone d = some z ∧ (s.channels.get d).level = l
      new = .alarm ∧ has .alarm ∨ new = .fault ∧ ¬has .alarm ∧ has .fault ∨
        new = .alert ∧ ¬has .alarm ∧ ¬has .fault ∧ has .alert ∨
        new = .normal ∧ ¬has .alarm ∧ ¬has .fault ∧ ¬has .alert) : s.gradeOf z = new := by
  rcases h with ⟨rfl, d, hd, hl⟩ | ⟨rfl, ha, d, hd, hl⟩ | ⟨rfl, ha, hf, d, hd, hl⟩ | ⟨rfl, ha, hf, hal⟩
  · exact gradeOf_eq_of (fun e _ => (summaryRank_summaryOf _).2.2.2) (.inr ⟨d, hd, by rw [hl]; rfl⟩)
  · exact gradeOf_eq_of (fun e he => (summaryRank_summaryOf _).1 fun h => ha ⟨e, he, h⟩) (.inr ⟨d, hd, by rw [hl]; rfl⟩)
  · exact gradeOf_eq_of (fun e he => (summaryRank_summaryOf _).2.1 (fun h => ha ⟨e, he, h⟩) fun h => hf ⟨e, he, h⟩)
      (.inr ⟨d, hd, by rw [hl]; rfl⟩)
  · exact gradeOf_eq_of (fun e he => (summaryRank_summaryOf _).2.2.1 (fun h => ha ⟨e, he, h⟩) (fun h => hf ⟨e, he, h⟩)
      fun h => hal ⟨e, he, h⟩) (.inl rfl)

theorem State.recompute_same (h : (s.zones.get z).configured = false ∨ s.gradeOf z = (s.zones.get z).summary) :
    s.recompute st z = s := if_neg fun hn => by rcases h with h | h <;> simp_all

theorem State.recompute_new (hc : (s.zones.get z).configured = true) (h : s.gradeOf z ≠ (s.zones.get z).summary) :
    s.recompute st z = ((s.modZone z fun y => { y with summary := s.gradeOf z }).reportZone z (s.zones.get z).summary
      (s.zones.get z).view).startSummary st z (s.zones.get z).summary (s.gradeOf z) := if_pos ⟨hc, h⟩

theorem State.startBound_elim (p : Option ProgNo) (k : StartCause) :
    s.startBound st p z k = p.elim s fun q => st [⟨q, z, k⟩] s := by cases p <;> rfl

theorem State.startSummary_alarm {prev : Summary} (h : prev ≠ .alarm) :
    s.startSummary st z prev .alarm = (s.zones.get z).onAlarm.elim s fun q => st [⟨q, z, .zoneAlarm⟩] s :=
  (if_neg h).trans (startBound_elim _ _)

theorem State.startSummary_fault {prev : Summary} (h : prev ≠ .alarm) (hf : prev ≠ .fault) :
    s.startSummary st z prev .fault = (s.zones.get z).onFault.elim s fun q => st [⟨q, z, .zoneFault⟩] s :=
  (if_pos (by cases prev <;> simp_all [summaryRank])).trans (startBound_elim _ _)

/-- A fall to FAULT, ALERT and NORMAL send no start (R7). -/
theorem State.startSummary_none {prev new : Summary} (h : new = .fault ∧ prev = .alarm ∨ new = .alert ∨ new = .normal) :
    s.startSummary st z prev new = s := by
  rcases h with ⟨rfl, rfl⟩ | rfl | rfl
  · simp [startSummary, summaryRank]
  · rfl
  · rfl

/-- A demand with no output to go to (R43). -/
theorem State.raiseDemand_none (h : ∀ z, s.channelZone c = some z →
    (s.zones.get z).configured = false ∨ (s.zones.get z).trip = none) : s.raiseDemand st c = s := by
  unfold raiseDemand
  cases hz : s.channelZone c with
  | none => rfl
  | some z =>
    have : s.zoneOutput z = none := by rcases h z hz with h | h <;> simp [zoneOutput, h]
    simp [this]

theorem State.raiseDemand_some {o : OutNo} (hz : s.channelZone c = some z) (hc : (s.zones.get z).configured = true)
    (ho : (s.zones.get z).trip = some o) : s.raiseDemand st c = st [] (s.demand o z c) := by
  simp [raiseDemand, hz, zoneOutput, hc, ho]

/-- The summary of a channel's zone follows its report (R41). -/
def State.summed (s : State) (st : Starter) (c : ChanNo) (prev : Level) : State :=
  (s.channelZone c).elim (s.reportChannel c prev) fun z => (s.reportChannel c prev).recompute st z

theorem State.handOn_eq (x : Channel) : s.handOn st c x =
    (if (s.channels.get c).qualifies && !x.qualifies then (s.summed st c x.level).raiseDemand st c
      else s.summed st c x.level).rfmChannel st c x.level (s.channels.get c).level := rfl

theorem State.rfmChannel_other {prev new : Level} (h : new ≠ .alarm) : s.rfmChannel st c prev new = s :=
  if_neg fun hn => h hn.1

theorem exec_staleExpiry (h : s.slp.inReset = none) : exec (.staleExpiry c) s =
    .next (s.expiry (s.channels.get c).staleAt fun s => s.staleFault sendStart c).beginSending :=
  congrArg Host.Outcome.next (State.event_operating h _)

theorem State.faultEvent_out {cause : FaultCause} (h : (s.channels.get c).service = .outOfService) :
    s.faultEvent st c cause = s := if_pos h

theorem State.faultEvent_same {cause : FaultCause} (hs : (s.channels.get c).service = .inService)
    (hl : (s.channels.get c).level = .fault) (hc : (s.channels.get c).cause = some cause) : s.faultEvent st c cause = s := by
  simp [faultEvent, hs, hl, hc]

theorem State.faultEvent_other {cause : FaultCause} (hs : (s.channels.get c).service = .inService)
    (hl : (s.channels.get c).level = .fault) (hc : (s.channels.get c).cause ≠ some cause) :
    s.faultEvent st c cause = (s.modChannel c (Channel.toFault cause)).reportChannel c .fault := by
  simp [faultEvent, hs, hl, hc]

theorem State.faultEvent_first {cause : FaultCause} (hs : (s.channels.get c).service = .inService)
    (hl : (s.channels.get c).level ≠ .fault) :
    s.faultEvent st c cause = (s.modChannel c (Channel.toFault cause)).handOn st c (s.channels.get c) := by
  simp [faultEvent, hs, hl]

/-- A channel of no zone is handed on by its report alone, except at an entry into ALARM. -/
theorem State.handOn_unassigned {x : Channel} (hz : s.channelZone c = none) (hl : (s.channels.get c).level ≠ .alarm) :
    s.handOn st c x = s.reportChannel c x.level := by
  have hsum : s.summed st c x.level = s.reportChannel c x.level := by simp [summed, hz]
  have hzone : (s.reportChannel c x.level).channelZone c = none := hz
  rw [handOn_eq, rfmChannel_other hl, hsum, raiseDemand_none (by simp [hzone]), ite_self]

theorem rejection_head {status : HeadStatus} {raw : Nat} (h : status = .fault ∨ 4080 ≤ raw) :
    rejection status raw = some .head := by
  rcases h with rfl | h
  · rfl
  · cases status <;> simp [rejection, h]

/-- A sample on a channel IN service at each of its checks (R29 to R31). -/
theorem State.sample_rejected {status : HeadStatus} {raw : Nat} {cause : FaultCause}
    (hs : (s.channels.get c).service = .inService) (h : rejection status raw = some cause) :
    s.sample st c status raw = s.faultEvent st c cause := by simp [sample, hs, h]

theorem State.sample_below {raw : Nat} (hs : (s.channels.get c).service = .inService) (h : raw ≤ 4079)
    (hv : (s.channels.get c).convert raw = none) : s.sample st c .ok raw = s.faultEvent st c .underRange := by
  have : rejection .ok raw = none := if_neg (by omega)
  simp [sample, hs, this, hv]

theorem State.sample_entered {raw v : Nat} {sat : Bool} (hs : (s.channels.get c).service = .inService) (h : raw ≤ 4079)
    (hv : (s.channels.get c).convert raw = some (v, sat)) : s.sample st c .ok raw =
      if ((s.channels.get c).enter s.now v sat).level = (s.channels.get c).level then
        s.modChannel c fun y => y.enter s.now v sat
      else (s.modChannel c fun y => y.enter s.now v sat).handOn st c (s.channels.get c) := by
  have : rejection .ok raw = none := if_neg (by omega)
  simp [sample, hs, this, hv, validSample]

end summaries

/-- Settles O28: `recompute` by the grade, `handOn` by its demand, a fault event by the channel's state, a sample at each of its
checks, and the stale expiry. -/
theorem samplesAndFaults : Obligations.SamplesAndFaults := by
  refine ⟨fun s z new => ?summary, fun s c x => ?handedOn, fun s c cause => ?events, fun s r st a b c d => ?replies,
    fun s c hs => ?stale⟩
  case summary =>
    intro x has hnew told starts after
    have hg : s.gradeOf z = new := State.gradeOf_ranked hnew
    have htold : (s.modZone z fun y => { y with summary := new }).reportZone z x.summary x.view = told := by
      rw [State.reportZone_newSummary]; simp only [State.countsField, told, x, List.append_assoc]
    have hzone : told.zones.get z = { x with summary := new } := by simp [told, x]
    refine ⟨fun h => State.recompute_same (by rw [hg]; exact h), fun hc hn => ?_⟩
    have hafter : after = told.startSummary sendStart z x.summary new := by
      have := State.recompute_new (st := sendStart) hc (by rw [hg]; exact hn)
      rwa [hg, htold] at this
    refine ⟨fun h => ?_, fun h hx => ?_, fun h => hafter.trans (State.startSummary_none h)⟩
    · subst h; rw [hafter, State.startSummary_alarm hn.symm, hzone]
    · subst h; rw [hafter, State.startSummary_fault hx hn.symm, hzone]
  case handedOn =>
    intro y told summed demands after
    have hsum : s.summed sendStart c x.level = summed := rfl
    have hafter : after = (if y.qualifies && !x.qualifies then summed.raiseDemand sendStart c else summed).rfmChannel
      sendStart c x.level y.level := State.handOn_eq x
    have hdemands : (y.qualifies && !x.qualifies) = true ↔ demands := by simp [demands]
    simp only [hdemands] at hafter
    refine ⟨fun h => by rw [hafter, if_neg h], fun h hno => by rw [hafter, if_pos h, State.raiseDemand_none hno],
      fun h z o hz hc ho => by rw [hafter, if_pos h, State.raiseDemand_some hz hc ho]⟩
  case events =>
    intro x faulted
    refine ⟨fun hs => ⟨State.faultEvent_out hs, fun st raw => if_pos hs⟩, fun hs => ⟨State.faultEvent_same hs,
      State.faultEvent_other hs, State.faultEvent_first hs, fun raw => ⟨fun st h => State.sample_rejected hs (rejection_head h),
        fun h => State.sample_rejected hs (if_neg (by omega)), State.sample_below hs, fun v sat h hv => ?_⟩⟩⟩
    rw [State.sample_entered hs h hv]
    exact ⟨fun hl => if_pos hl, fun hl => if_neg hl⟩
  case replies =>
    intro takes
    have htakes (t : State) (n : Fin 4) (raw : Nat) :
        takes t n raw = (t.headChannel r n).elim t fun c => t.sample sendStart c st raw := by
      simp only [takes]; cases t.headChannel r n <;> rfl
    simp only [htakes]; rfl
  case stale =>
    intro x
    rw [exec_staleExpiry hs]
    refine ⟨fun h => by rw [h]; rfl, fun t ht => ⟨by rw [ht]; rfl, fun hin hl hz => ?_⟩⟩
    have hfirst : (s.reach t).faultEvent sendStart c .stale = ((s.reach t).modChannel c (Channel.toFault .stale)).handOn
      sendStart c x := State.faultEvent_first (s := s.reach t) hin hl
    have hzone : ((s.reach t).modChannel c (Channel.toFault .stale)).channelZone c = none :=
      (State.channelZone_modChannel rfl rfl rfl c).trans hz
    have halone := State.handOn_unassigned (st := sendStart) (x := x) hzone (by simp [Channel.toFault])
    rw [ht]
    exact congrArg (fun u : State => Host.Outcome.next u.beginSending) (hfirst.trans halone)

/-! ## SET_CHANNEL (R23, R24) -/

section setChannel
variable {s : State} {c : ChanNo}

theorem channelWritten?_range {f : ChannelFields} {x : ChanNo × Channel} (h : channelWritten? f = some x) :
    (1 ≤ f.channel ∧ f.channel ≤ 32) ∧ f.state < 2 ∧ f.gas < 4 ∧ f.qualification < 3 ∧
      match f.source with
      | .head p a n => ((1 ≤ p ∧ p ≤ 8) ∧ 1 ≤ a ∧ a ≤ 31) ∧ (1 ≤ n ∧ n ≤ 4) ∧ 1 ≤ f.zone ∧ f.zone ≤ 16
      | .vehicle v => 1 ≤ v ∧ v ≤ 12
      | .other _ => False := by
  simp only [channelWritten?, Option.bind_eq_bind, Option.bind_eq_some_iff] at h
  obtain ⟨d, hd, cfg, hcfg, gas, hgas, q, hq, src, hsrc, hzone⟩ := h
  refine ⟨index?_range hd, named_range hcfg, named_range hgas, named_range hq, ?_⟩
  cases hf : f.source with
  | other k => rw [hf] at hsrc; simp [source?] at hsrc
  | vehicle v =>
    rw [hf] at hsrc
    obtain ⟨w, hw, -⟩ := Option.map_eq_some_iff.mp hsrc
    exact index?_range hw
  | head p a n =>
    rw [hf] at hsrc
    simp only [source?, Option.bind_eq_bind, Option.bind_eq_some_iff] at hsrc
    obtain ⟨r, hr, k, hk, hsome⟩ := hsrc
    obtain rfl : Source.head r k = src := Option.some.inj hsome
    obtain ⟨_, hz, -⟩ := Option.bind_eq_some_iff.mp hzone
    obtain ⟨w, hw, -⟩ := Option.map_eq_some_iff.mp hz
    exact ⟨devRef?_range hr, index?_range hk, index?_range hw⟩

/-- The raw source that names a source. -/
def Source.raw : Source → RawSource
  | .head r n => .head (number r.spur) (number r.addr) (number n)
  | .vehicle v => .vehicle (number v)

/-- The zone that a SET_CHANNEL writes: none for a vehicle's source. -/
def Source.zoneWritten (source : Source) (z : ZoneNo) : Option ZoneNo :=
  match source with
  | .head .. => some z
  | .vehicle _ => none

theorem gasTypes_get (g : GasType) : gasTypes[gasTypes.idxOf g]? = some g := by cases g <;> rfl

theorem qualifications_get (q : Qualification) : qualifications[qualifications.idxOf q]? = some q := by cases q <;> rfl

theorem source?_raw (source : Source) : source? source.raw = some source := by cases source <;> simp [source?, Source.raw]

/-- The fields of the SET_CHANNEL that writes a record. -/
def Channel.fields (x : Channel) (c : ChanNo) (cfg : Bool) (source : Source) (z : ZoneNo) : ChannelFields :=
  { channel := number c, state := if cfg then 0 else 1, gas := gasTypes.idxOf x.gas, source := source.raw,
    zone := number z, zero := x.zero, span := x.span, alert := x.alert, alarm := x.alarm, hysteresis := x.hysteresis,
    filter := x.filter, rateInterval := x.rateInterval, rise := x.rise, stale := x.stale,
    qualification := qualifications.idxOf x.qualification }

/-- The record that a request in range writes. -/
theorem channelWritten?_fields (x : Channel) (c : ChanNo) (cfg : Bool) (source : Source) (z : ZoneNo) :
    channelWritten? (x.fields c cfg source z) = some (c,
      { configured := cfg, gas := x.gas, source := some source, zone := source.zoneWritten z, zero := x.zero,
        span := x.span, alert := x.alert, alarm := x.alarm, hysteresis := x.hysteresis, filter := x.filter,
        rateInterval := x.rateInterval, rise := x.rise, stale := x.stale, qualification := x.qualification }) := by
  simp only [channelWritten?, Channel.fields, index?_number, configuredStates_get, gasTypes_get, qualifications_get, source?_raw,
    Option.bind_eq_bind, Option.bind_some]
  cases source <;> simp [Source.zoneWritten]

/-- The checks 4 to 7 of R23 as the obligation states them. -/
theorem Channel.fits_iff {x : Channel} {source : Source} (hs : x.source = some source) :
    (x.inRange && x.levelsFit && x.typeFits) = true ↔
      x.zero ≤ 1023 ∧ (1 ≤ x.span ∧ x.span ≤ 2000) ∧ x.alert ≤ rangeMax x.gas ∧ x.alarm ≤ rangeMax x.gas ∧
      x.hysteresis ≤ rangeMax x.gas ∧
      (x.filter = 1 ∨ x.filter = 2 ∨ x.filter = 4 ∨ x.filter = 8) ∧ (2 ≤ x.rateInterval ∧ x.rateInterval ≤ 60) ∧
      x.rise ≤ rangeMax x.gas ∧ 1 ≤ x.stale ∧ ((∃ v, source = .vehicle v) → x.stale ≤ 120) ∧
      (¬(∃ v, source = .vehicle v) → x.stale ≤ 60) ∧
      (x.gas = .ch4 ∨ x.gas = .co → 1 ≤ x.alert ∧ x.alert ≤ x.alarm ∧ x.hysteresis < x.alert) ∧
      (x.gas = .o2 ∨ x.gas = .air → x.alarm ≤ x.alert ∧ x.alert + x.hysteresis ≤ rangeMax x.gas ∧ x.rise = 0) ∧
      ((∃ v, source = .vehicle v) → x.gas = .ch4) := by
  have hon : x.onVehicle = true ↔ ∃ v, source = .vehicle v := by unfold onVehicle; rw [hs]; cases source <;> simp
  rw [← hon]
  unfold inRange levelsFit typeFits
  cases hg : x.gas <;> cases hv : x.onVehicle <;>
    simp [isRising] <;> tauto

/-- A source exists (R23 check 8). -/
def State.HasSource (s : State) : Source → Prop
  | .head r _ => ∃ e, s.deviceAt r = some e ∧ (s.devices.get e).kind = .gasHead
  | .vehicle v => (s.vehicles.get v).configured = true

theorem State.sourceExists_iff {x : Channel} {source : Source} (hx : x.source = some source) :
    s.sourceExists x = true ↔ s.HasSource source := by
  unfold sourceExists
  rw [hx]
  cases source with
  | head r n => simp [Option.isSome_iff_exists, deviceOfKind_eq_some, HasSource]
  | vehicle v => simp [HasSource]

theorem State.sourceTaken_iff {x : Channel} : s.sourceTaken c x = true ↔
    ∃ d : ChanNo, d ≠ c ∧ (s.channels.get d).configured = true ∧ (s.channels.get d).source = x.source := by
  simp [sourceTaken, allOf, and_assoc]

/-- The summaries of the zone left and the zone joined (R6). -/
def State.moveSummaries (t : State) (left now : Option ZoneNo) : State :=
  if now = left then t
  else
    let u := left.elim t fun z => t.recompute sendStart z
    now.elim u fun z => u.recompute sendStart z

theorem State.moveSummaries_eq (t : State) (left now : Option ZoneNo) :
    (if now = left then t else t.recomputeZones sendStart left now) = t.moveSummaries left now := by
  unfold moveSummaries recomputeZones
  split_ifs with h
  · rfl
  · rfl

/-- A record written whole: the summaries, then the demand of a channel that has come to qualify or qualifies in another zone. -/
theorem State.writeChannel_eq {x : Channel} {joined : Option ZoneNo} (hx : x.cleared = x)
    (hj : (s.modChannel c fun _ => x).channelZone c = joined) : s.writeChannel sendStart c x =
      if x.qualifies = true ∧ ((s.channels.get c).qualifies = false ∨ joined ≠ s.channelZone c) then
        ((s.modChannel c fun _ => x).moveSummaries (s.channelZone c) joined).raiseDemand sendStart c
      else (s.modChannel c fun _ => x).moveSummaries (s.channelZone c) joined := by
  unfold writeChannel
  dsimp only
  rw [hx, hj, moveSummaries_eq]
  refine if_congr ?_ rfl rfl
  simp

end setChannel

/-- Settles O22: `doSetChannel` at each of its checks, and `writeChannel` by the zone left, the zone joined and the demand. -/
theorem setChannel : Obligations.SetChannel := by
  refine ⟨fun s tag f hs => ?outside, fun s tag c cfg source zone x hs hx => ?checked⟩
  case outside =>
    intro badSource hbad
    have hnone : channelWritten? f = none := Option.eq_none_iff_forall_ne_some.mpr fun x hx => by
      obtain ⟨hc, hst, hg, hq, hsrc⟩ := channelWritten?_range hx
      simp only [badSource] at hbad
      cases hf : f.source <;> rw [hf] at hbad hsrc <;> dsimp only at hbad hsrc <;> omega
    exact exec_refused hs (r := .setChannel f) (x := .badValue) rfl (by simp [State.handle, State.doSetChannel, hnone])
  case checked =>
    intro i max onVehicle fits exists_ taken homeless left joined moved demands summed
    have hconfigured : x.configured = true := by rw [hx]
    have hsource : x.source = some source := by rw [hx]
    have hzone : x.zone = source.zoneWritten zone := by rw [hx]; cases source <;> rfl
    have hcleared : x.cleared = x := by rw [hx]; rfl
    have hlevel : x.level = .fault := by rw [hx]
    have hqualifies : x.qualifies = true ↔ x.qualification = .alarmOrFault := by
      simp [Channel.qualifies_iff, hconfigured, hlevel]
    have hjoined : (s.modChannel c fun _ => x).channelZone c = joined := by
      have hget : (s.modChannel c fun _ => x).channels.get c = x := by simp
      unfold State.channelZone
      rw [hget, if_pos hconfigured, hsource, hzone]
      cases source <;> rfl
    have hleft : ((s.modChannel c fun _ => ({} : Channel)).channelZone c) = none := by simp [State.channelZone]
    have hfits : (x.inRange && x.levelsFit && x.typeFits) = true ↔ fits := Channel.fits_iff hsource
    have hexists : s.sourceExists x = true ↔ exists_ := by
      rw [State.sourceExists_iff hsource]; cases source <;> rfl
    have htaken : s.sourceTaken c x = true ↔ taken := by rw [State.sourceTaken_iff, hsource]
    have hhomeless : (x.zone.any fun z => !(s.zones.get z).configured) = true ↔ homeless := by
      rw [hzone]; cases source <;> simp [homeless, onVehicle, Source.zoneWritten]
    have hwrite : s.writeChannel sendStart c x = if demands then summed.raiseDemand sendStart c else summed := by
      rw [State.writeChannel_eq hcleared hjoined]
      exact if_congr (by rw [hqualifies]) rfl rfl
    have hremove : s.writeChannel sendStart c {} = moved (s.modChannel c fun _ => {}) none :=
      (State.writeChannel_eq rfl hleft).trans (if_neg (by simp [Channel.qualifies]))
    have hi : i = .setChannel tag (x.fields c cfg source zone) := by
      simp only [i, Channel.fields]; cases source <;> rfl
    have hwritten : channelWritten? (x.fields c cfg source zone) = some (c, { x with configured := cfg }) := by
      rw [channelWritten?_fields, ← hzone]; congr 1; rw [hx]
    rw [hi]
    have refused {e : Status} (he : s.doSetChannel (x.fields c cfg source zone) = s.refuse e) :
        exec (.setChannel tag (x.fields c cfg source zone)) s = .next (s.answered tag [0x05, statusByte e]) :=
      exec_refused hs (r := .setChannel _) rfl he
    have accepted {t : State} (ht : s.doSetChannel (x.fields c cfg source zone) = t.accept) :
        exec (.setChannel tag (x.fields c cfg source zone)) s = .next (t.answered tag [0x05, 0x00]) :=
      exec_accepted hs (r := .setChannel _) rfl ht
    refine ⟨fun hin => refused (e := .wrongMode) (by simp [State.doSetChannel, hwritten, hin]), fun hout => ?_⟩
    have hremoved (h : cfg = false) : s.doSetChannel (x.fields c cfg source zone) =
        (moved (s.modChannel c fun _ => {}) none).accept := by
      rw [← hremove, State.doSetChannel, hwritten]; simp [hout, h]
    have hdo (h : cfg = true) : s.doSetChannel (x.fields c cfg source zone) =
        if ¬(x.inRange && x.levelsFit && x.typeFits) = true then s.refuse .badValue
        else if ¬s.sourceExists x = true then s.refuse .notFound
        else if s.sourceTaken c x = true then s.refuse .badValue
        else if (x.zone.any fun z => !(s.zones.get z).configured) = true then s.refuse .notFound
        else (s.writeChannel sendStart c x).accept := by
      have hself : ({ x with configured := true } : Channel) = x := by rw [hx]
      rw [h] at hwritten ⊢
      rw [hself] at hwritten
      simp only [State.doSetChannel, hwritten]
      rw [if_neg (by simp [hout]), if_neg (by simp [hconfigured])]
      simp only [Bool.not_eq_true]
    simp only [hfits, htaken, hhomeless] at hdo
    have written (h : cfg = true) (hf : fits) (he : exists_) (ht : ¬taken) (hh : ¬homeless) :
        s.doSetChannel (x.fields c cfg source zone) = (if demands then summed.raiseDemand sendStart c else summed).accept := by
      rw [hdo h, if_neg (not_not.mpr hf), if_neg (not_not.mpr (hexists.mpr he)), if_neg ht, if_neg hh, hwrite]
    refine ⟨fun h => accepted (hremoved h), fun h hz => accepted ((hremoved h).trans (congrArg _ (if_pos hz.symm))),
      fun h hf => refused (e := .badValue) (by rw [hdo h, if_pos hf]),
      fun h hf he => refused (e := .notFound) (by rw [hdo h, if_neg (not_not.mpr hf), if_pos (mt hexists.mp he)]),
      fun h hf he ht => refused (e := .badValue) (by
        rw [hdo h, if_neg (not_not.mpr hf), if_neg (not_not.mpr (hexists.mpr he)), if_pos ht]),
      fun h hf he ht hh => refused (e := .notFound) (by
        rw [hdo h, if_neg (not_not.mpr hf), if_neg (not_not.mpr (hexists.mpr he)), if_neg ht, if_pos hh]),
      fun h hf he ht hh => ⟨fun hd => accepted (by rw [written h hf he ht hh, if_neg hd]),
        fun hd hno => accepted (by rw [written h hf he ht hh, if_pos hd, State.raiseDemand_none hno]),
        fun hd z o hz hc ho => accepted (by rw [written h hf he ht hh, if_pos hd, State.raiseDemand_some hz hc ho])⟩,
      fun h hf he ht v hv hlist hnone => accepted ?_⟩
    have hj : joined = none := by subst hv; exact hlist
    have hstays : summed = s.modChannel c fun _ => x := if_pos (hj.trans hnone.symm)
    have hhome : ¬homeless := fun hn => hn.1 ⟨v, hv⟩
    have hnowhere : (s.modChannel c fun _ => x).raiseDemand sendStart c = s.modChannel c fun _ => x :=
      State.raiseDemand_none (by simp [hjoined, hj])
    rw [written h hf he ht hhome, hstays, hnowhere, ite_self]

end Sys2Proof.Machine
end


section
/-! PROOFS. The statements on tags (R68 to R81): enrolment, removal, pages and the absence expiry, and the heard entries. -/

namespace Sys2Proof.Machine

/-! ## The first of a table -/

theorem firstOf_eq_some {n : Nat} {p : Fin n → Bool} {i : Fin n} :
    firstOf n p = some i ↔ p i = true ∧ ∀ j < i, p j = false := by
  unfold firstOf
  rw [List.find?_eq_some_iff_getElem]
  constructor
  · rintro ⟨hi, k, hk, hget, hbefore⟩
    have hki : k = i.val := by simpa using congrArg Fin.val hget
    refine ⟨hi, fun j hj => ?_⟩
    have := hbefore j.val (by rw [hki]; exact hj)
    simpa using this
  · rintro ⟨hi, hbefore⟩
    exact ⟨hi, i.val, by simp, by simp, fun j hj => by simpa using hbefore _ (Fin.mk_lt_of_lt_val hj)⟩

theorem firstOf_eq_none_iff {n : Nat} {p : Fin n → Bool} : firstOf n p = none ↔ ∀ i, p i = false := by
  simp [firstOf]

/-- The only number that satisfies a test is the first. -/
theorem firstOf_unique {n : Nat} {p : Fin n → Bool} {i : Fin n} (hi : p i = true) (h : ∀ j, p j = true → j = i) :
    firstOf n p = some i :=
  firstOf_eq_some.mpr ⟨hi, fun j hj => Bool.eq_false_iff.mpr fun hp => hj.ne (h j hp)⟩

/-! ## One tag's record -/

section tagRecord
variable {s : State} {r : Roster} {t : Tag}

theorem State.modTag_of_some (h : s.tags.get r = some t) (f : Tag → Tag) : s.modTag r f = s.setTag r (some (f t)) := by
  simp [modTag, setTag, h]

end tagRecord

/-! ## An evacuation and the list of its zone (R12) -/

section lists
variable {s : State} {r : Roster} {y z : ZoneNo}

theorem State.setEvac_standing_evac {n : Evac} {c : EvacCause} (hp : (s.zones.get z).evac ≠ .none) (hn : n ≠ .none) :
    s.setEvac z n c = (s.modZone z fun x => { x with evac := n }).report ⟨.safety, 0x83,
      num z ++ named evacStates (s.zones.get z).evac ++ named evacStates n ++ c.field ++
        (s.modZone z fun x => { x with evac := n }).countsField z⟩ := by
  unfold setEvac
  dsimp only
  rw [hlcEvacuation_stays hp hn]
  simp [reportEvacuation]

theorem State.testEmpty_stays (h : ¬((s.zones.get z).evac = .ordered ∧ (s.zones.get z).occupancy = [])) : s.testEmpty z = s :=
  if_neg h

/-- An ORDERED zone with an empty list becomes CLEARED. -/
theorem State.testEmpty_clears (h : (s.zones.get z).evac = .ordered) (ho : (s.zones.get z).occupancy = []) : s.testEmpty z =
    (s.modZone z fun x => { x with evac := .cleared }).report ⟨.safety, 0x83, num z ++ [0x01, 0x02, 0x02, 0x00, 0x00, 0x00]⟩ := by
  have hcounts : (s.modZone z fun x => { x with evac := .cleared }).countsField z = [0x00, 0x00] := by
    simp [countsField, missingCount, ho, byteField]
  unfold testEmpty
  rw [if_pos ⟨h, ho⟩, setEvac_standing_evac (by simp [h]) (by decide), hcounts, h]
  rfl

theorem State.testEntered_stays (h : (s.zones.get z).evac ≠ .cleared) : s.testEntered z = s := if_neg h

/-- A CLEARED zone that a tag has entered becomes ORDERED. -/
theorem State.testEntered_enters (h : (s.zones.get z).evac = .cleared) : s.testEntered z =
    (s.modZone z fun x => { x with evac := .ordered }).report ⟨.safety, 0x83, num z ++ [0x02, 0x01, 0x03, 0x00] ++
      byteField (s.zones.get z).occupancy.length ++ byteField ((s.modZone z fun x => { x with evac := .ordered }).missingCount z)⟩ := by
  unfold testEntered
  rw [if_pos h, setEvac_standing_evac (by simp [h]) (by decide), h]
  simp [countsField, evacStates, named, EvacCause.field, byteField]

/-- A tag taken from a zone's list. -/
def State.unlist (s : State) (r : Roster) (y : ZoneNo) : State :=
  s.modZone y fun x => { x with occupancy := x.occupancy.filter fun q => q != r }

theorem State.unlist_empties : ((s.unlist r y).zones.get y).occupancy = [] ↔ ∀ q ∈ (s.zones.get y).occupancy, q = r := by
  simp [unlist, List.filter_eq_nil_iff]

/-- A zone CLEARED by the last removal from its list. -/
def State.clearedBy (s : State) (y : ZoneNo) : State :=
  (s.modZone y fun x => { x with evac := .cleared }).report ⟨.safety, 0x83, num y ++ [0x01, 0x02, 0x02, 0x00, 0x00, 0x00]⟩

/-- A zone is ORDERED and its list holds no other tag. -/
def State.Clears (s : State) (r : Roster) (y : ZoneNo) : Prop :=
  (s.zones.get y).evac = .ordered ∧ ∀ q ∈ (s.zones.get y).occupancy, q = r

theorem State.unplace_listed (h : s.tagZone r = some y) : s.unplace r = (s.unlist r y).testEmpty y := by
  unfold unplace; rw [h]; rfl

theorem State.unplace_unlisted (h : s.tagZone r = none) : s.unplace r = s := by unfold unplace; rw [h]

theorem State.unplace_clears (h : s.tagZone r = some y) (hc : s.Clears r y) : s.unplace r = (s.unlist r y).clearedBy y := by
  rw [unplace_listed h]
  exact testEmpty_clears (by simp [unlist, hc.1]) (unlist_empties.mpr hc.2)

theorem State.unplace_stays (h : s.tagZone r = some y) (hc : ¬s.Clears r y) : s.unplace r = s.unlist r y := by
  rw [unplace_listed h]
  exact testEmpty_stays fun hn => hc ⟨by simpa [unlist] using hn.1, unlist_empties.mp hn.2⟩

end lists

/-! ## Enrolment and removal (R68, R69) -/

section enrol
variable {s : State} {r : Roster}

theorem State.idTaken_iff {given : Option Roster} {id : Nat} : s.idTaken given id = true ↔
    ∃ (q : Roster) (t : Tag), some q ≠ given ∧ s.tags.get q = some t ∧ t.id = id := by
  simp [idTaken, allOf, Option.any_eq_true]

theorem index?_eq_some_iff {n k : Nat} {i : Fin n} : index? n k = some i ↔ number i = k := by
  constructor
  · intro h
    obtain ⟨h1, hn⟩ := index?_range h
    have hi : index? n (number (⟨k - 1, by omega⟩ : Fin n)) = some ⟨k - 1, by omega⟩ := index?_number _
    have hk : number (⟨k - 1, by omega⟩ : Fin n) = k := by simp only [number]; omega
    rw [hk, h] at hi
    rw [Option.some.inj hi, hk]
  · rintro rfl; exact index?_number i

theorem optIndex?_eq_some_iff {n k : Nat} {i : Option (Fin n)} : optIndex? n k = some i ↔ optNo i = k := by
  constructor
  · intro h
    unfold optIndex? at h
    split at h
    · next hk => cases h; exact hk.symm
    · obtain ⟨j, hj, rfl⟩ := Option.map_eq_some_iff.mp h
      exact index?_eq_some_iff.mp hj
  · rintro rfl; exact optIndex?_optNo i

theorem number_injective {n : Nat} : Function.Injective (number (n := n)) := fun i j h => by
  have := index?_number i; rw [h, index?_number] at this; exact (Option.some.inj this).symm

/-- A roster number written as the one given differs from it as numbers do. -/
theorem some_ne_iff_number {n : Nat} {q : Fin n} {given : Option (Fin n)} : some q ≠ given ↔ number q ≠ optNo given := by
  cases given with
  | none => simp [optNo]
  | some r => simp [optNo, number_injective.eq_iff]

theorem State.enroll_free {id absence : Nat} (h : s.tags.get r = none) : s.enroll r id absence =
    (s.setTag r (some { id := id, absence := absence })).reply (num r) := by simp [enroll, h]

theorem State.reportTagMove_zones {t : Tag} {st : TagState} {z : Option ZoneNo} {p : Option DevRef} {c : MoveCause} :
    (s.reportTagMove r t st z p c).zones = s.zones := by simp [reportTagMove]

end enrol

/-- Settles O39: the checks of R68 and R69, the roster number taken, and the list that the removal leaves. -/
theorem enrollAndRemoveTag : Obligations.EnrollAndRemoveTag := by
  refine fun s tag hs => ⟨fun k id absence => ?enrol, fun k hk => ?outside, fun r => ?remove⟩
  case enrol =>
    intro i bad elsewhere
    have outOfRange (h : bad) : s.doEnrollTag k id absence = s.refuse .badValue := by
      unfold State.doEnrollTag
      cases hg : optIndex? 64 k with
      | none => rfl
      | some given =>
        have hk : ¬64 < k := fun hk => by simp [optIndex?_eq_none.mpr hk] at hg
        exact if_pos (h.resolve_left hk)
    have inRange (h : ¬bad) : ∃ given, optNo given = k ∧ s.doEnrollTag k id absence =
        if s.idTaken given id then s.refuse .badValue
        else match given.or (firstOf 64 fun r => (s.tags.get r).isNone) with
          | none => s.refuse .full
          | some r => s.enroll r id absence := by
      obtain ⟨given, hg⟩ := Option.ne_none_iff_exists'.mp
        (mt optIndex?_eq_none.mp (show ¬64 < k from fun hk => h (.inl hk)))
      refine ⟨given, optIndex?_eq_some_iff.mp hg, ?_⟩
      unfold State.doEnrollTag
      rw [hg]
      exact if_neg fun hn => h (.inr hn)
    have taken {given : Option Roster} (hg : optNo given = k) : s.idTaken given id = true ↔ elsewhere := by
      simp only [State.idTaken_iff, some_ne_iff_number, hg, elsewhere]
    have refused {e : Status} (he : s.doEnrollTag k id absence = s.refuse e) :
        exec i s = .next (s.answered tag [0x0D, statusByte e]) := exec_refused hs (r := .enrollTag k id absence) rfl he
    have replied {t : State} {r : Roster} (he : s.doEnrollTag k id absence = t.reply (num r)) :
        exec i s = .next (t.answered tag [0x0D, 0x00, BitVec.ofNat 8 (r.val + 1)]) :=
      exec_replied hs (r := .enrollTag k id absence) rfl he
    refine ⟨fun h => refused (e := .badValue) ?_, fun hb he => ?_⟩
    · by_cases hb : bad
      · exact outOfRange hb
      · obtain ⟨given, hg, hdo⟩ := inRange hb
        rw [hdo, if_pos ((taken hg).mpr (h.resolve_left hb))]
    · obtain ⟨given, hg, hdo⟩ := inRange hb
      rw [if_neg (mt (taken hg).mp he)] at hdo
      refine ⟨fun hk hall => refused (e := .full) ?_, fun r hr hk => replied ?_, fun r t hk ht => ?_⟩
      · have hnone : given = none := by cases given with
          | none => rfl
          | some r => exact absurd (hg.trans hk) (number_ne_zero r)
        have hfull : (firstOf 64 fun r => (s.tags.get r).isNone) = none :=
          firstOf_eq_none_iff.mpr fun q => by simpa [Option.isSome_iff_ne_none] using hall q
        rw [hdo, hnone, hfull]; rfl
      · have hfirst : given.or (firstOf 64 fun r => (s.tags.get r).isNone) = some r := by
          rcases hk with hk | ⟨hk, hbefore⟩
          · rw [optIndex?_eq_some_iff.mpr hg |>.symm.trans (hk ▸ optIndex?_number r) |> Option.some.inj]; rfl
          · have hnone : given = none := by cases given with
              | none => rfl
              | some r => exact absurd (hg.trans hk) (number_ne_zero r)
            rw [hnone]
            exact firstOf_eq_some.mpr ⟨by simp [hr], fun q hq => by simpa [Option.isSome_iff_ne_none] using hbefore q hq⟩
        rw [hdo, hfirst]; exact State.enroll_free hr
      · have hgiven : given = some r := Option.some.inj ((optIndex?_eq_some_iff.mpr hg).symm.trans (hk ▸ optIndex?_number r))
        have henroll : s.doEnrollTag k id absence = s.enroll r id absence := by rw [hdo, hgiven]; rfl
        refine ⟨fun hid => replied (henroll.trans ?_), fun hid => refused (e := .busy) (henroll.trans ?_)⟩
        · simp [State.enroll, ht, hid]
        · simp [State.enroll, ht, hid]
  case outside =>
    exact exec_refused hs (r := .removeTag k) (x := .badValue) rfl (by
      simp [State.handle, State.doRemoveTag, State.withTag, index?_eq_none.mpr hk])
  case remove =>
    intro i
    have hdo (t : Tag) (h : s.tags.get r = some t) : s.handle (.removeTag (number r)) =
        if t.call.isSome then s.refuse .busy else (s.removeTag r t).accept := by
      simp [State.handle, State.doRemoveTag, State.withTag, h]
    refine ⟨fun h => exec_refused hs (r := .removeTag (number r)) (x := .notFound) rfl (by
      simp [State.handle, State.doRemoveTag, State.withTag, h]), fun t ht => ?_⟩
    intro listed reported
    have accepted {u : State} (hc : t.call = none) (hu : s.removeTag r t = u) : exec i s = .next (u.answered tag [0x0E, 0x00]) :=
      exec_accepted hs (r := .removeTag (number r)) rfl (by rw [hdo t ht, hc, ← hu]; rfl)
    have hlisted (h : listed) : s.removeTag r t = (reported.unplace r).setTag r none := by
      unfold State.removeTag; rw [if_pos h]
    have hzones : reported.zones = s.zones := State.reportTagMove_zones
    have hzone : reported.tagZone r = s.tagZone r := by unfold State.tagZone; rw [hzones]
    refine ⟨fun hc => ?_, fun hc hl => accepted hc (by unfold State.removeTag; rw [if_neg hl]), fun hc hl =>
      ⟨accepted hc (hlisted hl), fun hz => accepted hc ?_, fun z hz => ?_⟩⟩
    · exact exec_refused hs (r := .removeTag (number r)) (x := .busy) rfl (by
        rw [hdo t ht, if_pos (Option.isSome_iff_ne_none.mpr hc)])
    · rw [hlisted hl, State.unplace_unlisted (hzone.trans hz)]
    · intro without clears
      have hclears : reported.Clears r z ↔ clears := by simp only [State.Clears, hzones, clears]
      refine ⟨fun hn => accepted hc ?_, fun hn => accepted hc ?_⟩
      · rw [hlisted hl, State.unplace_stays (hzone.trans hz) (hclears.not.mpr hn)]; rfl
      · rw [hlisted hl, State.unplace_clears (hzone.trans hz) (hclears.mpr hn)]; rfl

/-! ## Pages, acknowledgements and the absence expiry (R75, R79, R80) -/

theorem exec_absenceExpiry {s : State} {r : Roster} (h : s.slp.inReset = none) : exec (.absenceExpiry r) s =
    .next (s.expiry ((s.tags.get r).bind Tag.absentAt) fun s => s.absent r).beginSending :=
  congrArg Host.Outcome.next (State.event_operating h _)

/-- Settles O40: the three requests by the roster number they name, and the absence expiry. -/
theorem pageAckAbsence : Obligations.PageAckAbsence := by
  refine ⟨fun s tag hs => ⟨fun k hk => ?outside, fun r => ⟨fun hnone => ?free, fun t ht => ?enrolled⟩⟩,
    fun s r hs => ⟨fun hno => ?still, fun t a ht ha => ?absent⟩⟩
  case outside =>
    have hnone := index?_eq_none.mpr hk
    exact ⟨exec_refused hs (r := .pageTag k 0) (x := .badValue) rfl (by simp [State.handle, State.doPageTag, hnone]),
      exec_refused hs (r := .pageTag k 1) (x := .badValue) rfl (by simp [State.handle, State.doPageTag, hnone]),
      exec_refused hs (r := .ackTag k) (x := .badValue) rfl (by simp [State.handle, State.doAckTag, State.withTag, hnone])⟩
  case free =>
    exact ⟨exec_refused hs (r := .pageTag (number r) 0) (x := .notFound) rfl (by simp [State.handle, State.doPageTag, hnone]),
      exec_refused hs (r := .pageTag (number r) 1) (x := .notFound) rfl (by simp [State.handle, State.doPageTag, hnone]),
      exec_refused hs (r := .ackTag (number r)) (x := .notFound) rfl (by
        simp [State.handle, State.doAckTag, State.withTag, hnone])⟩
  case enrolled =>
    refine ⟨fun h => exec_refused hs (r := .pageTag (number r) 0) (x := .condition) rfl (by
        simp [State.handle, State.doPageTag, ht, h]),
      fun h => exec_accepted hs (r := .pageTag (number r) 0) rfl ?_, exec_accepted hs (r := .pageTag (number r) 1) rfl (by
        simp [State.handle, State.doPageTag, ht, State.modTag_of_some ht]),
      exec_accepted hs (r := .ackTag (number r)) rfl (by
        simp [State.handle, State.doAckTag, State.withTag, ht, State.modTag_of_some ht])⟩
    have hplaced : ¬(t.state = .unplaced ∨ t.state = .out) := by rcases h with h | h <;> simp [h]
    simp [State.handle, State.doPageTag, ht, State.modTag_of_some ht, hplaced]
  case still =>
    have hnone : (s.tags.get r).bind Tag.absentAt = none := by
      cases h : s.tags.get r with
      | none => rfl
      | some t => exact hno t h
    rw [exec_absenceExpiry hs, hnone]; rfl
  case absent =>
    have hsome : (s.tags.get r).bind Tag.absentAt = some a := by rw [ht]; exact ha
    have htag : (s.reach a).tags.get r = some t := ht
    rw [exec_absenceExpiry hs, hsome, State.expiry_some]
    unfold State.absent
    rw [htag, State.modTag_of_some htag]

/-! ## Placement (R70 to R74) and the lists it moves (R9, R12) -/

section placement
variable {s : State} {r : Roster} {t : Tag} {p : Point} {k : Nat} {y z : ZoneNo}

theorem Tag.moves_iff {now : Time} : t.moves now k = true ↔
    t.cur = none ∨ (∀ h, t.curHeard = some h → h + 100 ≤ now) ∨ t.strength + 2 ≤ k := by
  simp only [Tag.moves, Option.all_eq_true, Bool.or_eq_true, Option.isNone_iff_eq_none, or_assoc]
  exact or_congr Iff.rfl (or_congr (forall₂_congr fun _ _ => decide_eq_true_iff) decide_eq_true_iff)

/-- A placement by the gate, the state and the zone of the tag (R70 to R74). -/
theorem State.placeHeard_out (ht : s.tags.get r = some t) (hp : p.exitGate = true) (h : t.state = .out) :
    s.placeHeard r t p k = (s.setTag r (some { t with lastHeard := some s.now }), ⟨false, false⟩) := by
  simp [placeHeard, hp, heardAtGate, h, modTag_of_some ht]

theorem State.placeHeard_gate (ht : s.tags.get r = some t) (hp : p.exitGate = true) (h : t.state ≠ .out) :
    s.placeHeard r t p k =
      (if t.state = .placed ∨ t.state = .missing then
          ((s.setTag r (some (t.outAt s.now))).reportTagMove r t .out none (some p.ref) .exitGate).unplace r
        else (s.setTag r (some (t.outAt s.now))).reportTagMove r t .out none (some p.ref) .exitGate, ⟨true, true⟩) := by
  simp [placeHeard, hp, heardAtGate, h, modTag_of_some ht]

theorem State.placeHeard_missing (ht : s.tags.get r = some t) (hp : p.exitGate = false) (h : t.state = .missing) :
    s.placeHeard r t p k = (((s.setTag r (some (t.at s.now p k))).reportTagMissing r t true (some p.zone) (some p.ref)).place r
      p.zone, ⟨t.cur != some p.ref, false⟩) := by
  simp [placeHeard, hp, heardAnew, h, modTag_of_some ht]

theorem State.placeHeard_anew (ht : s.tags.get r = some t) (hp : p.exitGate = false) (h : t.state = .unplaced ∨ t.state = .out) :
    s.placeHeard r t p k = (((s.setTag r (some (t.at s.now p k))).reportTagMove r t .placed (some p.zone) (some p.ref)
      .firstHeard).place r p.zone, ⟨t.cur != some p.ref, false⟩) := by
  rcases h with h | h <;> simp [placeHeard, hp, heardAnew, h, modTag_of_some ht]

theorem State.placeHeard_zone (ht : s.tags.get r = some t) (hp : p.exitGate = false) (h : t.state = .placed)
    (hz : t.zone = some p.zone) :
    s.placeHeard r t p k = (s.setTag r (some (t.at s.now p k)), ⟨t.cur != some p.ref, false⟩) := by
  simp [placeHeard, hp, heardIn, h, hz, modTag_of_some ht]

theorem State.placeHeard_moves (ht : s.tags.get r = some t) (hp : p.exitGate = false) (h : t.state = .placed)
    (hz : t.zone ≠ some p.zone) (hm : t.moves s.now k = true) :
    s.placeHeard r t p k = (((s.setTag r (some (t.at s.now p k))).reportTagMove r t .placed (some p.zone) (some p.ref)
      .zoneChange).place r p.zone, ⟨t.cur != some p.ref, false⟩) := by
  simp [placeHeard, hp, heardIn, h, hz, hm, modTag_of_some ht]

theorem State.placeHeard_kept (ht : s.tags.get r = some t) (hp : p.exitGate = false) (h : t.state = .placed)
    (hz : t.zone ≠ some p.zone) (hm : t.moves s.now k = false) :
    s.placeHeard r t p k = (s.setTag r (some (t.keptAt s.now)), ⟨false, false⟩) := by
  simp [placeHeard, hp, heardIn, h, hz, hm, modTag_of_some ht]

/-- A tag joins the end of a zone's list. -/
def State.enlist (s : State) (r : Roster) (z : ZoneNo) : State := s.modZone z fun x => { x with occupancy := x.occupancy ++ [r] }

theorem State.place_listed (h : r ∈ (s.zones.get z).occupancy) : s.place r z = s := if_pos h

theorem State.place_anew (h : s.tagZone r = none) : s.place r z = (s.enlist r z).testEntered z := by
  unfold place
  rw [if_neg (tagZone_none h z), h]; rfl

theorem State.place_from (hz : r ∉ (s.zones.get z).occupancy) (h : s.tagZone r = some y) :
    s.place r z = (((s.unlist r y).enlist r z).testEmpty y).testEntered z := by
  unfold place
  rw [if_neg hz, h]; rfl

/-- A move to another list, up to the test of the zone joined. -/
theorem State.place_leaves (hz : r ∉ (s.zones.get z).occupancy) (h : s.tagZone r = some y) :
    (s.Clears r y → s.place r z = (((s.unlist r y).enlist r z).clearedBy y).testEntered z) ∧
      (¬s.Clears r y → s.place r z = ((s.unlist r y).enlist r z).testEntered z) := by
  have hy : z ≠ y := fun hzy => hz (hzy ▸ tagZone_some h)
  have hevac : (((s.unlist r y).enlist r z).zones.get y).evac = (s.zones.get y).evac := by simp [unlist, enlist, hy]
  have hocc : (((s.unlist r y).enlist r z).zones.get y).occupancy = ((s.unlist r y).zones.get y).occupancy := by
    simp [enlist, hy]
  rw [place_from hz h]
  refine ⟨fun hc => ?_, fun hc => ?_⟩
  · rw [testEmpty_clears (hevac.trans hc.1) (hocc.trans (unlist_empties.mpr hc.2))]; rfl
  · rw [testEmpty_stays fun hn => hc ⟨hevac.symm.trans hn.1, unlist_empties.mp (hocc.symm.trans hn.2)⟩]

theorem State.place_tags : (s.place r z).tags = s.tags := by
  have htested : ∀ u : State, (u.testEntered z).tags = u.tags := by
    intro u
    unfold testEntered
    split
    · next h => rw [setEvac_standing_evac (by simp [h]) (by decide)]; rfl
    · rfl
  unfold place
  split
  · rfl
  · rw [htested]
    cases s.tagZone r with
    | none => rfl
    | some y => exact testEmpty_tags

/-- A placement keeps the call of its tag. -/
theorem State.placeHeard_call (ht : s.tags.get r = some t) :
    (((s.placeHeard r t p k).1.tags.get r).bind fun t => t.call) = t.call := by
  have hset : ∀ (u : State) (a : Tag), u.tags = (s.setTag r (some a)).tags → a.call = t.call →
      ((u.tags.get r).bind fun t => t.call) = t.call := by
    intro u a hu ha; rw [hu]; simp [ha]
  cases hp : p.exitGate with
  | true =>
    by_cases ho : t.state = .out
    · rw [placeHeard_out ht hp ho]; exact hset _ _ rfl rfl
    · rw [placeHeard_gate ht hp ho]
      dsimp only
      split
      · exact hset _ _ unplace_tags rfl
      · exact hset _ _ rfl rfl
  | false =>
    cases hst : t.state with
    | missing => rw [placeHeard_missing ht hp hst]; exact hset _ _ place_tags rfl
    | unplaced => rw [placeHeard_anew ht hp (.inl hst)]; exact hset _ _ place_tags rfl
    | out => rw [placeHeard_anew ht hp (.inr hst)]; exact hset _ _ place_tags rfl
    | placed =>
      by_cases hz : t.zone = some p.zone
      · rw [placeHeard_zone ht hp hst hz]; exact hset _ _ rfl rfl
      · cases hm : t.moves s.now k with
        | true => rw [placeHeard_moves ht hp hst hz hm]; exact hset _ _ place_tags rfl
        | false => rw [placeHeard_kept ht hp hst hz hm]; exact hset _ _ rfl rfl

/-- What a placement tells the Call Switch (R77). -/
theorem State.placeHeard_told (ht : s.tags.get r = some t) : (s.placeHeard r t p k).2 =
    ⟨(p.exitGate && t.state != .out) ||
        (!p.exitGate && t.cur != some p.ref && (t.state != .placed || t.zone == some p.zone || t.moves s.now k)),
      p.exitGate && t.state != .out⟩ := by
  cases hp : p.exitGate with
  | true =>
    by_cases ho : t.state = .out
    · rw [placeHeard_out ht hp ho]; simp [ho]
    · rw [placeHeard_gate ht hp ho]; simp [ho]
  | false =>
    cases hst : t.state with
    | missing => rw [placeHeard_missing ht hp hst]; simp
    | unplaced => rw [placeHeard_anew ht hp (.inl hst)]; simp
    | out => rw [placeHeard_anew ht hp (.inr hst)]; simp
    | placed =>
      by_cases hz : t.zone = some p.zone
      · rw [placeHeard_zone ht hp hst hz]; simp [hz]
      · cases hm : t.moves s.now k with
        | true => rw [placeHeard_moves ht hp hst hz hm]; simp
        | false => rw [placeHeard_kept ht hp hst hz hm]; simp [hz]

end placement

/-! ## Heard lists (R70, R77) -/

section heard
variable {s : State} {p : Point}

theorem appendNew_ne_nil {α : Type} [DecidableEq α] (l : List α) (a : α) : appendNew l a ≠ [] := by
  unfold appendNew
  split
  · next h => exact List.ne_nil_of_mem h
  · simp

theorem foldl_appendNew_ne_nil {α : Type} [DecidableEq α] (xs : List α) {l : List α} (h : l ≠ []) :
    xs.foldl appendNew l ≠ [] := by
  induction xs generalizing l with
  | nil => exact h
  | cons x xs ih => exact ih (appendNew_ne_nil l x)

/-- A list of unenrolled tags changes nothing and collects their ids. -/
theorem State.heardOne_unknown (l : List HeardEntry) (ids : List Nat)
    (h : ∀ h ∈ l, ∀ q u, s.tags.get q = some u → u.id ≠ h.tagId) :
    l.foldl (heardOne p) (s, ids) = (s, (l.map fun h => h.tagId).foldl appendNew ids) := by
  induction l generalizing ids with
  | nil => rfl
  | cons e l ih =>
    have hnone : s.rosterOf e.tagId = none := firstOf_eq_none_iff.mpr fun q => by
      cases hq : s.tags.get q with
      | none => rfl
      | some u => simpa using h e List.mem_cons_self q u hq
    have hone : heardOne p (s, ids) e = (s, appendNew ids e.tagId) := by simp [heardOne, hnone]
    rw [List.foldl_cons, hone]
    exact ih _ fun e' he' => h e' (List.mem_cons_of_mem e he')

/-- The first entry of a list, of an enrolled tag, is taken before the rest. -/
theorem State.heardList_cons {h : HeardEntry} {l : List HeardEntry} {r : Roster} {t : Tag} (ht : s.tags.get r = some t)
    (hid : t.id = h.tagId) (hother : ∀ q u, q ≠ r → s.tags.get q = some u → u.id ≠ h.tagId) :
    s.heardList p (h :: l) = (s.heardEntry r p h).heardList p l := by
  have hroster : s.rosterOf h.tagId = some r := by
    refine firstOf_unique (by simp [ht, hid]) fun q hq => ?_
    by_contra hne
    obtain ⟨u, hu, heq⟩ := Option.any_eq_true .. |>.mp hq
    exact hother q u hne hu (by simpa using heq)
  have hone : heardOne p (s, []) h = (s.heardEntry r p h, []) := by simp [heardOne, hroster]
  unfold heardList
  rw [List.foldl_cons, hone]

/-- An entry: the placement, the hand-off of a tag with a call, the button. -/
theorem State.heardEntry_eq {r : Roster} {t : Tag} (ht : s.tags.get r = some t) (h : HeardEntry) :
    s.heardEntry r p h = (t.call.elim (s.placeHeard r t p h.strength).1 fun id =>
      (s.placeHeard r t p h.strength).1.csHeard r id (s.placeHeard r t p h.strength).2.changed
        (s.placeHeard r t p h.strength).2.becameOut).takeButton r p.ref h.button := by
  have hcall := placeHeard_call (p := p) (k := h.strength) ht
  unfold heardEntry
  rw [ht]
  dsimp only
  rw [hcall]

end heard

/-! ## One call's record, and the latest of a kind -/

section calls
variable {s : State}

/-- A change of a call keeps its id, and the call is found as changed. -/
theorem State.callOf_modCall {id : Nat} {f : Call → Call} (hf : ∀ c, (f c).id = c.id) :
    (s.modCall id f).callOf id = (s.callOf id).map f := by
  have hid : (fun c : Call => c.id == id) ∘ (fun c => if c.id = id then f c else c) = fun c => c.id == id := by
    funext c; simp only [Function.comp]; split <;> simp [hf]
  unfold callOf
  rw [modCall_calls, List.find?_map, hid]
  cases h : s.calls.find? fun c => c.id == id with
  | none => rfl
  | some c =>
    have hc : c.id = id := by have := List.find?_some h; simpa using this
    simp [hc]

theorem State.reportCallNow_of_some {id : Nat} {c : Call} (h : s.callOf id = some c) (prev : Option CallState)
    (cause : CallCause) : s.reportCallNow id prev cause = s.reportCall id c prev (.live c.state) cause := by
  unfold reportCallNow; rw [h]; rfl

/-- Of two calls the one with the higher creation number. -/
def laterCall (best : Option Call) (c : Call) : Option Call :=
  some (best.elim c fun b => if b.creation < c.creation then c else b)

theorem foldl_laterCall {c : Call} (l : List Call) (best : Option Call)
    (hc : best = some c ∨ c ∈ l ∧ ∀ b, best = some b → b.creation < c.creation)
    (hmax : ∀ d ∈ l, d ≠ c → d.creation < c.creation) : l.foldl laterCall best = some c := by
  induction l generalizing best with
  | nil => exact hc.resolve_right fun h => List.not_mem_nil h.1
  | cons d l ih =>
    refine ih _ ?_ fun e he => hmax e (List.mem_cons_of_mem d he)
    by_cases hd : d = c
    · left
      rcases hc with rfl | ⟨-, hb⟩
      · simp [laterCall, hd]
      · cases best with
        | none => simp [laterCall, hd]
        | some b => simp [laterCall, hd, hb b rfl]
    · have hlt := hmax d List.mem_cons_self hd
      rcases hc with rfl | ⟨hmem, hb⟩
      · left; simp [laterCall, hlt.not_gt]
      · right
        refine ⟨(List.mem_cons.mp hmem).resolve_left (Ne.symm hd), fun b hb' => ?_⟩
        cases best with
        | none => simp only [laterCall, Option.elim, Option.some.injEq] at hb'; exact hb' ▸ hlt
        | some b' =>
          simp only [laterCall, Option.elim, Option.some.injEq] at hb'
          split at hb'
          · exact hb' ▸ hlt
          · exact hb' ▸ hb b' rfl

theorem State.latestOf_eq_some {k : CallKind} {p : Call → Bool} {c : Call} (hc : c ∈ s.calls) (hk : c.kind = k) (hp : p c = true)
    (hmax : ∀ d ∈ s.calls, d ≠ c → d.kind = k → p d = true → d.creation < c.creation) : s.latestOf k p = some c := by
  refine foldl_laterCall _ none (.inr ⟨by simp [hc, hk, hp], by simp⟩) fun d hd hne => ?_
  obtain ⟨hmem, hkind⟩ := List.mem_filter.mp hd
  simp only [Bool.and_eq_true, beq_iff_eq] at hkind
  exact hmax d hmem hne hkind.1 hkind.2

theorem State.latestOf_eq_none {k : CallKind} {p : Call → Bool} (h : ∀ c ∈ s.calls, c.kind = k → p c = false) :
    s.latestOf k p = none := by
  have hnil : (s.calls.filter fun c => c.kind == k && p c) = [] := List.filter_eq_nil_iff.mpr fun c hc hn => by
    simp only [Bool.and_eq_true, beq_iff_eq] at hn
    simp [h c hc hn.1] at hn
  unfold latestOf
  rw [hnil]; rfl

theorem State.callsFull_iff : s.callsFull = true ↔ 16 ≤ s.calls.length := decide_eq_true_iff

end calls

/-! ## Buttons (R78, R79, R85, R86, R92) -/

section buttons
variable {s : State} {r : Roster} {t : Tag} {point : DevRef}

theorem State.takeButton_call (ht : s.tags.get r = some t) (dial : Nat) : s.takeButton r point (.call dial) =
    if t.state = .placed then s.csCallKey r dial else s := by simp [takeButton, ht]

/-- The party and the class of a dial code (R85). -/
theorem State.csCallKey_eq {dial : Nat} {b : Party} {cls : Option TrunkClass} (ht : s.tags.get r = some t)
    (h : dial = 0 ∧ b = .surface ∧ cls = some .routine ∨ (∃ q : Roster, dial = number q ∧ b = .tag q ∧ cls = none) ∨
      64 < dial ∧ b = .dialled dial ∧ cls = none) : s.csCallKey r dial =
    if t.call.isSome then s.refuseCall .routine (.tag r) b cls .busy
    else if s.callsFull then s.refuseCall .routine (.tag r) b cls .noResource
    else s.makeCall .routine (.tag r) b cls := by
  rcases h with ⟨rfl, rfl, rfl⟩ | ⟨q, rfl, rfl, rfl⟩ | ⟨hd, rfl, rfl⟩
  · simp [csCallKey, ht]
  · simp [csCallKey, ht, dialledParty]
  · have hz : dial ≠ 0 := by omega
    have hnone : index? 64 dial = none := index?_eq_none.mpr (.inr hd)
    simp [csCallKey, ht, dialledParty, hz, hnone]

/-- The emergency flag set and told. -/
def State.emergencyTold (s : State) (r : Roster) (t : Tag) (point : DevRef) : State :=
  (s.setTag r (some { t with emergency := true })).reportTagEmergency r point t.emergency

theorem State.emergencyTold_tag : (s.emergencyTold r t point).tags.get r = some { t with emergency := true } := by
  simp [emergencyTold, reportTagEmergency]

theorem State.takeButton_emergency (ht : s.tags.get r = some t) {u : State}
    (hu : (if t.state = .placed then (s.emergencyTold r t point).csEmergencyKey r else s.emergencyTold r t point) = u) :
    s.takeButton r point .emergency = u.emergencyIn sendStart (u.zoneOfTag r) := by
  have htold : (s.modTag r fun t => { t with emergency := true }).reportTagEmergency r point
      ((s.tags.get r).any fun t => t.emergency) = s.emergencyTold r t point := by
    rw [modTag_of_some ht, ht]; rfl
  have hplaced : (((s.emergencyTold r t point).tags.get r).any fun t => t.state == .placed) = true ↔ t.state = .placed := by
    rw [emergencyTold_tag]; simp
  simp only [takeButton, emergencyButton, htold, hplaced, hu]

theorem State.csEmergencyKey_free (ht : s.tags.get r = some t) (hc : t.call = none) :
    s.csEmergencyKey r = s.admitEmergency r := by
  simp [csEmergencyKey, ht, hc]

theorem State.csEmergencyKey_engaged {id : Nat} {c : Call} (ht : s.tags.get r = some t) (hid : t.call = some id)
    (hc : s.callOf id = some c) :
    s.csEmergencyKey r = if c.kind = .emergency then s else (s.csEnd c.id .superseded).admitEmergency r := by
  simp [csEmergencyKey, ht, hid, hc]

theorem State.admitEmergency_room (h : s.calls.length < 16) :
    s.admitEmergency r = s.makeCall .emergency (.tag r) .surface (some .emergency) :=
  if_neg fun hn => by have := callsFull_iff.mp hn; omega

theorem State.admitEmergency_full (h : 16 ≤ s.calls.length) : s.admitEmergency r =
    match (s.latestOf .routine fun _ => true).or (s.latestOf .priority fun _ => true) with
    | some c => (s.csEnd c.id .preempted).makeCall .emergency (.tag r) .surface (some .emergency)
    | none => s.refuseCall .emergency (.tag r) .surface (some .emergency) .noResource := if_pos (callsFull_iff.mpr h)

/-- A full table of EMERGENCY calls refuses another (R87). -/
theorem State.admitEmergency_refused (h : 16 ≤ s.calls.length) (hall : ∀ c ∈ s.calls, c.kind = .emergency) :
    s.admitEmergency r = s.refuseCall .emergency (.tag r) .surface (some .emergency) .noResource := by
  rw [admitEmergency_full h, latestOf_eq_none fun c hc hk => by simp [hall c hc] at hk,
    latestOf_eq_none fun c hc hk => by simp [hall c hc] at hk]
  rfl

/-- The latest ROUTINE call of a full table, or without one the latest PRIORITY call, gives its place up (R87). -/
theorem State.admitEmergency_evicts {c : Call} (h : 16 ≤ s.calls.length) (hc : c ∈ s.calls)
    (hk : c.kind = .routine ∨ c.kind = .priority ∧ ∀ d ∈ s.calls, d.kind ≠ .routine)
    (hmax : ∀ d ∈ s.calls, d ≠ c → d.kind = c.kind → d.creation < c.creation) : s.admitEmergency r =
      (s.csEnd c.id .preempted).makeCall .emergency (.tag r) .surface (some .emergency) := by
  have hsome : (s.latestOf .routine fun _ => true).or (s.latestOf .priority fun _ => true) = some c := by
    rcases hk with hk | ⟨hk, hno⟩
    · rw [latestOf_eq_some hc hk rfl fun d hd hne hd' _ => hmax d hd hne (hd'.trans hk.symm)]; rfl
    · rw [latestOf_eq_none fun d hd hd' => absurd hd' (hno d hd),
        latestOf_eq_some hc hk rfl fun d hd hne hd' _ => hmax d hd hne (hd'.trans hk.symm)]
      rfl
  rw [admitEmergency_full h, hsome]

theorem State.acknowledge_eq (ht : s.tags.get r = some t) : s.acknowledge r point =
    if t.page then (s.setTag r (some { t with page := false })).reportPageAck r point else s := by
  simp [acknowledge, ht, modTag_of_some ht]

theorem State.takeButton_answer_free (ht : s.tags.get r = some t) (hc : t.call = none) :
    s.takeButton r point .answer = s.acknowledge r point := by simp [takeButton, ht, hc]

theorem State.takeButton_answer_taken {id : Nat} {c : Call} (ht : s.tags.get r = some t) (hid : t.call = some id)
    (hc : s.callOf id = some c) (hst : c.state = .ringing) (hb : c.b = .tag r) : s.takeButton r point .answer =
      (s.modCall id fun d => { d with state := .active, deadline := none }).reportCall id
        { c with state := .active, deadline := none } (some .ringing) (.live .active) .answered := by
  have hfound : (s.modCall id fun d => { d with state := .active, deadline := none }).callOf id =
      some { c with state := .active, deadline := none } := by
    rw [callOf_modCall (by exact fun _ => rfl), hc]; rfl
  simp [takeButton, ht, hid, csAnswerKey, hc, hst, hb, reportCallNow_of_some hfound]

theorem State.takeButton_answer_other {id : Nat} {c : Call} (ht : s.tags.get r = some t) (hid : t.call = some id)
    (hc : s.callOf id = some c) (h : c.state ≠ .ringing ∨ c.b ≠ .tag r) :
    s.takeButton r point .answer = s.acknowledge r point := by
  have : ¬(c.state = .ringing ∧ c.b = .tag r) := fun hn => by rcases h with h | h <;> simp_all
  simp [takeButton, ht, hid, csAnswerKey, hc, this]

end buttons

/-- Settles O41: `placeHeard` by gate, state and zone, `place` and `unplace` by the lists, and each button. -/
theorem tagPlacement : Obligations.TagPlacement := by
  refine ⟨fun s r t p k ht => ?placement, fun s r z => ?lists, fun s zone => ?emergency, fun s p h l r t ht hid hother =>
    State.heardList_cons ht hid hother, fun s p l hno => ?unknown, fun s r t p h ht => ?entry, fun s r t point ht => ?buttons⟩
  case placement =>
    intro after here gone left moves
    have hmoves : t.moves s.now k = true ↔ moves := Tag.moves_iff
    refine ⟨fun hp => ⟨fun h => congrArg Prod.fst (State.placeHeard_out ht hp h), fun h => ?_, fun h => ?_⟩,
      fun hp => ⟨fun h => congrArg Prod.fst (State.placeHeard_anew ht hp h),
        fun h => congrArg Prod.fst (State.placeHeard_missing ht hp h), fun h => ⟨fun hz => congrArg Prod.fst
          (State.placeHeard_zone ht hp h hz), fun hz hm => congrArg Prod.fst
          (State.placeHeard_moves ht hp h hz (hmoves.mpr hm)), fun hz hm => congrArg Prod.fst
          (State.placeHeard_kept ht hp h hz (Bool.eq_false_iff.mpr (mt hmoves.mp hm)))⟩⟩⟩
    · exact (congrArg Prod.fst (State.placeHeard_gate ht hp (by simp [h]))).trans (if_neg (by simp [h]))
    · refine (congrArg Prod.fst (State.placeHeard_gate ht hp ?_)).trans (if_pos h)
      rcases h with h | h <;> simp [h]
  case lists =>
    intro drop join clears cleared entered
    have hentered (u : State) (h : (u.zones.get z).evac = .cleared)
        (ho : (u.zones.get z).occupancy = (s.zones.get z).occupancy ++ [r]) : u.testEntered z = entered u := by
      rw [State.testEntered_enters h, ho]; simp [entered]
    refine ⟨fun h => State.unplace_unlisted h, fun y hy => ⟨State.unplace_clears hy, State.unplace_stays hy⟩,
      State.place_listed, fun hz => ⟨fun h => ?_, fun y hy => ?_⟩⟩
    · rw [State.place_anew h]
      exact ⟨fun he => State.testEntered_stays (by simpa [State.enlist] using he),
        fun he => hentered _ (by simpa [State.enlist] using he) (by simp [State.enlist])⟩
    · intro moved
      have hne : y ≠ z := fun hyz => hz (hyz ▸ State.tagZone_some hy)
      obtain ⟨hclears, hstays⟩ := State.place_leaves hz hy
      refine ⟨fun he => ⟨fun hc => (hclears hc).trans (State.testEntered_stays ?_),
        fun hc => (hstays hc).trans (State.testEntered_stays ?_)⟩,
        fun he => ⟨fun hc => (hclears hc).trans (hentered _ ?_ ?_), fun hc => (hstays hc).trans (hentered _ ?_ ?_)⟩⟩
      all_goals simp [State.enlist, State.unlist, State.clearedBy, hne, he]
  case emergency =>
    refine ⟨fun h => by rw [h]; rfl, fun z h => ⟨fun hn => ?_, fun p hp => ?_⟩⟩
    · simp [State.emergencyIn, h, State.startBound, hn]
    · simp [State.emergencyIn, h, State.startBound, hp]
  case unknown =>
    have hlist : s.heardList p l = if ((l.map fun h => h.tagId).foldl appendNew []).isEmpty then s
        else s.reportUnknownTag p.ref ((l.map fun h => h.tagId).foldl appendNew []) := by
      unfold State.heardList
      rw [State.heardOne_unknown l [] hno]
    rw [hlist]
    refine ⟨fun h => by rw [h]; rfl, fun h => if_neg ?_⟩
    cases l with
    | nil => exact absurd rfl h
    | cons e l =>
      rw [List.isEmpty_iff]
      exact foldl_appendNew_ne_nil (l.map fun h => h.tagId) (appendNew_ne_nil [] e.tagId)
  case entry =>
    intro placed left moves changed pressed
    have hmoves : t.moves s.now h.strength = true ↔ moves := Tag.moves_iff
    have htold := State.placeHeard_told (p := p) (k := h.strength) ht
    have hleft : (p.exitGate && t.state != .out) = true ↔ left := by simp [left]
    have hchanged : (!p.exitGate && t.cur != some p.ref && (t.state != .placed || t.zone == some p.zone ||
        t.moves s.now h.strength)) = true ↔ changed := by
      simp [changed, hmoves, and_assoc, or_assoc]
    have hheard := State.heardEntry_eq (p := p) ht h
    rw [htold] at hheard
    refine ⟨fun hc => by simp only [pressed]; rw [hheard, hc]; rfl, fun id hid => ?_⟩
    rw [hid] at hheard
    refine ⟨fun hl => ?_, fun hch => ?_, fun hl hch => ?_⟩
    · rw [hleft.mpr hl] at hheard; exact hheard
    · have hnot : (p.exitGate && t.state != .out) = false := by simp [hch.1]
      rw [hnot, hchanged.mpr hch] at hheard; exact hheard
    · rw [Bool.eq_false_iff.mpr (mt hleft.mp hl), Bool.eq_false_iff.mpr (mt hchanged.mp hch)] at hheard; exact hheard
  case buttons =>
    intro press full
    refine ⟨rfl, fun dial b cls hdial => ?call, ?emergencyKey, ?answer, fun hc => by simp [press, State.takeButton, ht, hc],
      fun id hid => by simp [press, State.takeButton, ht, hid]⟩
    case call =>
      intro refused
      have hpress : press (.call dial) = if t.state = .placed then s.csCallKey r dial else s := State.takeButton_call ht dial
      rw [hpress]
      refine ⟨fun h => if_neg h, fun h hc => ?_, fun h hc hf => ?_, fun h hc hf => ?_⟩
      all_goals rw [if_pos h, State.csCallKey_eq ht hdial]
      · exact if_pos (Option.isSome_iff_ne_none.mpr hc)
      · rw [if_neg (by simp [hc]), if_pos (State.callsFull_iff.mpr hf)]; rfl
      · rw [if_neg (by simp [hc]), if_neg (mt State.callsFull_iff.mp hf)]
    case emergencyKey =>
      intro told starts made
      have htag : told.tags.get r = some { t with emergency := true } := State.emergencyTold_tag
      have key {u : State} (h : t.state = .placed) (hu : told.csEmergencyKey r = u) : starts u :=
        State.takeButton_emergency ht ((if_pos h).trans hu)
      refine ⟨fun h => State.takeButton_emergency ht (if_neg h), fun h hc => ⟨fun hf => key h ?_, fun hf hall => key h ?_,
        fun hf c hmem hk hmax => key h ?_⟩, fun h id c hid hc => ⟨fun hk => key h ?_, fun hk hlen => key h ?_⟩⟩
      · exact (State.csEmergencyKey_free htag hc).trans (State.admitEmergency_room (Nat.lt_of_not_le hf))
      · exact (State.csEmergencyKey_free htag hc).trans (State.admitEmergency_refused hf hall)
      · exact (State.csEmergencyKey_free htag hc).trans (State.admitEmergency_evicts hf hmem hk hmax)
      · exact (State.csEmergencyKey_engaged htag hid hc).trans (if_pos hk)
      · have hcid : c.id = id := (State.callOf_some hc).2
        refine (State.csEmergencyKey_engaged htag hid hc).trans ((if_neg hk).trans ?_)
        rw [hcid]
        exact State.admitEmergency_room hlen
    case answer =>
      intro acknowledged
      have hack : acknowledged (s.acknowledge r point) := by
        rw [State.acknowledge_eq ht]
        exact ⟨fun h => by simp [h], fun h => if_pos h⟩
      refine ⟨fun hc => ?_, fun id c hid hc => ?_⟩
      · simp only [press]; rw [State.takeButton_answer_free ht hc]; exact hack
      · intro taken
        refine ⟨State.takeButton_answer_taken ht hid hc, fun h => ?_⟩
        simp only [press]; rw [State.takeButton_answer_other ht hid hc h]; exact hack

end Sys2Proof.Machine
end


section
/-! PROOFS. The statements on the trunk and its slots (R101 to R114), and on the ends of a call (R84, R92 to R96). -/

namespace Sys2Proof.Machine

/-! ## A freed slot and the queue (R108, R110) -/

section freed
variable {s : State} {k : SlotNo} {w : Waiting} {rest : List Waiting}

theorem State.modTrunk_congr {f g : Trunk → Trunk} (h : f s.trunk = g s.trunk) : s.modTrunk f = s.modTrunk g := by
  simp only [modTrunk, h]

theorem State.modTrunk_self {f : Trunk → Trunk} (h : f s.trunk = s.trunk) : s.modTrunk f = s := by simp only [modTrunk, h]

/-- The head of the queue is taken whatever queue stood before. -/
theorem State.grantHead_modQueue (q l : List Waiting) :
    (s.modTrunk fun t => { t with queue := q }).grantHead k l = s.grantHead k l := by
  induction l with
  | nil => rfl
  | cons w l ih =>
    have hwants : (s.modTrunk fun t => { t with queue := q }).wantsSlot w.holder = s.wantsSlot w.holder := by
      cases w.holder <;> rfl
    unfold grantHead
    rw [hwants, ih]
    rfl

theorem State.slotFreed_idle (h : s.trunk.state ≠ .up ∨ k ∉ s.trunk.allotment ∨ s.trunk.queue = []) : s.slotFreed k = s := by
  unfold slotFreed
  split
  · next hc =>
    have hq : s.trunk.queue = [] := (h.resolve_left fun hn => hn hc.1).resolve_left fun hn => hn hc.2
    rw [hq]
    exact modTrunk_self (by rw [← hq])
  · rfl

/-- The slot becomes the holder's at the head of the queue. -/
def State.slotGiven (s : State) (k : SlotNo) (w : Waiting) (rest : List Waiting) : State :=
  s.modTrunk fun t => { t with queue := rest, held := t.held ++ [⟨k, w.holder, w.cls⟩] }

theorem State.slotFreed_granted (hu : s.trunk.state = .up) (hk : k ∈ s.trunk.allotment) (hq : s.trunk.queue = w :: rest)
    (hw : s.wantsSlot w.holder = true) : s.slotFreed k = (s.slotGiven k w rest).granted w.holder k := by
  unfold slotFreed
  rw [if_pos ⟨hu, hk⟩, hq]
  exact if_pos hw

theorem State.slotFreed_passed (hu : s.trunk.state = .up) (hk : k ∈ s.trunk.allotment) (hq : s.trunk.queue = w :: rest)
    (hw : s.wantsSlot w.holder = false) : s.slotFreed k = (s.modTrunk fun t => { t with queue := rest }).slotFreed k := by
  have hnext : (s.modTrunk fun t => { t with queue := rest }).slotFreed k = s.grantHead k rest :=
    (if_pos ⟨hu, hk⟩).trans (grantHead_modQueue rest rest)
  rw [hnext]
  unfold slotFreed
  rw [if_pos ⟨hu, hk⟩, hq]
  exact if_neg (by simp [hw])

theorem State.tgGranted_some {v : VehNo} {b : Burst} (h : s.bursts.get v = some b) :
    s.tgGranted v k = s.setBurst v (some (b.granted k)) := by unfold tgGranted; rw [h]; rfl

/-- The count of an ANNOUNCE step begins. -/
theorem State.playStart_eq {r : RunnerNo} {j : Fin 128} (hj : (s.runners.get r).current = some j.val) :
    s.playStart r = s.modRunner r fun y => { y with
      state := .stepping, slotWaitAt := none, countEnd := some (s.now + 10 * (s.steps.get j).count) } := by
  simp [playStart, modRunner, hj, stepAt]

theorem State.csGranted_setup {id : Nat} {d : Call} (hd : s.callOf id = some d) (hst : d.state = .setup) :
    let goes (e : Call) : Call := { e with
      state := if e.b = .surface then .active else .ringing, slot := some k, waiting := false
      deadline := if e.b = .surface then none else some (s.now + 300) }
    s.csGranted id k = (s.modCall id goes).reportCall id (goes d) (some .setup) (.live (goes d).state) .connected := by
  intro goes
  have hgoes : (fun c : Call => { c.proceed s.now with slot := some k, waiting := false }) = goes := by
    funext e; simp only [Call.proceed, goes]; split <;> rfl
  have hfound : (s.modCall id goes).callOf id = some (goes d) := by rw [callOf_modCall (by exact fun _ => rfl), hd]; rfl
  unfold csGranted
  rw [hd, Option.map_some, hst]
  dsimp only
  rw [hgoes, reportCallNow_of_some hfound]

theorem State.csGranted_held {id : Nat} {d : Call} (hd : s.callOf id = some d) (hst : d.state = .held) :
    let goes (e : Call) : Call := { e with state := .active, slot := some k, waiting := false, deadline := none }
    s.csGranted id k = (s.modCall id goes).reportCall id (goes d) (some .held) (.live .active) .slotGranted := by
  intro goes
  have hfound : (s.modCall id goes).callOf id = some (goes d) := by rw [callOf_modCall (by exact fun _ => rfl), hd]; rfl
  unfold csGranted
  rw [hd, Option.map_some, hst]
  exact reportCallNow_of_some hfound _ _

end freed

/-! ## Releases and withdrawals (R108, R109) -/

section release
variable {s : State} {h : Holder}

theorem State.releaseSlot_none (hn : ∀ y ∈ s.trunk.held, y.holder ≠ h) : s.releaseSlot h = s := by
  have : (s.trunk.held.find? fun x => x.holder == h) = none := List.find?_eq_none.mpr fun y hy => by simpa using hn y hy
  unfold releaseSlot; rw [this]

theorem State.releaseSlot_some {before after : List HeldSlot} {y : HeldSlot} (hh : s.trunk.held = before ++ y :: after)
    (hy : y.holder = h) (hn : ∀ w ∈ before, w.holder ≠ h) :
    s.releaseSlot h = (s.modTrunk fun t => { t with held := t.held.filter fun w => w.holder != h }).slotFreed y.slot := by
  have hfind : (s.trunk.held.find? fun x => x.holder == h) = some y := by
    rw [hh, List.find?_append, List.find?_eq_none.mpr fun w hw => by simpa using hn w hw]
    simp [hy]
  unfold releaseSlot; rw [hfind]

/-- With no request waiting a holder gives up its slot and nothing follows. -/
theorem State.giveUp_idle (hq : s.trunk.queue = []) (h : Holder) :
    s.giveUp h = s.modTrunk fun t => { t with held := t.held.filter fun x => x.holder != h } := by
  have hrel : s.releaseSlot h = s.modTrunk fun t => { t with held := t.held.filter fun x => x.holder != h } := by
    unfold releaseSlot
    cases hf : s.trunk.held.find? fun x => x.holder == h with
    | none =>
      refine (modTrunk_self ?_).symm
      have : (s.trunk.held.filter fun x => x.holder != h) = s.trunk.held := List.filter_eq_self.mpr fun y hy => by
        simpa using List.find?_eq_none.mp hf y hy
      rw [this]
    | some y => exact slotFreed_idle (.inr (.inr hq))
  unfold giveUp
  rw [hrel]
  exact modTrunk_self (by simp [hq])

end release

/-! ## SET_TRUNK (R104) -/

section setTrunk
variable {s : State}

theorem slot?_eq_some {n : Nat} {k : SlotNo} : slot? n = some k ↔ n = k.val + 8 := by
  unfold slot?
  split
  · next h => rw [Option.some.injEq, Fin.ext_iff]; simp only; omega
  · next h => constructor
              · intro hn; cases hn
              · intro hn; omega

theorem mapM_slot?_eq_some {l : List Nat} {slots : List SlotNo} : l.mapM slot? = some slots ↔ l = slots.map fun k => k.val + 8 := by
  induction l generalizing slots with
  | nil => cases slots <;> simp
  | cons n l ih =>
    simp only [List.mapM_cons, Option.bind_eq_bind, Option.bind_eq_some_iff, Option.pure_def, Option.some.injEq, slot?_eq_some]
    constructor
    · rintro ⟨k, rfl, ks, hks, rfl⟩
      rw [ih.mp hks, List.map_cons]
    · intro h
      cases slots with
      | nil => cases h
      | cons k ks =>
        obtain ⟨hk, hks⟩ := List.cons.inj h
        exact ⟨k, hk, ks, ih.mpr hks, rfl⟩

/-- The slots of a list in range. -/
theorem trunkSlots?_of_inRange {l : List Nat} (h : l.Nodup ∧ 1 ≤ l.length ∧ l.length ≤ 24 ∧ ∀ n ∈ l, 8 ≤ n ∧ n ≤ 31) :
    ∃ slots : List SlotNo, trunkSlots? l = some slots ∧ l = slots.map fun k => k.val + 8 := by
  obtain ⟨hnodup, hone, hlen, hrange⟩ := h
  let slots : List SlotNo := l.attach.map fun n => ⟨n.1 - 8, by have := hrange n.1 n.2; omega⟩
  have hl : l = slots.map fun k => k.val + 8 := by
    have : (fun k : SlotNo => k.val + 8) ∘ (fun n : { n // n ∈ l } => (⟨n.1 - 8, by have := hrange n.1 n.2; omega⟩ : SlotNo)) =
        Subtype.val := by
      funext n; have := hrange n.1 n.2; simp only [Function.comp]; omega
    rw [List.map_map, this, List.attach_map_subtype_val]
  refine ⟨slots, ?_, hl⟩
  have hslots : slots.Nodup ∧ 1 ≤ slots.length ∧ slots.length ≤ 24 := by
    refine ⟨?_, by simpa [slots] using hone, by simpa [slots] using hlen⟩
    rw [hl] at hnodup
    exact hnodup.of_map
  simp [trunkSlots?, mapM_slot?_eq_some.mpr hl, hslots]

theorem trunkSlots?_inRange {l : List Nat} {slots : List SlotNo} (h : trunkSlots? l = some slots) :
    l.Nodup ∧ 1 ≤ l.length ∧ l.length ≤ 24 ∧ ∀ n ∈ l, 8 ≤ n ∧ n ≤ 31 := by
  simp only [trunkSlots?, Option.bind_eq_bind, Option.bind_eq_some_iff, Option.ite_none_right_eq_some] at h
  obtain ⟨ks, hks, ⟨hnodup, hone, hlen⟩, -⟩ := h
  rw [mapM_slot?_eq_some.mp hks]
  refine ⟨hnodup.map fun a b hab => Fin.ext (by simpa using hab), by simpa using hone, by simpa using hlen, fun n hn => ?_⟩
  obtain ⟨k, -, rfl⟩ := List.mem_map.mp hn
  have := k.isLt
  omega

/-- Freed slots change nothing while nobody waits, or the trunk is not UP. -/
theorem State.forEach_slotFreed_idle (h : s.trunk.queue = [] ∨ s.trunk.state ≠ .up) (l : List SlotNo) :
    s.forEach l slotFreed = s := by
  induction l with
  | nil => rfl
  | cons k l ih =>
    have hk : s.slotFreed k = s := slotFreed_idle (by rcases h with h | h <;> simp [h])
    show (s.slotFreed k).forEach l slotFreed = s
    rw [hk, ih]

theorem mem_map_slot {slots : List SlotNo} {k : SlotNo} : k.val + 8 ∈ slots.map (fun j => j.val + 8) ↔ k ∈ slots := by
  simp [Fin.val_inj]

end setTrunk

/-- Settles O44: the checks of R104, the allotment written, and `slotFreed` for each slot that joins. -/
theorem setTrunk : Obligations.SetTrunk := by
  intro s tag l hs i inRange leaves new written joining
  refine ⟨fun h => ?outside, fun h hl => ?busy, fun h hl => ?accepted⟩
  case outside =>
    have hnone : trunkSlots? l = none := Option.eq_none_iff_forall_ne_some.mpr fun slots hslots => h (trunkSlots?_inRange hslots)
    exact exec_refused hs (r := .setTrunk l) (x := .badValue) rfl (by simp [State.handle, State.doSetTrunk, hnone])
  all_goals
    obtain ⟨slots, hslots, hmap⟩ := trunkSlots?_of_inRange h
    have hmem (k : SlotNo) : k.val + 8 ∈ l ↔ k ∈ slots := by rw [hmap]; exact mem_map_slot
    have hleaves : (s.trunk.held.any fun x => x.slot ∈ s.trunk.allotment ∧ x.slot ∉ slots) = true ↔ leaves := by
      simp only [List.any_eq_true, decide_eq_true_eq, leaves, hmem]
  case busy =>
    refine exec_refused hs (r := .setTrunk l) (x := .busy) rfl ?_
    simp only [State.handle, State.doSetTrunk, hslots]
    exact if_pos (hleaves.mpr hl)
  case accepted =>
    have hnew : (allOf 24).filter (fun k => k ∈ slots) = new :=
      List.filter_congr fun k _ => by simp only [hmem]
    have hdo : exec i s = .next ((written.forEach joining State.slotFreed).answered tag [0x15, 0x00]) := by
      refine exec_accepted hs (r := .setTrunk l) rfl ?_
      simp only [State.handle, State.doSetTrunk, hslots]
      rw [if_neg (mt hleaves.mp hl)]
      unfold State.setAllotment
      rw [hnew]
    refine ⟨hdo, fun hidle => ?_, fun k v b cls rest hu hj hq hb hp hf => ?_⟩
    · rw [hdo, State.forEach_slotFreed_idle (s := written) hidle]
    · have hk : k ∈ written.trunk.allotment := List.mem_of_mem_filter (show k ∈ joining from hj ▸ List.mem_singleton_self k)
      have hfreed : written.slotFreed k = _ := State.slotFreed_granted hu hk hq (by
        show ((s.bursts.get v).any fun b => b.inProgress && b.forwarding == .pending) = true
        simp [hb, hp, hf])
      have hgranted : (written.slotGiven k ⟨.burst v, cls⟩ rest).granted (.burst v) k =
          (written.slotGiven k ⟨.burst v, cls⟩ rest).setBurst v (some (b.granted k)) := State.tgGranted_some hb
      rw [hdo, hj]
      show Host.Outcome.next ((written.slotFreed k).answered tag [0x15, 0x00]) = _
      rw [hfreed, hgranted]
      rfl

/-! ## Requests, preemption and the queue (R105 to R107) -/

section requests
variable {s : State} {h : Holder} {c : TrunkClass}

theorem mayPreempt_iff (c d : TrunkClass) : mayPreempt c d = true ↔
    c = .alarm ∧ (d = .priority ∨ d = .telemetry ∨ d = .routine) ∨ c = .emergency ∧ (d = .telemetry ∨ d = .routine) ∨
      c = .priority ∧ d = .routine := by
  cases c <;> cases d <;> decide

/-- A slot of the allotment that nobody holds. -/
def Trunk.Free (t : Trunk) (k : SlotNo) : Prop := k ∈ t.allotment ∧ ∀ y ∈ t.held, y.slot ≠ k

theorem Trunk.free_iff {t : Trunk} {k : SlotNo} :
    (decide (k ∈ t.allotment) && !(t.held.any fun x => x.slot == k)) = true ↔ t.Free k := by simp [Trunk.Free]

theorem Trunk.freeSlot_eq_some {t : Trunk} {k : SlotNo} (hk : t.Free k) (hj : ∀ j < k, ¬t.Free j) : t.freeSlot = some k :=
  firstOf_eq_some.mpr ⟨free_iff.mpr hk, fun j hlt => Bool.eq_false_iff.mpr (mt free_iff.mp (hj j hlt))⟩

theorem Trunk.freeSlot_eq_none {t : Trunk} (hk : ∀ k, ¬t.Free k) : t.freeSlot = none :=
  firstOf_eq_none_iff.mpr fun k => Bool.eq_false_iff.mpr (mt free_iff.mp (hk k))

/-- A holder that holds a slot or waits for one. -/
def Trunk.Known (t : Trunk) (h : Holder) : Prop := (∃ y ∈ t.held, y.holder = h) ∨ ∃ w ∈ t.queue, w.holder = h

theorem Trunk.known_iff {t : Trunk} : (t.holds h || t.waitsFor h) = true ↔ t.Known h := by
  simp [holds, waitsFor, Trunk.Known]

theorem foldl_max_rank (l : List TrunkClass) (m n : Nat) (hm : m ≤ n) (hl : ∀ c ∈ l, classRank c ≤ n)
    (hat : m = n ∨ ∃ c ∈ l, classRank c = n) : l.foldl (fun m c => max m (classRank c)) m = n := by
  induction l generalizing m with
  | nil => exact hat.resolve_right fun ⟨_, hc, _⟩ => List.not_mem_nil hc
  | cons c l ih =>
    have hc := hl c List.mem_cons_self
    refine ih _ (max_le hm hc) (fun d hd => hl d (List.mem_cons_of_mem c hd)) ?_
    rcases hat with rfl | ⟨d, hd, hdn⟩
    · exact .inl (max_eq_left hc)
    · rcases List.mem_cons.mp hd with rfl | hd
      · exact .inl (hdn ▸ max_eq_right (hdn ▸ hm))
      · exact .inr ⟨d, hd, hdn⟩

/-- The victim: the lowest class that the request may preempt, and the latest granted of that class (R106). -/
theorem Trunk.victim_some {t : Trunk} {before after : List HeldSlot} {y : HeldSlot} (hh : t.held = before ++ y :: after)
    (hy : mayPreempt c y.cls = true)
    (hmax : ∀ w ∈ before ++ after, mayPreempt c w.cls = true → classRank w.cls ≤ classRank y.cls)
    (hlate : ∀ w ∈ after, mayPreempt c w.cls = true → classRank w.cls < classRank y.cls) : t.victim c = some y := by
  have hmem {w : HeldSlot} (hw : w ∈ t.held) : w = y ∨ w ∈ before ++ after := by
    rw [hh] at hw; simp only [List.mem_append, List.mem_cons] at hw ⊢; tauto
  have hrank : lowestRank ((t.held.filter fun x => mayPreempt c x.cls).map fun y => y.cls) = classRank y.cls := by
    refine foldl_max_rank _ _ _ (Nat.zero_le _) (fun d hd => ?_) (.inr ⟨y.cls, ?_, rfl⟩)
    · obtain ⟨w, hw, rfl⟩ := List.mem_map.mp hd
      obtain ⟨hw, hp⟩ := List.mem_filter.mp hw
      rcases hmem hw with rfl | hw
      · exact le_rfl
      · exact hmax w hw hp
    · exact List.mem_map.mpr ⟨y, List.mem_filter.mpr ⟨by simp [hh], hy⟩, rfl⟩
  have hafter : (after.filter fun x => mayPreempt c x.cls).filter (fun x => classRank x.cls == classRank y.cls) = [] :=
    List.filter_eq_nil_iff.mpr fun w hw => by
      obtain ⟨hw, hp⟩ := List.mem_filter.mp hw
      simpa using (hlate w hw hp).ne
  have hheld : (t.held.filter fun x => mayPreempt c x.cls).filter (fun x => classRank x.cls == classRank y.cls) =
      (before.filter fun x => mayPreempt c x.cls).filter (fun x => classRank x.cls == classRank y.cls) ++ [y] := by
    rw [hh, List.filter_append, List.filter_append, List.filter_cons_of_pos (by exact hy), List.filter_cons_of_pos (by simp),
      hafter]
  unfold victim
  dsimp only
  rw [hrank, hheld, List.getLast?_concat]

theorem Trunk.victim_none {t : Trunk} (hh : ∀ y ∈ t.held, mayPreempt c y.cls = false) : t.victim c = none := by
  have : (t.held.filter fun x => mayPreempt c x.cls) = [] := List.filter_eq_nil_iff.mpr fun y hy => by simp [hh y hy]
  unfold victim
  rw [this]; rfl

/-- A request takes its place between the classes that go before it and those that go after. -/
theorem placeWaiting_split {w : Waiting} {before after : List Waiting} (hb : ∀ x ∈ before, classRank x.cls ≤ classRank w.cls)
    (ha : ∀ x ∈ after, classRank w.cls < classRank x.cls) : placeWaiting (before ++ after) w = before ++ w :: after := by
  have hb' : ∀ x ∈ before, decide (classRank x.cls ≤ classRank w.cls) = true := fun x hx => decide_eq_true (hb x hx)
  unfold placeWaiting
  rw [List.takeWhile_append_of_pos hb', List.dropWhile_append_of_pos hb']
  cases after with
  | nil => simp
  | cons x after =>
    have hx : decide (classRank x.cls ≤ classRank w.cls) = false := decide_eq_false (ha x List.mem_cons_self).not_ge
    rw [List.takeWhile_cons_of_neg (by simp [hx]), List.dropWhile_cons_of_neg (by simp [hx]), List.append_nil]

theorem mem_placeWaiting (q : List Waiting) (w : Waiting) : w ∈ placeWaiting q w := by simp [placeWaiting]

theorem State.toQueue_room {w : Waiting} (hq : s.trunk.queue.length < 16) :
    s.toQueue w = (s.modTrunk fun t => { t with queue := placeWaiting t.queue w }, .queued) := if_pos hq

theorem State.toQueue_refused {w last : Waiting} {init : List Waiting} (hq : 16 ≤ s.trunk.queue.length)
    (hl : s.trunk.queue = init ++ [last]) (hc : classRank last.cls ≤ classRank w.cls) : s.toQueue w = (s, .noSlot) := by
  have hlast : s.trunk.queue.getLast? = some last := by rw [hl, List.getLast?_concat]
  refine (if_neg (Nat.not_lt.mpr hq)).trans ?_
  rw [hlast]
  exact if_neg hc.not_gt

theorem State.toQueue_displaces {w last : Waiting} {init : List Waiting} (hq : 16 ≤ s.trunk.queue.length)
    (hl : s.trunk.queue = init ++ [last]) (hc : classRank w.cls < classRank last.cls) : s.toQueue w =
      (((s.modTrunk fun t => { t with queue := init }).noSlotNotice deferStart last.holder).modTrunk fun t => { t with
        queue := placeWaiting t.queue w }, .queued) := by
  have hlast : s.trunk.queue.getLast? = some last := by rw [hl, List.getLast?_concat]
  have hinit : s.trunk.queue.dropLast = init := by rw [hl, List.dropLast_concat]
  refine (if_neg (Nat.not_lt.mpr hq)).trans ?_
  rw [hlast, hinit]
  exact if_pos hc

/-- A request that finds no victim (R105 cases 1, 2, 3 and 5). -/
theorem State.requestSlot_plain (hn : ¬(s.trunk.state = .up ∧ s.trunk.holds h = false ∧ s.trunk.waitsFor h = false ∧
    s.trunk.freeSlot = none) ∨ s.trunk.victim c = none) {t : State} {a : SlotAnswer} (hp : s.requestPlain h c = (t, a)) :
    s.requestSlot h c = (t, a, none) := by
  unfold requestSlot
  split
  · next hc =>
    rw [hn.resolve_left fun hno => hno hc, hp]
  · rw [hp]

theorem State.requestPlain_down (hd : s.trunk.state ≠ .up) : s.requestPlain h c = (s, .noTrunk) := if_pos hd

theorem State.requestPlain_busy (hu : s.trunk.state = .up) (hk : s.trunk.Known h) : s.requestPlain h c = (s, .busy) :=
  (if_neg (not_not.mpr hu)).trans (if_pos (Trunk.known_iff.mpr hk))

theorem State.requestPlain_free {k : SlotNo} (hu : s.trunk.state = .up) (hk : ¬s.trunk.Known h)
    (hf : s.trunk.freeSlot = some k) : s.requestPlain h c = (s.modTrunk fun t => t.give k h c, .granted k) := by
  unfold requestPlain
  rw [if_neg (not_not.mpr hu), if_neg (mt Trunk.known_iff.mp hk), hf]

theorem State.requestPlain_queue (hu : s.trunk.state = .up) (hk : ¬s.trunk.Known h)
    (hf : s.trunk.freeSlot = none) : s.requestPlain h c = s.toQueue ⟨h, c⟩ := by
  unfold requestPlain
  rw [if_neg (not_not.mpr hu), if_neg (mt Trunk.known_iff.mp hk), hf]

theorem State.requestSlot_victim {y : HeldSlot} (hu : s.trunk.state = .up) (hk : ¬s.trunk.Known h)
    (hf : s.trunk.freeSlot = none) (hv : s.trunk.victim c = some y) :
    s.requestSlot h c = (s.passSlot y h c, .granted y.slot, some y.holder) := by
  have hno := Bool.or_eq_false_iff.mp (Bool.eq_false_iff.mpr (mt Trunk.known_iff.mp hk))
  unfold requestSlot
  rw [if_pos ⟨hu, hno.1, hno.2, hf⟩, hv]

/-- A call in ACTIVE loses its slot: HELD for 30 s, with its report (R96). -/
theorem State.preemptedNotice_active {id : Nat} {d : Call} (hd : s.callOf id = some d) (hst : d.state = .active) :
    let waits (e : Call) : Call := { e with state := .held, slot := none, deadline := some (s.now + 300) }
    s.preemptedNotice (.call id) =
      (s.modCall id waits).reportCall id (waits d) (some .active) (.live .held) .slotPreempted := by
  intro waits
  have hfound : (s.modCall id waits).callOf id = some (waits d) := by rw [callOf_modCall (by exact fun _ => rfl), hd]; rfl
  unfold preemptedNotice
  dsimp only
  rw [hd, Option.map_some, hst]
  exact reportCallNow_of_some hfound _ _

/-- A call in another state than ACTIVE at a PREEMPTED notice. -/
theorem State.preemptedNotice_ringing {id : Nat} {d : Call} (hd : s.callOf id = some d) (hst : d.state = .ringing) :
    s.preemptedNotice (.call id) = s.csEnd id .preempted := by simp [preemptedNotice, hd, hst]

theorem State.preemptedNotice_still {id : Nat} {d : Call} (hd : s.callOf id = some d) (hst : d.state = .setup ∨ d.state = .held) :
    s.preemptedNotice (.call id) = s := by rcases hst with hst | hst <;> simp [preemptedNotice, hd, hst]

theorem State.requestAgain_call {st : Starter} {id : Nat} {d : Call} (hd : s.callOf id = some d) (hst : d.state = .held) :
    s.requestAgain st (some (.call id)) = (s.requestPlain (.call id) (d.cls.getD .routine)).1.csTakeHeld id
      (s.requestPlain (.call id) (d.cls.getD .routine)).2 := by simp [requestAgain, hd, hst]

end requests

/-! ## The completion test of a burst (R142, R144) -/

section bursts
variable {s : State} {v : VehNo} {b : Burst} {st : Starter}

theorem State.modBurst_of_some (h : s.bursts.get v = some b) (f : Burst → Burst) : s.modBurst v f = s.setBurst v (some (f b)) := by
  unfold modBurst; rw [h]; rfl

/-- A burst that still gathers, or still forwards, does not complete. -/
theorem State.tgSettle_waits (h : s.bursts.get v = some b)
    (hb : b.gatherEnd = none ∨ (b.forwarding = .pending ∨ b.forwarding = .holding) ∧ b.forwarded < b.received.length) :
    s.tgSettle st v = s := by
  have hall : b.allForwarded = false := by
    rcases hb with hb | ⟨-, hb⟩ <;> simp [Burst.allForwarded, hb]
  have hended : b.ended = false := by
    rcases hb with hb | ⟨hb | hb, -⟩ <;> simp [Burst.ended, hb]
  unfold tgSettle
  rw [h]
  simp [hall, hended]

theorem State.tgStop_idle {cause : StopCause} (h : ∀ b, s.bursts.get v = some b → b.inProgress = false) :
    s.tgStop st v cause = s := by
  unfold tgStop
  refine if_neg fun hn => ?_
  cases hb : s.bursts.get v with
  | none => rw [hb] at hn; cases hn
  | some b => rw [hb, Option.any_some, h b hb] at hn; cases hn

theorem State.tgStop_some {cause : StopCause} (h : s.bursts.get v = some b) (hb : b.inProgress = true) :
    s.tgStop st v cause = (s.setBurst v (some (b.stop cause))).tgSettle st v := by
  unfold tgStop
  rw [if_pos (by rw [h]; exact hb), modBurst_of_some h]

theorem State.tgStop_gathering {cause : StopCause} (h : s.bursts.get v = some b) (hb : b.inProgress = true)
    (hg : b.gatherEnd = none) : s.tgStop st v cause = s.setBurst v (some (b.stop cause)) :=
  (tgStop_some h hb).trans (tgSettle_waits (b := b.stop cause) (by simp) (.inl hg))

end bursts

/-- Settles O46: the tables, the request at each case of R105, the notice to a victim, the request made again, the release and
the freed slot. -/
theorem slotRequest : Obligations.SlotRequest := by
  refine ⟨mayPreempt_iff, by decide, fun s h c => ?request, fun s y h c => ?passed, fun s hu hf hq => ?again, fun s h =>
    ⟨rfl, rfl, State.releaseSlot_none, fun before y after hh hy hn => State.releaseSlot_some hh hy hn⟩, fun s k => ?freed⟩
  case request =>
    intro x answer free known
    refine ⟨fun hd => State.requestSlot_plain (.inl fun hn => hd hn.1) (State.requestPlain_down hd), fun hu hk => ?_,
      fun hu hk k hfree hj => ?_, fun hu hk hno => ?_⟩
    · refine State.requestSlot_plain (.inl fun hn => ?_) (State.requestPlain_busy hu hk)
      have := Trunk.known_iff.mpr hk
      rw [hn.2.1, hn.2.2.1] at this; cases this
    · have hsome := Trunk.freeSlot_eq_some hfree hj
      exact State.requestSlot_plain (.inl fun hn => by rw [hsome] at hn; cases hn.2.2.2) (State.requestPlain_free hu hk hsome)
    · have hnone := Trunk.freeSlot_eq_none hno
      have queued (hh : ∀ y ∈ x.held, mayPreempt c y.cls = false) {t : State} {a : SlotAnswer}
          (ht : s.toQueue ⟨h, c⟩ = (t, a)) : answer = (t, a, none) :=
        State.requestSlot_plain (.inr (Trunk.victim_none hh)) ((State.requestPlain_queue hu hk hnone).trans ht)
      refine ⟨fun before after y hh hy hmax hlate =>
        State.requestSlot_victim hu hk hnone (Trunk.victim_some hh hy hmax hlate), fun hh hlen before after hq hb ha => ?_,
        fun hh hlen init last hq => ⟨fun hc => queued hh (State.toQueue_refused hlen hq hc), fun hc => ?_⟩⟩
      · refine queued hh ((State.toQueue_room hlen).trans (congrArg (fun t => (t, SlotAnswer.queued)) ?_))
        refine State.modTrunk_congr ?_
        have : placeWaiting s.trunk.queue ⟨h, c⟩ = before ++ ⟨h, c⟩ :: after := by
          rw [show s.trunk.queue = before ++ after from hq]; exact placeWaiting_split hb ha
        simp only [this]
      · intro told
        have hdisplaced := queued hh (State.toQueue_displaces (w := ⟨h, c⟩) hlen hq hc)
        refine ⟨hdisplaced, fun v b before after hv hb hp hg hi hbefore hafter => hdisplaced.trans ?_⟩
        have hstop : (s.modTrunk fun t => { t with queue := init }).noSlotNotice deferStart last.holder =
            (s.modTrunk fun t => { t with queue := init }).setBurst v (some (b.stop .noSlot)) := by
          rw [hv]; exact State.tgStop_gathering hb hp hg
        have hplace : placeWaiting init ⟨h, c⟩ = before ++ ⟨h, c⟩ :: after := by
          rw [hi]; exact placeWaiting_split hbefore hafter
        rw [hstop, ← hplace]
        rfl
  case passed =>
    intro taken after
    refine ⟨fun r hr => ?_, fun v b hv hb => ?_, fun id d hid hd => ⟨fun hst => ?_, fun hst => ?_, fun hst => ?_⟩⟩
    all_goals simp only [after, State.passSlot]
    · rw [hr]; rfl
    · have : taken.preemptedNotice (.burst v) = taken.setBurst v (some { b with
          state := .interrupted, slot := none, forwarding := .pending, carried := false }) :=
        State.modBurst_of_some (s := taken) hb _
      rw [hv]
      exact congrArg (fun t : State => t.modTrunk fun t => t.give y.slot h c) this
    all_goals
      rw [hid]
      refine congrArg (fun t : State => t.modTrunk fun t => t.give y.slot h c) ?_
    · exact State.preemptedNotice_active (s := taken) hd hst
    · exact State.preemptedNotice_ringing (s := taken) hd hst
    · exact State.preemptedNotice_still (s := taken) hd hst
  case again =>
    refine ⟨fun id d hd hst hh hw => ?_, fun v b hb hp hfw hh hw => ?_⟩
    · have hk : ¬s.trunk.Known (.call id) := fun hn => by
        have := Trunk.known_iff.mpr hn; rw [hh, hw] at this; cases this
      rw [State.requestAgain_call hd hst, State.requestPlain_queue hu hk hf, State.toQueue_room hq]
      simp only [State.csTakeHeld, State.markWaiting, State.modTrunk_trunk]
      have hwaits : (({ s.trunk with queue := placeWaiting s.trunk.queue ⟨.call id, d.cls.getD .routine⟩ } : Trunk).waitsFor
          (.call id)) = true := List.any_eq_true.mpr ⟨_, mem_placeWaiting _ _, by simp⟩
      rw [hwaits]
    · have hk : ¬s.trunk.Known (.burst v) := fun hn => by
        have := Trunk.known_iff.mpr hn; rw [hh, hw] at this; cases this
      have hwants : s.wantsSlot (.burst v) = true := by simp [State.wantsSlot, hb, hp, hfw]
      unfold State.requestAgain
      dsimp only
      rw [if_pos hwants, State.requestPlain_queue hu hk hf, State.toQueue_room hq]
      rfl
  case freed =>
    intro after
    refine ⟨State.slotFreed_idle, fun w rest hu hk hq => ?_⟩
    intro given passed
    have hpassed (h : s.wantsSlot w.holder = false) : passed := State.slotFreed_passed hu hk hq h
    have hgranted (h : s.wantsSlot w.holder = true) : after = given.granted w.holder k := State.slotFreed_granted hu hk hq h
    refine ⟨fun r hr => ⟨fun hn => hpassed ?_, fun j hst hj => (hgranted ?_).trans ?_⟩,
      fun v hv => ⟨fun hn => hpassed ?_, fun b hb hp hf => (hgranted ?_).trans ?_⟩,
      fun id hid => ⟨fun hn => hpassed ?_, fun d hd => ⟨fun hst => ?_, fun hst => ?_⟩⟩⟩
    · rw [hr]; simpa [State.wantsSlot] using hn
    · rw [hr]; simpa [State.wantsSlot] using hst
    · rw [hr]; exact State.playStart_eq (s := given) hj
    · rw [hv]
      cases hb : s.bursts.get v with
      | none => simp [State.wantsSlot, hb]
      | some b => rcases hn b hb with h | h <;> simp [State.wantsSlot, hb, h]
    · rw [hv]; simp [State.wantsSlot, hb, hp, hf]
    · rw [hv]; exact State.tgGranted_some (s := given) hb
    · rw [hid]
      cases hd : s.callOf id with
      | none => simp [State.wantsSlot, hd]
      | some d => simp [State.wantsSlot, hd, hn d hd]
    · intro goes
      have hw : s.wantsSlot w.holder = true := by rw [hid]; simp [State.wantsSlot, hd, hst]
      rw [hgranted hw, hid]
      exact State.csGranted_setup (s := given) hd hst
    · intro goes
      have hw : s.wantsSlot w.holder = true := by rw [hid]; simp [State.wantsSlot, hd, hst]
      rw [hgranted hw, hid]
      exact State.csGranted_held (s := given) hd hst

/-! ## Marks and cycles (R102, R103, R142) -/

section marks
variable {s : State} {v : VehNo} {b : Burst} {st : Starter}

theorem exec_goodMark (h : s.slp.inReset = none) : exec .goodMark s = .next (s.goodMark sendStart).beginSending :=
  congrArg Host.Outcome.next (State.event_operating h _)

theorem exec_missedMark (h : s.slp.inReset = none) : exec .missedMark s = .next (s.missedMark sendStart).beginSending :=
  congrArg Host.Outcome.next (State.event_operating h _)

theorem State.goodMark_up (h : s.trunk.state = .up) :
    s.goodMark st = (s.turnCycle st).modTrunk fun t => { t with misses := 0 } := by unfold goodMark; rw [h]

theorem State.goodMark_other (h : s.trunk.state ≠ .up) : s.goodMark st =
    if s.trunk.marks + 1 < 2 then s.modTrunk fun t => { t with marks := t.marks + 1, misses := 0 }
    else (s.modTrunk fun t => { t with state := .up, marks := 0, misses := 0 }).reportTrunk .sync .up 0 0 := by
  unfold goodMark
  split
  · next hu => exact absurd hu h
  · rfl

theorem State.missedMark_up (h : s.trunk.state = .up) : s.missedMark st =
    if s.trunk.misses + 1 < 4 then (s.turnCycle st).modTrunk fun t => { t with misses := t.misses + 1 }
    else s.trunkDown st := by unfold missedMark; rw [h]

theorem State.missedMark_other (h : s.trunk.state ≠ .up) : s.missedMark st =
    if s.trunk.misses + 1 < 4 then s.modTrunk fun t => { t with marks := 0, misses := t.misses + 1 }
    else s.modTrunk fun t => { t with state := .sync, marks := 0, misses := 0 } := by
  unfold missedMark
  split
  · next hu => exact absurd hu h
  · rfl

/-- A trunk that goes DOWN: every slot revoked, then every request removed, each with its notice (R103). -/
def State.trunkEmptied (s : State) : State :=
  ((s.modTrunk fun t => { t with state := .down }).forEach s.trunk.inOrder fun t x => t.revoke sendStart x).forEach
    s.trunk.queue fun t w => t.removeRequest sendStart w

/-- What the notices bring leaves the allotment. -/
theorem State.trunkEmptied_allotment : s.trunkEmptied.trunk.allotment = s.trunk.allotment :=
  (congrArg (fun x : Standing => x.configuration.allotment)
    ((forEach_standing _ fun t _ => t.removeRequest_standing sendStart_quiet).trans
      (forEach_standing _ fun t _ => t.revoke_standing sendStart_quiet)) :)

theorem State.trunkDown_eq : s.trunkDown sendStart =
    (s.trunkEmptied.report ⟨.safety, 0x8F, [0x01, 0x02] ++ byteField s.trunk.inOrder.length ++
      byteField s.trunk.queue.length⟩).modTrunk fun t => { t with
        state := .sync, marks := 0, misses := 0, held := [], queue := [] } := rfl

theorem State.trunkEmptied_nothing (hh : s.trunk.held = []) (hq : s.trunk.queue = []) :
    s.trunkEmptied = s.modTrunk fun t => { t with state := .down } := by
  have : s.trunk.inOrder = [] := by simp [Trunk.inOrder, hh]
  unfold trunkEmptied
  rw [this, hq]; rfl

theorem State.forwardCycle_none (h : ∀ v b, s.bursts.get v = some b → b.sending = false) : s.forwardCycle st = s := by
  have : (thoseOf 12 fun v => (s.bursts.get v).any Burst.sending) = [] := List.eq_nil_iff_forall_not_mem.mpr fun v hv => by
    obtain ⟨b, hb, hs⟩ := Option.any_eq_true .. |>.mp (mem_thoseOf.mp hv)
    rw [h v b hb] at hs; cases hs
  unfold forwardCycle
  rw [this]; rfl

/-- One burst with a quarter in the cycle that has gone. -/
theorem State.forwardCycle_single (hb : s.bursts.get v = some b) (hs : b.sending = true)
    (h : ∀ w c, w ≠ v → s.bursts.get w = some c → c.sending = false) :
    s.forwardCycle st = (s.setBurst v (some b.counted)).tgSettle st v := by
  have hv : ((s.bursts.get v).any Burst.sending) = true := by rw [hb]; exact hs
  have hlist : (thoseOf 12 fun v => (s.bursts.get v).any Burst.sending) = [v] := by
    refine List.Perm.eq_singleton ((List.perm_ext_iff_of_nodup ?_ (List.nodup_singleton v)).mpr fun w => ?_)
    · exact (List.nodup_finRange 12).filter _
    · rw [mem_thoseOf, List.mem_singleton]
      refine ⟨fun hw => ?_, fun hw => hw ▸ hv⟩
      by_contra hne
      obtain ⟨c, hc, hsc⟩ := Option.any_eq_true .. |>.mp hw
      rw [h w c hne hc] at hsc; cases hsc
  unfold forwardCycle
  rw [hlist]
  show (if (s.bursts.get v).any Burst.sending then (s.modBurst v Burst.counted).tgSettle st v else s) = _
  rw [if_pos hv, modBurst_of_some hb]

theorem State.turnCycle_missed (h : 1 ≤ s.trunk.misses) : s.turnCycle st = s.openCycle := by
  unfold turnCycle; rw [if_neg (by omega)]

theorem State.turnCycle_received (h : s.trunk.misses = 0) : s.turnCycle st = (s.forwardCycle st).openCycle := by
  unfold turnCycle; rw [if_pos h]

end marks

/-- Settles O45: the marks by the state of the trunk, the cycle by the bursts with a quarter in it, and the notices by the kind of
their holder. -/
theorem trunkMarks : Obligations.TrunkMarks := by
  refine ⟨fun s hs => ?marks, fun s => ?cycle, fun s => ?notices⟩
  case marks =>
    intro x fresh turned
    rw [exec_goodMark hs, exec_missedMark hs]
    refine ⟨fun h => by rw [State.goodMark_up h], fun h hm => ?_, fun h hm => ?_, fun h hm => ?_, fun h hm => ?_,
      fun h hm => ?_, fun h hm => ?_⟩
    · rw [State.missedMark_up h, if_pos (show x.misses + 1 < 4 by omega)]
    · rw [State.goodMark_other h, if_pos (show x.marks + 1 < 2 by omega)]
      refine congrArg (fun t : State => Host.Outcome.next t.beginSending) (State.modTrunk_congr ?_)
      rw [show s.trunk.marks = 0 from hm]
    · rw [State.goodMark_other h, if_neg (show ¬x.marks + 1 < 2 by omega)]; rfl
    · intro slots revoked removed
      have hdown : s.missedMark sendStart = s.trunkDown sendStart := by
        rw [State.missedMark_up h, if_neg (show ¬x.misses + 1 < 4 by omega)]
      rw [hdown, State.trunkDown_eq]
      refine ⟨rfl, State.trunkEmptied_allotment, fun hh hq => ?_⟩
      have hslots : s.trunk.inOrder.length = 0 := by simp [Trunk.inOrder, show s.trunk.held = [] from hh]
      have hqueue : s.trunk.queue.length = 0 := by simp [show s.trunk.queue = [] from hq]
      rw [State.trunkEmptied_nothing hh hq, hslots, hqueue]
      rfl
    · rw [State.missedMark_other h, if_pos (show x.misses + 1 < 4 by omega)]
    · rw [State.missedMark_other h, if_neg (show ¬x.misses + 1 < 4 by omega)]
  case cycle =>
    intro sends gone opened turned
    refine ⟨fun h => ?_, fun v b hm hb hg hother => ?_⟩
    · rcases Nat.eq_zero_or_pos s.trunk.misses with hz | hpos
      · have hnone := State.forwardCycle_none (st := sendStart) (h.resolve_left (by omega))
        exact (State.turnCycle_received hz).trans (congrArg opened hnone)
      · exact State.turnCycle_missed hpos
    · intro counted
      have hcycle : s.forwardCycle sendStart = counted.tgSettle sendStart v := State.forwardCycle_single hb hg hother
      have hturned : turned = opened (counted.tgSettle sendStart v) :=
        (State.turnCycle_received hm).trans (congrArg opened hcycle)
      refine ⟨fun hw => hturned.trans (congrArg opened (State.tgSettle_waits (b := b.counted) (by simp [counted]; rfl) ?_)),
        fun _ _ => hturned⟩
      have hholding : b.forwarding = .holding := by
        simp only [gone, sends, Bool.and_eq_true, beq_iff_eq] at hg; exact hg.1.1.2
      exact hw.imp id fun hlt => ⟨.inr hholding, hlt⟩
  case notices =>
    intro plays
    refine ⟨fun id => ⟨rfl, rfl⟩, fun r => ⟨rfl, fun h => if_neg h, fun k h hk => (if_pos h).trans (State.playStart_eq hk)⟩,
      fun v => ⟨fun h => ⟨State.tgStop_idle h, State.tgStop_idle h⟩, fun b hb hp => ?_⟩⟩
    intro stopped
    exact ⟨fun hg => ⟨State.tgStop_gathering hb hp hg, State.tgStop_gathering hb hp hg⟩,
      fun _ => ⟨State.tgStop_some hb hp, State.tgStop_some hb hp⟩⟩

/-! ## The ends of a call (R84, R92 to R95) -/

section callEnds
variable {s : State} {id : Nat} {c : Call}

@[simp] theorem State.clearCall_calls (p : Party) : (s.clearCall id p).calls = s.calls := by cases p <;> rfl
@[simp] theorem State.clearCall_answering (p : Party) : (s.clearCall id p).answering = s.answering := by cases p <;> rfl
@[simp] theorem State.freeVoice_calls (o : Option VoiceRef) : (s.freeVoice o).calls = s.calls := by cases o <;> rfl
@[simp] theorem State.freeVoice_trunk (o : Option VoiceRef) : (s.freeVoice o).trunk = s.trunk := by cases o <;> rfl
@[simp] theorem State.freeVoice_answering (o : Option VoiceRef) : (s.freeVoice o).answering = s.answering := by
  cases o <;> rfl

/-- Clearing a tag's call leaves the trunk as it is changed. -/
theorem State.clearCall_modTrunk (f : Trunk → Trunk) (p : Party) :
    (s.modTrunk f).clearCall id p = (s.clearCall id p).modTrunk f := by cases p <;> rfl

@[simp] theorem State.clearCall_trunk (p : Party) : (s.clearCall id p).trunk = s.trunk := by cases p <;> rfl

/-- What a call that ends gives back: its channels, and its slot or its request. -/
def State.givenBack (s : State) (id : Nat) (c : Call) : State :=
  ((s.freeVoice c.chanA).freeVoice c.chanB).giveUp (.call id)

theorem State.csEndFrom_some (h : s.callOf id = some c) (prev : Option CallState) (cause : CallCause) :
    s.csEndFrom id prev cause = ((((s.givenBack id c).clearCall id c.a).clearCall id c.b).dropCall id cause).reportCall id
      { c with chanA := none, chanB := none, slot := none } prev .ended cause := by
  unfold csEndFrom; rw [h]; rfl

theorem State.csEnd_some (h : s.callOf id = some c) (cause : CallCause) :
    s.csEnd id cause = s.csEndFrom id (some c.state) cause := by unfold csEnd; rw [h]; rfl

theorem exec_callExpiry {i : Instr} {state : CallState} {cause : CallCause} (hs : s.slp.inReset = none)
    (hi : i = .setupExpiry id ∧ state = .setup ∧ cause = .noResource ∨
      i = .ringExpiry id ∧ state = .ringing ∧ cause = .noAnswer ∨
      i = .heldExpiry id ∧ state = .held ∧ cause = .preempted) :
    exec i s = .next (s.expiry (s.callDeadline id state) fun s => s.csEnd id cause).beginSending := by
  rcases hi with ⟨rfl, rfl, rfl⟩ | ⟨rfl, rfl, rfl⟩ | ⟨rfl, rfl, rfl⟩ <;>
    exact congrArg Host.Outcome.next (State.event_operating hs _)

theorem exec_partyLostExpiry (hs : s.slp.inReset = none) (side : Side) : exec (.partyLostExpiry id side) s =
    .next (s.expiry ((s.callOf id).bind fun c => c.lostAt side) fun s => s.csEnd id .partyLost).beginSending :=
  congrArg Host.Outcome.next (State.event_operating hs _)

/-- A heard party's new deadline. -/
def Call.heardAt (c : Call) (r : Roster) (now : Time) : Call :=
  { c with
    lostA := if c.a = .tag r then some (now + 150) else c.lostA
    lostB := if c.b = .tag r then some (now + 150) else c.lostB }

/-- The party's new channel. -/
def Call.movedTo (c : Call) (r : Roster) (v : VoiceRef) : Call :=
  if c.a = .tag r then { c with chanA := some v } else { c with chanB := some v }

theorem Call.movedTo_id (c : Call) (r : Roster) (v : VoiceRef) : (c.movedTo r v).id = c.id := by
  unfold movedTo; split <;> rfl

theorem Call.movedTo_state (c : Call) (r : Roster) (v : VoiceRef) : (c.movedTo r v).state = c.state := by
  unfold movedTo; split <;> rfl

theorem State.callOf_calls {t : State} (h : t.calls = s.calls) : t.callOf id = s.callOf id := by unfold callOf; rw [h]

theorem State.handOver_still {r : Roster} (h : ∀ e, s.curEntry r = some e → s.freeChannel e = none) :
    s.handOver id r = s := by
  unfold handOver
  have : ((s.curEntry r).bind fun e => (s.freeChannel e).map fun k => (⟨e, k⟩ : VoiceRef)) = none := by
    cases he : s.curEntry r with
    | none => rfl
    | some e => simp [h e he]
  rw [this]
  cases s.callOf id <;> rfl

theorem State.handOver_moves {r : Roster} {e : EntryNo} {n : Fin 4} (hc : s.callOf id = some c) (he : s.curEntry r = some e)
    (hn : s.freeChannel e = some n) : s.handOver id r =
      (((s.setVoice ⟨e, n⟩ (some id)).freeVoice (if c.a = .tag r then c.chanA else c.chanB)).modCall id
        fun d => d.movedTo r ⟨e, n⟩).reportCall id (c.movedTo r ⟨e, n⟩) (some c.state) (.live c.state) .handover := by
  have hv : ((s.curEntry r).bind fun e => (s.freeChannel e).map fun k => (⟨e, k⟩ : VoiceRef)) = some ⟨e, n⟩ := by
    simp [he, hn]
  have hfound : (((s.setVoice ⟨e, n⟩ (some id)).freeVoice (if c.a = .tag r then c.chanA else c.chanB)).modCall id
      fun d => d.movedTo r ⟨e, n⟩).callOf id = some (c.movedTo r ⟨e, n⟩) := by
    rw [callOf_modCall fun d => d.movedTo_id r ⟨e, n⟩, callOf_calls (s := s) (by simp), hc]; rfl
  unfold handOver
  rw [hc, hv]
  dsimp only
  exact (reportCallNow_of_some hfound _ _).trans (by rw [Call.movedTo_state])

end callEnds

/-- Settles O43: the requests, the limits and the heard party through `csEnd` and `handOver`, and what an end gives back. -/
theorem callEnds : Obligations.CallEnds := by
  refine ⟨fun s tag id hs => ⟨fun h => ?outside, fun h1 h2 h => ?missing, fun h1 h2 h => ?ended⟩,
    fun s id i state cause hs hi => ?limits, fun s r id c hc => ?heard, fun s id side hs => ?lost,
    fun s id c prev cause hc => ?whole, fun s id c cause hc hq => ?alone⟩
  case outside =>
    exact exec_refused hs (r := .endCall id) (x := .badValue) rfl (if_pos h)
  case missing =>
    exact exec_refused hs (r := .endCall id) (x := .notFound) rfl ((if_neg (by omega)).trans (if_neg (by simp [h])))
  case ended =>
    exact exec_accepted hs (r := .endCall id) rfl ((if_neg (by omega)).trans (if_pos (Option.isSome_iff_ne_none.mpr h)))
  case limits =>
    rw [exec_callExpiry hs hi]
    refine ⟨fun h => ?_, fun c t hc hst ht => ?_⟩
    · have hnone : s.callDeadline id state = none := by
        unfold State.callDeadline
        cases hc : s.callOf id with
        | none => rfl
        | some c => rcases h c hc with h | h <;> simp [h]
      rw [hnone]; rfl
    · have hsome : s.callDeadline id state = some t := by simp [State.callDeadline, hc, hst, ht]
      rw [hsome]; rfl
  case heard =>
    intro later moved
    have hmoved : s.moveDeadline id r = moved := rfl
    have hfound : moved.callOf id = some (c.heardAt r s.now) := by
      show (s.modCall id fun d => d.heardAt r s.now).callOf id = _
      rw [State.callOf_modCall (by exact fun _ => rfl), hc]; rfl
    refine ⟨rfl, rfl, fun hno => State.handOver_still (s := moved) hno, fun e n he hn => ?_⟩
    intro onA shown
    have hover := State.handOver_moves (s := moved) hfound he hn
    have hshown : (c.heardAt r s.now).movedTo r ⟨e, n⟩ = shown := by
      simp only [Call.movedTo, Call.heardAt, shown, onA, later]
      split <;> rfl
    rw [hshown] at hover
    exact hover
  case lost =>
    intro lost
    rw [exec_partyLostExpiry hs]
    refine ⟨fun h => ?_, fun c t hc ht => ?_⟩
    · have hnone : ((s.callOf id).bind fun c => c.lostAt side) = none := by
        cases hc : s.callOf id with
        | none => rfl
        | some c => have := h c hc; cases side <;> exact this
      rw [hnone]; rfl
    · have hsome : ((s.callOf id).bind fun c => c.lostAt side) = some t := by
        rw [hc]; cases side <;> exact ht
      rw [hsome]; rfl
  case whole =>
    intro given freed
    refine ⟨State.csEnd_some hc cause, (State.csEndFrom_some hc prev cause).trans ?_⟩
    unfold State.dropCall
    simp only [State.clearCall_calls, State.clearCall_answering]
    rfl
  case alone =>
    intro freed
    have hgiven : s.givenBack id c = ((s.freeVoice c.chanA).freeVoice c.chanB).modTrunk fun t => { t with
        held := t.held.filter fun x => x.holder != .call id } := State.giveUp_idle (by simpa using hq) _
    rw [State.csEnd_some hc, State.csEndFrom_some hc, hgiven, State.clearCall_modTrunk, State.clearCall_modTrunk]
    unfold State.dropCall State.modTrunk
    simp only [State.clearCall_calls, State.clearCall_answering, State.clearCall_trunk, State.freeVoice_calls,
      State.freeVoice_trunk, State.freeVoice_answering]
    rfl

end Sys2Proof.Machine
end


section
/-! PROOFS. The statement on the making of a call (R83, R87 to R91, R99). -/

namespace Sys2Proof.Machine

/-! ## The id of a new call (R83) -/

/-- The ids are tried from the next-id value on. -/
theorem State.newCallId_eq {s : State} {k : Nat} (hk : k < 255)
    (hbefore : ∀ i < k, ∃ c ∈ s.calls, c.id = (s.nextCallId - 1 + i) % 255 + 1)
    (hfree : ∀ c ∈ s.calls, c.id ≠ (s.nextCallId - 1 + k) % 255 + 1) : s.newCallId = (s.nextCallId - 1 + k) % 255 + 1 := by
  have hfind : (((List.range 255).map fun i => (s.nextCallId - 1 + i) % 255 + 1).find? fun i =>
      s.calls.all fun c => c.id != i) = some ((s.nextCallId - 1 + k) % 255 + 1) := by
    rw [List.find?_eq_some_iff_getElem]
    refine ⟨by simpa using hfree, k, by simpa using hk, by simp, fun j hj => ?_⟩
    obtain ⟨c, hc, hid⟩ := hbefore j hj
    simp only [List.getElem_map, List.getElem_range, Bool.not_eq_true', List.all_eq_false]
    exact ⟨c, hc, by simp [hid]⟩
  unfold newCallId
  rw [hfind]; rfl

/-! ## The callee, the channels and the slot (R88 to R91) -/

section making
variable {s : State} {id : Nat} {a b : Party} {cls : Option TrunkClass} {kind : CallKind}

/-- The callee is a tag that can be reached (R88). -/
def State.Heard (s : State) (a b : Party) (r : Roster) (t : Tag) : Prop :=
  b = .tag r ∧ a ≠ b ∧ s.tags.get r = some t ∧ t.state = .placed ∧ t.cur ≠ none ∧ ∃ h, t.lastHeard = some h ∧ s.now < h + 150

theorem State.lastHeard_iff {t : Tag} {now : Time} : (t.cur.isNone || t.lastHeard.all fun h => h + Config.partyLostLimit ≤ now) =
    false ↔ t.cur ≠ none ∧ ∃ h, t.lastHeard = some h ∧ now < h + 150 := by
  have hlimit : Config.partyLostLimit = 150 := rfl
  cases hc : t.cur <;> cases hh : t.lastHeard <;> simp [hlimit]

theorem State.calleeFault_busy {r : Roster} {t : Tag} (h : s.Heard a b r t) (hc : t.call ≠ none) :
    s.calleeFault a b = some .busy := by
  obtain ⟨rfl, hab, ht, hst, hheard⟩ := h
  have := lastHeard_iff.mpr hheard
  simp only [calleeFault, hab, ↓reduceIte, ht, hst, ne_eq, not_true_eq_false, this, Bool.false_eq_true,
    Option.isSome_iff_ne_none.mpr hc]

theorem State.calleeFault_reached (h : b = .surface ∨ ∃ r t, s.Heard a b r t ∧ t.call = none) : s.calleeFault a b = none := by
  rcases h with rfl | ⟨r, t, ⟨rfl, hab, ht, hst, hheard⟩, hc⟩
  · rfl
  · have := lastHeard_iff.mpr hheard
    simp only [calleeFault, hab, ↓reduceIte, ht, hst, ne_eq, not_true_eq_false, this, Bool.false_eq_true, hc,
      Option.isSome_none]

theorem State.calleeFault_unreachable (hengaged : ¬∃ r t, s.Heard a b r t ∧ t.call ≠ none)
    (hreached : ¬(b = .surface ∨ ∃ r t, s.Heard a b r t ∧ t.call = none)) : s.calleeFault a b = some .unreachable := by
  have hno (r : Roster) (t : Tag) : ¬s.Heard a b r t := fun h => by
    by_cases hc : t.call = none
    · exact hreached (.inr ⟨r, t, h, hc⟩)
    · exact hengaged ⟨r, t, h, hc⟩
  cases b with
  | surface => exact absurd (.inl rfl) hreached
  | dialled code => rfl
  | tag r =>
    unfold calleeFault
    dsimp only
    split
    · rfl
    · next hab =>
      cases ht : s.tags.get r with
      | none => rfl
      | some t =>
        dsimp only
        split
        · rfl
        · next hst =>
          split
          · rfl
          · next hheard =>
            exact absurd ⟨rfl, hab, ht, not_not.mp hst, lastHeard_iff.mp (Bool.eq_false_iff.mpr hheard)⟩ (hno r t)

/-- What a party takes on its call point (R89). -/
def State.Takes (u : State) (p : Party) (o : Option VoiceRef) : Prop :=
  match p with
  | .tag r => ∃ e n, u.curEntry r = some e ∧ (u.voice.get e).get n = none ∧ (∀ m < n, (u.voice.get e).get m ≠ none) ∧
      o = some ⟨e, n⟩
  | _ => o = none

/-- The channel that a party takes is the call's. -/
def State.holding (u : State) (id : Nat) (o : Option VoiceRef) : State := o.elim u fun v => u.setVoice v (some id)

theorem State.freeChannel_eq_some {e : EntryNo} {n : Fin 4} : s.freeChannel e = some n ↔
    (s.voice.get e).get n = none ∧ ∀ m < n, (s.voice.get e).get m ≠ none := by
  simp [freeChannel, firstOf_eq_some, Option.isSome_iff_ne_none]

theorem State.takeFor_eq_some {p : Party} {t : State} {o : Option VoiceRef} :
    s.takeFor id p = some (t, o) ↔ s.Takes p o ∧ t = s.holding id o := by
  cases p with
  | surface =>
    simp only [takeFor, Takes, Option.some.injEq, Prod.mk.injEq]
    constructor
    · rintro ⟨rfl, rfl⟩; exact ⟨rfl, rfl⟩
    · rintro ⟨rfl, rfl⟩; exact ⟨rfl, rfl⟩
  | dialled code =>
    simp only [takeFor, Takes, Option.some.injEq, Prod.mk.injEq]
    constructor
    · rintro ⟨rfl, rfl⟩; exact ⟨rfl, rfl⟩
    · rintro ⟨rfl, rfl⟩; exact ⟨rfl, rfl⟩
  | tag r =>
    simp only [takeFor, Takes, Option.bind_eq_bind, Option.bind_eq_some_iff, Option.pure_def, Option.some.injEq,
      Prod.mk.injEq, freeChannel_eq_some]
    constructor
    · rintro ⟨e, he, n, ⟨hn, hm⟩, rfl, rfl⟩
      exact ⟨⟨e, n, he, hn, hm, rfl⟩, rfl⟩
    · rintro ⟨⟨e, n, he, hn, hm, rfl⟩, rfl⟩
      exact ⟨e, he, n, ⟨hn, hm⟩, rfl, rfl⟩

/-- Both parties' channels, party A first. -/
def State.TakesBoth (u : State) (id : Nat) (a b : Party) (x y : Option VoiceRef) : Prop :=
  u.Takes a x ∧ (u.holding id x).Takes b y

theorem State.takeBoth_some {x y : Option VoiceRef} (h : s.TakesBoth id a b x y) : s.takeBoth id a b =
    some (((s.holding id x).holding id y).modCall id fun d => { d with chanA := x, chanB := y }) := by
  have ha : s.takeFor id a = some (s.holding id x, x) := takeFor_eq_some.mpr ⟨h.1, rfl⟩
  have hb : (s.holding id x).takeFor id b = some ((s.holding id x).holding id y, y) := takeFor_eq_some.mpr ⟨h.2, rfl⟩
  simp [takeBoth, ha, hb]

theorem State.takeBoth_none (h : ∀ x y, ¬s.TakesBoth id a b x y) : s.takeBoth id a b = none := by
  refine Option.eq_none_iff_forall_ne_some.mpr fun t ht => ?_
  simp only [takeBoth, Option.bind_eq_bind, Option.bind_eq_some_iff] at ht
  obtain ⟨⟨u, x⟩, ha, ⟨w, y⟩, hb, -⟩ := ht
  obtain ⟨hx, rfl⟩ := takeFor_eq_some.mp ha
  exact h x y ⟨hx, (takeFor_eq_some.mp hb).1⟩

/-- A request that is queued waits in the queue. -/
theorem State.toQueue_waits {w : Waiting} {t : State} (h : s.toQueue w = (t, .queued)) : t.trunk.waitsFor w.holder = true := by
  have hplaced (q : List Waiting) : ((placeWaiting q w).any fun x => x.holder == w.holder) = true :=
    List.any_eq_true.mpr ⟨w, mem_placeWaiting q w, by simp⟩
  unfold toQueue at h
  dsimp only at h
  split at h
  · cases h; exact hplaced _
  · split at h
    · cases h
    · split at h
      · cases h; exact hplaced _
      · cases h

theorem State.requestPlain_waits {h : Holder} {c : TrunkClass} {t : State} (hq : s.requestPlain h c = (t, .queued)) :
    t.trunk.waitsFor h = true := by
  unfold requestPlain at hq
  split at hq
  · cases hq
  · split at hq
    · cases hq
    · split at hq
      · cases hq
      · exact toQueue_waits hq

theorem State.requestSlot_waits {h : Holder} {c : TrunkClass} {t : State} {o : Option Holder}
    (hq : s.requestSlot h c = (t, .queued, o)) : t.trunk.waitsFor h = true := by
  have hplain : (s.requestPlain h c).1 = t → (s.requestPlain h c).2 = .queued → t.trunk.waitsFor h = true := fun h1 h2 =>
    requestPlain_waits (Prod.ext h1 h2)
  unfold requestSlot at hq
  split at hq
  · split at hq
    · cases hq
    · simp only [Prod.mk.injEq] at hq; exact hplain hq.1 hq.2.1
  · simp only [Prod.mk.injEq] at hq; exact hplain hq.1 hq.2.1

/-! ### The call made, up to its channels -/

/-- The record of a new call, and the id in the caller's tag (R87). -/
def State.called (s : State) (kind : CallKind) (a b : Party) (cls : Option TrunkClass) : State := (s.newCall kind a b cls).1

/-- The id in the callee's tag, and both party-lost deadlines (R83, R88). -/
def State.readied (s : State) (kind : CallKind) (a b : Party) (cls : Option TrunkClass) : State :=
  ((s.called kind a b cls).writeCall s.newCallId b).modCall s.newCallId fun c => { c with
    lostA := s.lostDeadline a, lostB := s.lostDeadline b }

theorem State.writeCall_lastHeard {p : Party} (r : Roster) :
    ((s.writeCall id p).tags.get r).bind (fun t => t.lastHeard) = (s.tags.get r).bind fun t => t.lastHeard := by
  cases p with
  | surface => rfl
  | dialled code => rfl
  | tag q =>
    by_cases hq : q = r
    · subst hq; cases h : s.tags.get q <;> simp [writeCall, h]
    · simp [writeCall, hq]

theorem State.writeCall_lostDeadline {p q : Party} : (s.writeCall id p).lostDeadline q = s.lostDeadline q := by
  cases q with
  | surface => rfl
  | dialled code => rfl
  | tag r => exact congrArg (Option.map _) (writeCall_lastHeard r)

theorem State.called_lostDeadline {q : Party} : (s.called kind a b cls).lostDeadline q = s.lostDeadline q :=
  writeCall_lostDeadline.trans (by cases q <;> rfl)

/-- The callee is checked on the state before the call: the caller's tag is another. -/
theorem State.called_heard {r : Roster} {t : Tag} : (s.called kind a b cls).Heard a b r t ↔ s.Heard a b r t := by
  unfold Heard
  refine and_congr_right fun hb => and_congr_right fun hab => ?_
  have htag : (s.called kind a b cls).tags.get r = s.tags.get r := by
    cases a with
    | surface => rfl
    | dialled code => rfl
    | tag q =>
      have hq : q ≠ r := fun hq => hab (by rw [hb, hq])
      show (State.modTag _ q _).tags.get r = _
      simp [hq]
  have hnow : (s.called kind a b cls).now = s.now := by cases a <;> rfl
  rw [htag, hnow]

theorem State.makeCall_fault {cause : CallCause} (h : (s.called kind a b cls).calleeFault a b = some cause) :
    s.makeCall kind a b cls = (s.called kind a b cls).csEndFrom s.newCallId none cause := by
  unfold makeCall
  split
  next t id hnew =>
    have ht : t = s.called kind a b cls := (congrArg Prod.fst hnew).symm
    have hid : id = s.newCallId := (congrArg Prod.snd hnew).symm
    rw [ht, hid, h]

theorem State.makeCall_ready (h : (s.called kind a b cls).calleeFault a b = none) :
    s.makeCall kind a b cls =
      ((s.readied kind a b cls).takeChannels s.newCallId kind a b).elim
        ((s.readied kind a b cls).csEndFrom s.newCallId none .noResource) fun t => t.askSlot s.newCallId cls := by
  have hlost (p : Party) : ((s.called kind a b cls).writeCall s.newCallId b).lostDeadline p = s.lostDeadline p :=
    writeCall_lostDeadline.trans called_lostDeadline
  have hready : (((s.called kind a b cls).writeCall s.newCallId b).modCall s.newCallId fun c => { c with
      lostA := ((s.called kind a b cls).writeCall s.newCallId b).lostDeadline a
      lostB := ((s.called kind a b cls).writeCall s.newCallId b).lostDeadline b }) = s.readied kind a b cls := by
    rw [hlost, hlost]; rfl
  unfold makeCall
  split
  next t id hnew =>
    have ht : t = s.called kind a b cls := (congrArg Prod.fst hnew).symm
    have hid : id = s.newCallId := (congrArg Prod.snd hnew).symm
    rw [ht, hid, h]
    dsimp only
    rw [hready]
    cases (s.readied kind a b cls).takeChannels s.newCallId kind a b <;> rfl

theorem State.takeChannels_first {x y : Option VoiceRef} (h : s.TakesBoth id a b x y) : s.takeChannels id kind a b =
    some (((s.holding id x).holding id y).modCall id fun d => { d with chanA := x, chanB := y }) := by
  unfold takeChannels; rw [takeBoth_some h]

theorem State.takeChannels_again (h : ∀ x y, ¬s.TakesBoth id a b x y) : s.takeChannels id kind a b =
    if kind = .emergency then (s.evictChannel a).bind fun t => t.takeBoth id a b else none := by
  unfold takeChannels; rw [takeBoth_none h]

theorem Call.onPoint_iff {d : Call} {e : EntryNo} :
    d.onPoint e = true ↔ ∃ v, (d.chanA = some v ∨ d.chanB = some v) ∧ v.entry = e := by
  simp only [Call.onPoint, Bool.or_eq_true, Option.any_eq_true, beq_iff_eq]
  constructor
  · rintro (⟨v, hv, he⟩ | ⟨v, hv, he⟩)
    · exact ⟨v, .inl hv, he⟩
    · exact ⟨v, .inr hv, he⟩
  · rintro ⟨v, hv | hv, he⟩
    · exact .inl ⟨v, hv, he⟩
    · exact .inr ⟨v, hv, he⟩

/-- A ROUTINE call on the caller's call point (R89). -/
def State.OnCaller (s : State) (a : Party) (d : Call) : Prop :=
  d.kind = .routine ∧ ∃ r e v, a = .tag r ∧ s.curEntry r = some e ∧ (d.chanA = some v ∨ d.chanB = some v) ∧ v.entry = e

theorem State.onCaller_iff {r : Roster} {e : EntryNo} {d : Call} (he : s.curEntry r = some e) :
    s.OnCaller (.tag r) d ↔ d.kind = .routine ∧ d.onPoint e = true := by
  refine and_congr_right fun _ => Iff.trans ?_ Call.onPoint_iff.symm
  constructor
  · rintro ⟨q, e', v, hq, he', hv, hve⟩
    cases hq
    rw [he] at he'
    cases he'
    exact ⟨v, hv, hve⟩
  · rintro ⟨v, hv, hve⟩; exact ⟨r, e, v, rfl, he, hv, hve⟩

theorem State.evictChannel_none (h : ∀ d ∈ s.calls, ¬s.OnCaller a d) : s.evictChannel a = none := by
  cases a with
  | surface => rfl
  | dialled code => rfl
  | tag r =>
    cases he : s.curEntry r with
    | none => simp [evictChannel, he]
    | some e =>
      have hnone : (s.latestOf .routine fun c => c.onPoint e) = none := latestOf_eq_none fun d hd hk =>
        Bool.eq_false_iff.mpr fun hp => h d hd ((onCaller_iff he).mpr ⟨hk, hp⟩)
      simp [evictChannel, he, hnone]

theorem State.evictChannel_latest {d : Call} (hd : d ∈ s.calls) (hon : s.OnCaller a d)
    (hmax : ∀ o ∈ s.calls, o ≠ d → s.OnCaller a o → o.creation < d.creation) :
    s.evictChannel a = some (s.csEnd d.id .preempted) := by
  obtain ⟨hk, r, e, v, rfl, he, hv, hve⟩ := hon
  have hsome : (s.latestOf .routine fun c => c.onPoint e) = some d :=
    latestOf_eq_some hd hk (Call.onPoint_iff.mpr ⟨v, hv, hve⟩) fun o ho hne hok hop =>
      hmax o ho hne ((onCaller_iff he).mpr ⟨hok, hop⟩)
  simp [evictChannel, he, hsome]

/-- The state of a call that goes on (R91). -/
def Call.goesOn (c : Call) (now : Time) (k : Option SlotNo) : Call :=
  { c with
    state := if c.b = .surface then .active else .ringing, slot := k
    deadline := if c.b = .surface then none else some (now + 300) }

theorem Call.proceed_slot (c : Call) (now : Time) (k : Option SlotNo) :
    ({ c.proceed now with slot := k } : Call) = c.goesOn now k := by
  unfold proceed goesOn
  split <;> rfl

theorem State.connectNew_eq (s : State) (id : Nat) (k : Option SlotNo) :
    s.connectNew id k = (s.modCall id fun c => c.goesOn s.now k).reportCallNow id none .connected := by
  unfold connectNew
  simp only [Call.proceed_slot]

theorem State.askSlot_some {w : State} {k : TrunkClass} {ans : SlotAnswer} {again : Option Holder}
    (h : s.requestSlot (.call id) k = (w, ans, again)) :
    s.askSlot id (some k) = ((w.csTakeNew id ans).requestAgain sendStart again).settle := by
  unfold askSlot
  dsimp only
  rw [h]

end making

/-! ## A call at the end of the table -/

section last
variable {s : State} {l : List Call} {x : Call} {f : Call → Call}

/-- The call table replaced. -/
def State.withCalls (s : State) (l : List Call) : State := { s with calls := l }

theorem State.modCall_last (hl : ∀ d ∈ l, d.id ≠ x.id) :
    (s.withCalls (l ++ [x])).modCall x.id f = s.withCalls (l ++ [f x]) := by
  have hmap : (l ++ [x]).map (fun d => if d.id = x.id then f d else d) = l ++ [f x] := by
    have hsame : l.map (fun d => if d.id = x.id then f d else d) = l.map fun d => d :=
      List.map_congr_left fun d hd => if_neg (hl d hd)
    rw [List.map_append, hsame]; simp
  exact congrArg s.withCalls hmap

theorem State.callOf_last (hl : ∀ d ∈ l, d.id ≠ x.id) : (s.withCalls (l ++ [x])).callOf x.id = some x := by
  have hnone : l.find? (fun d => d.id == x.id) = none := List.find?_eq_none.mpr fun d hd => by simpa using hl d hd
  show (l ++ [x]).find? (fun d => d.id == x.id) = some x
  rw [List.find?_append, hnone]; simp

/-- A holder that holds no slot and waits for none gives nothing up. -/
theorem State.giveUp_none {h : Holder} (hh : ∀ y ∈ s.trunk.held, y.holder ≠ h) (hq : ∀ w ∈ s.trunk.queue, w.holder ≠ h) :
    s.giveUp h = s := by
  unfold giveUp
  rw [releaseSlot_none hh]
  refine modTrunk_self ?_
  have : (s.trunk.queue.filter fun w => w.holder != h) = s.trunk.queue := List.filter_eq_self.mpr fun w hw => by
    simpa using hq w hw
  rw [this]

theorem State.setTag_self {r : Roster} {t : Tag} (h : s.tags.get r = some t) : s.setTag r (some t) = s := by
  unfold setTag; rw [← h, set_get_self]

/-- The last call of the table ends before it has taken anything. -/
theorem State.csEndFrom_last {r : Roster} {t : Tag} {cause : CallCause} (hl : ∀ d ∈ l, d.id ≠ x.id) (ha : x.a = .surface)
    (hb : x.b = .tag r) (ht : s.tags.get r = some t) (hcall : t.call ≠ some x.id)
    (hchan : x.chanA = none ∧ x.chanB = none ∧ x.slot = none) (hh : ∀ y ∈ s.trunk.held, y.holder ≠ .call x.id)
    (hq : ∀ w ∈ s.trunk.queue, w.holder ≠ .call x.id) :
    (s.withCalls (l ++ [x])).csEndFrom x.id none cause =
      ({ s.withCalls l with answering := s.answering.map (noteEnd x.id cause) } : State).reportCall x.id x none .ended cause := by
  have hback : (s.withCalls (l ++ [x])).givenBack x.id x = s.withCalls (l ++ [x]) := by
    unfold givenBack
    rw [hchan.1, hchan.2.1]
    exact giveUp_none hh hq
  have hclear : (s.withCalls (l ++ [x])).clearCall x.id (.tag r) = s.withCalls (l ++ [x]) := by
    refine (modTag_of_some (s := s.withCalls (l ++ [x])) ht _).trans ?_
    rw [if_neg hcall]
    exact setTag_self (s := s.withCalls (l ++ [x])) ht
  have hdrop : (l ++ [x]).filter (fun d => d.id != x.id) = l := by
    rw [List.filter_append, List.filter_eq_self.mpr fun d hd => by simpa using hl d hd]; simp
  have hrecord : ({ x with chanA := none, chanB := none, slot := none } : Call) = x := by
    obtain ⟨h1, h2, h3⟩ := hchan
    cases x; simp_all
  rw [csEndFrom_some (callOf_last hl), hback, hrecord, ha, hb]
  show (((s.withCalls (l ++ [x])).clearCall x.id (.tag r)).dropCall x.id cause).reportCall x.id x none .ended cause = _
  rw [hclear]
  unfold dropCall
  show State.reportCall { s with calls := (l ++ [x]).filter _, answering := _ } x.id x none .ended cause = _
  rw [hdrop]
  rfl

end last

/-- The state after PLACE_CALL has made its call, its end noted (R99; log entry 63). -/
def State.callPlaced (s : State) (r : Roster) : State :=
  ({ s with answering := some (s.newCallId, none) } : State).makeCall .priority .surface (.tag r) (some .priority)

/-- The fields of its reply. -/
def State.placedFields (s : State) (id : Nat) : Bytes :=
  byteField id ++ named callShownStates (s.placedState id) ++ optNamed callCauses (s.answering.bind Prod.snd)

/-- No cause is noted any longer. -/
def State.unnoted (s : State) : State := { s with answering := none }

/-- Settles O42: the id, the callee, the channels and the slot of any call, and PLACE_CALL with two of its calls written out. -/
theorem placeCall : Obligations.PlaceCall := by
  refine ⟨fun s k hk => ?ids, fun s kind a b cls => ?making, fun s tag hs => ⟨fun k hk => ?outside, fun r => ?request⟩⟩
  case ids =>
    intro id hbefore hfree
    exact State.newCallId_eq hk hbefore hfree
  case making =>
    intro id c noted made after heard engaged reached lost ready takes holding both told joined ends goes
    have hmade : s.called kind a b cls = made := by
      show State.writeCall _ id a = noted _ a
      cases a <;> rfl
    have hready : s.readied kind a b cls = ready := by
      unfold State.readied
      rw [hmade]
      have hwrite : made.writeCall id b = noted made b := by cases b <;> rfl
      have hlost (p : Party) : s.lostDeadline p = lost p := by cases p <;> rfl
      show (made.writeCall id b).modCall id _ = _
      rw [hwrite, hlost, hlost]
    have hheard (r : Roster) (t : Tag) : (s.called kind a b cls).Heard a b r t ↔ heard r t := State.called_heard
    have htakes (u : State) (p : Party) (o : Option VoiceRef) : u.Takes p o ↔ takes u p o := by cases p <;> exact Iff.rfl
    have hboth (u : State) (x y : Option VoiceRef) : u.TakesBoth id a b x y ↔ both u x y := and_congr (htakes ..) (htakes ..)
    have hslot (u : State) (x y : Option VoiceRef) (hafter : after = (((holding (holding u x) y).modCall id fun d => { d with
        chanA := x, chanB := y }).askSlot id cls)) : goes u x y := by
      refine ⟨fun hcls => ?_, fun k w ans again hcls hw => ?_⟩
      · rw [hafter, hcls]; exact State.connectNew_eq _ id none
      · have hask : after = ((w.csTakeNew id ans).requestAgain sendStart again).settle := by
          rw [hafter, hcls]; exact State.askSlot_some hw
        refine ⟨fun n hn => ?_, fun hn => ?_, fun hn => ?_, fun hn => ?_⟩
        all_goals rw [hn] at hask
        · exact hask.trans (congrArg (fun t : State => (t.requestAgain sendStart again).settle)
            (State.connectNew_eq w id (some n)))
        · rw [hn] at hw
          have hwaits := State.requestSlot_waits hw
          have hmark : w.markWaiting id = w.modCall id fun d => { d with waiting := true } := by
            unfold State.markWaiting; rw [hwaits]
          exact hask.trans (congrArg (fun t : State => ((t.reportCallNow id none .created).requestAgain sendStart again).settle)
            hmark)
        · exact hask
        · exact hask
    refine ⟨fun h => ?_, fun hengaged hreached => ?_, fun h => ?_⟩
    · obtain ⟨r, t, ht, hc⟩ := h
      exact (State.makeCall_fault (State.calleeFault_busy ((hheard r t).mpr ht) hc)).trans (by rw [hmade])
    · refine (State.makeCall_fault (State.calleeFault_unreachable ?_ ?_)).trans (by rw [hmade])
      · simpa only [hheard] using hengaged
      · simpa only [hheard] using hreached
    · have hafter : after = (ready.takeChannels id kind a b).elim (ends ready .noResource) fun t => t.askSlot id cls := by
        rw [← hready]
        exact State.makeCall_ready (State.calleeFault_reached (by simpa only [hheard] using h))
      refine ⟨fun x y hxy => hslot _ _ _ ?_, fun hno => ?_⟩
      · rw [hafter, State.takeChannels_first ((hboth ..).mpr hxy)]; rfl
      · intro on
        have hnone : ∀ x y, ¬ready.TakesBoth id a b x y := fun x y => mt (hboth ..).mp (hno x y)
        rw [State.takeChannels_again hnone] at hafter
        refine ⟨fun hk => ?_, fun hk d hd hon hmax => ?_⟩
        · have hres : (if kind = .emergency then (ready.evictChannel a).bind fun t => t.takeBoth id a b else none) = none := by
            rcases hk with hk | hk
            · exact if_neg hk
            · rw [State.evictChannel_none hk]; exact ite_self _
          rw [hafter, hres]; rfl
        · intro freed
          have hevict : ready.evictChannel a = some freed := State.evictChannel_latest hd hon hmax
          rw [if_pos hk, hevict] at hafter
          refine ⟨fun x y hxy => hslot _ _ _ ?_, fun hno' => ?_⟩
          · rw [hafter, Option.bind_some, State.takeBoth_some ((hboth ..).mpr hxy)]; rfl
          · rw [hafter, Option.bind_some, State.takeBoth_none fun x y => mt (hboth ..).mp (hno' x y)]; rfl
  case outside =>
    exact exec_refused hs (r := .placeCall k) (x := .badValue) rfl (by
      simp [State.handle, State.doPlaceCall, State.withTag, index?_eq_none.mpr hk])
  case request =>
    intro i
    have hdo (t : Tag) (ht : s.tags.get r = some t) : s.handle (.placeCall (number r)) =
        if s.trunk.state ≠ .up then s.refuse .noTrunk
        else if s.callsFull then s.refuse .full
        else (s.callPlaced r).unnoted.reply ((s.callPlaced r).placedFields s.newCallId) := by
      simp only [State.handle, State.doPlaceCall, State.withTag, index?_number, ht, Option.elim_some]
      rfl
    refine ⟨fun h => exec_refused hs (r := .placeCall (number r)) (x := .notFound) rfl (by
      simp [State.handle, State.doPlaceCall, State.withTag, h]), fun t ht => ?_⟩
    intro id counted unused c
    refine ⟨fun hu => exec_refused hs (r := .placeCall (number r)) (x := .noTrunk) rfl (by rw [hdo t ht, if_pos hu]),
      fun hu hf => exec_refused hs (r := .placeCall (number r)) (x := .full) rfl (by
        rw [hdo t ht, if_neg (not_not.mpr hu), if_pos (State.callsFull_iff.mpr hf)]), fun hu hf => ?_⟩
    have hmade : exec i s = .next ((s.callPlaced r).unnoted.answered tag
        ([0x12, 0x00] ++ (s.callPlaced r).placedFields s.newCallId)) :=
      exec_replied hs (r := .placeCall (number r)) rfl (by
        rw [hdo t ht, if_neg (not_not.mpr hu), if_neg (mt State.callsFull_iff.mp (by omega))])
    refine ⟨hmade, fun hunused hst => hmade.trans ?_, fun hunused h e n k hst hcall hlast hnow he hn hk hoffs =>
      hmade.trans ?_⟩
    all_goals
      obtain ⟨h1, h255, hids, htag, hheld, hqueue⟩ := hunused
      have hid : s.newCallId = id := by
        have hmod : (s.nextCallId - 1 + 0) % 255 + 1 = id := by simp only [id] at h1 h255 ⊢; omega
        exact (State.newCallId_eq (k := 0) (by omega) (by omega) fun d hd => by rw [hmod]; exact hids d hd).trans hmod
      let noting : State := { counted with answering := some (id, none) }
      have hnewId : ({ s with answering := some (s.newCallId, none) } : State).newCallId = id := hid
      have hcalled : ({ s with answering := some (s.newCallId, none) } : State).called .priority .surface (.tag r)
          (some .priority) = noting.withCalls (s.calls ++ [c]) := by
        unfold State.called State.newCall
        dsimp only
        rw [hnewId, hid]
        rfl
    · let gone : State := ({ noting with answering := some (id, some .unreachable) } : State).reportCall id c none .ended
        .unreachable
      have hfault : (noting.withCalls (s.calls ++ [c])).calleeFault .surface (.tag r) = some .unreachable := by
        have : (noting.withCalls (s.calls ++ [c])).tags.get r = some t := ht
        simp [State.calleeFault, this, hst]
      have hnote : noting.answering.map (noteEnd id .unreachable) = some (id, some .unreachable) := by
        simp [noting, noteEnd]
      have hends : (noting.withCalls (s.calls ++ [c])).csEndFrom id none .unreachable = gone := by
        refine (State.csEndFrom_last (s := noting) (x := c) hids rfl rfl ht htag ⟨rfl, rfl, rfl⟩ hheld hqueue).trans ?_
        show State.reportCall { noting.withCalls s.calls with answering := noting.answering.map (noteEnd id .unreachable) }
          id c none .ended .unreachable = gone
        rw [hnote]
        rfl
      have hmake : s.callPlaced r = gone := by
        refine (State.makeCall_fault (by rw [hcalled]; exact hfault)).trans ?_
        rw [hcalled, hnewId, hends]
      have hnone : gone.callOf id = none := List.find?_eq_none.mpr fun d hd => by simpa using hids d hd
      have hfields : gone.placedFields id = [BitVec.ofNat 8 id, 0x04, 0x00, 0x00] := by
        unfold State.placedFields State.placedState
        rw [hnone]
        rfl
      rw [hmake, hid, hfields]
      rfl
    · let onPoint : VoiceRef := ⟨e, n⟩
      let known : Call := { c with lostB := some (h + 150) }
      let joined : Call := { known with chanA := none, chanB := some onPoint }
      let base : State := noting.setTag r (some { t with call := some id })
      let voiced : State := (base.setVoice onPoint (some id)).withCalls (s.calls ++ [joined])
      let rung : Call := joined.goesOn s.now (some k)
      have hheard : s.Heard .surface (.tag r) r t := by
        refine ⟨rfl, by simp, ht, hst, ?_, h, hlast, hnow⟩
        intro hnone
        simp [State.curEntry, ht, hnone] at he
      have hready : ({ s with answering := some (s.newCallId, none) } : State).readied .priority .surface (.tag r)
          (some .priority) = base.withCalls (s.calls ++ [known]) := by
        have hlost : ({ s with answering := some (s.newCallId, none) } : State).lostDeadline (.tag r) = some (h + 150) := by
          simp [State.lostDeadline, ht, hlast, Config.partyLostLimit]
        have hwrite : (noting.withCalls (s.calls ++ [c])).writeCall id (.tag r) = base.withCalls (s.calls ++ [c]) :=
          State.modTag_of_some (s := noting.withCalls (s.calls ++ [c])) ht _
        unfold State.readied
        rw [hcalled, hnewId, hlost, hwrite]
        exact State.modCall_last (s := base) (x := c) hids
      have htakes : (base.withCalls (s.calls ++ [known])).TakesBoth id .surface (.tag r) none (some onPoint) := by
        refine ⟨rfl, e, n, ?_, (State.freeChannel_eq_some.mp hn).1, (State.freeChannel_eq_some.mp hn).2, rfl⟩
        have hcur : (base.withCalls (s.calls ++ [known])).tags.get r = some { t with call := some id } := by
          simp [base, State.withCalls]
        simp only [State.curEntry, ht, Option.bind_some] at he
        simp only [State.curEntry, State.holding, Option.elim_none, hcur, Option.bind_some]
        exact he
      have hchannels : (base.withCalls (s.calls ++ [known])).takeChannels id .priority .surface (.tag r) = some voiced := by
        refine (State.takeChannels_first htakes).trans (congrArg some ?_)
        exact State.modCall_last (s := base.setVoice onPoint (some id)) (x := known) hids
      have hslot : voiced.requestSlot (.call id) .priority =
          (voiced.modTrunk fun x => x.give k (.call id) .priority, .granted k, none) := by
        have hunknown : ¬voiced.trunk.Known (.call id) := by
          rintro (⟨y, hy, hyh⟩ | ⟨w, hw, hwh⟩)
          · exact hheld y hy hyh
          · exact hqueue w hw hwh
        have hfree : voiced.trunk.freeSlot = some k := hk
        exact State.requestSlot_plain (.inl fun hno => by rw [hfree] at hno; cases hno.2.2.2)
          (State.requestPlain_free hu hunknown hfree)
      let done : State := (((base.setVoice onPoint (some id)).modTrunk fun x => x.give k (.call id) .priority).withCalls
        (s.calls ++ [rung])).reportCall id rung none (.live rung.state) .connected
      have hconnect : (voiced.modTrunk fun x => x.give k (.call id) .priority).connectNew id (some k) = done := by
        rw [State.connectNew_eq]
        have hrung := State.modCall_last (s := (base.setVoice onPoint (some id)).modTrunk fun x => x.give k (.call id) .priority)
          (x := joined) (f := fun d => d.goesOn s.now (some k)) hids
        refine (congrArg (fun u : State => u.reportCallNow id none .connected) hrung).trans ?_
        exact State.reportCallNow_of_some (State.callOf_last (x := rung) hids) _ _
      have hmake : s.callPlaced r = done := by
        have hfault := State.calleeFault_reached (.inr ⟨r, t, (State.called_heard (s := { s with
          answering := some (s.newCallId, none) }) (kind := .priority) (cls := some .priority)).mpr hheard, hcall⟩)
        refine (State.makeCall_ready hfault).trans ?_
        rw [hready, hnewId, hchannels, Option.elim_some, State.askSlot_some hslot]
        show ((voiced.modTrunk fun x => x.give k (.call id) .priority).connectNew id (some k)).settle = done
        rw [hconnect]
        exact State.settle_nil hoffs
      have hfound : done.callOf id = some rung := State.callOf_last (s := s) (x := rung) hids
      have hfields : done.placedFields id = [BitVec.ofNat 8 id, 0x01, 0x01] := by
        unfold State.placedFields State.placedState
        rw [hfound]
        rfl
      rw [hmake, hid, hfields]
      rfl

end Sys2Proof.Machine
end

section
/-! PROOFS. The statements on the haulage: the reads of a beacon and the timers (R116, R121 to R132), and SET_VEHICLE (R119). -/

namespace Sys2Proof.Machine

/-! ## The tables by number -/

section tables
variable {s : State} {v : VehNo}

theorem State.onboardChannel_eq_some {c : ChanNo} : s.onboardChannel v = some c ↔
    ((s.channels.get c).configured = true ∧ (s.channels.get c).source = some (.vehicle v)) ∧
      ∀ d < c, ¬((s.channels.get d).configured = true ∧ (s.channels.get d).source = some (.vehicle v)) := by
  simp [onboardChannel, firstOf_eq_some]

theorem State.onboardChannel_eq_none : s.onboardChannel v = none ↔
    ∀ c, ¬((s.channels.get c).configured = true ∧ (s.channels.get c).source = some (.vehicle v)) := by
  simp [onboardChannel, firstOf_eq_none_iff]

theorem State.onboardChannel_isSome : (s.onboardChannel v).isSome = true ↔
    ∃ c, (s.channels.get c).configured = true ∧ (s.channels.get c).source = some (.vehicle v) := by
  rw [Option.isSome_iff_ne_none, ne_eq, onboardChannel_eq_none]
  simp only [not_forall, not_not]

/-- The onboard channel is part of the configuration. -/
theorem State.onboardChannel_of_standing {t : State} (h : t.standing = s.standing) : t.onboardChannel v = s.onboardChannel v := by
  have hchannels : t.channels.map Channel.afterReset = s.channels.map Channel.afterReset :=
    congrArg (fun x : Standing => x.configuration.channels) h
  have hget (c : ChanNo) : (t.channels.get c).afterReset = (s.channels.get c).afterReset := by
    have := congrArg (fun x : Vector Channel 32 => x.get c) hchannels
    simpa using this
  have hcfg (c : ChanNo) : (t.channels.get c).configured = (s.channels.get c).configured :=
    (congrArg (fun x : Channel => x.configured) (hget c) :)
  have hsrc (c : ChanNo) : (t.channels.get c).source = (s.channels.get c).source :=
    (congrArg (fun x : Channel => x.source) (hget c) :)
  unfold onboardChannel
  simp only [hcfg, hsrc]

/-- The one vehicle that carries a tag id. -/
theorem State.vehicleOf_unique {id : Nat} (hv : (s.vehicles.get v).configured = true ∧ (s.vehicles.get v).tagId = id)
    (h : ∀ w, (s.vehicles.get w).configured = true ∧ (s.vehicles.get w).tagId = id → w = v) : s.vehicleOf id = some v :=
  firstOf_unique (by simp [hv]) fun w hw => h w (by simpa using hw)

theorem State.vehicleOf_none {id : Nat} (h : ∀ v, ¬((s.vehicles.get v).configured = true ∧ (s.vehicles.get v).tagId = id)) :
    s.vehicleOf id = none := firstOf_eq_none_iff.mpr fun v => by simpa using h v

end tables

/-! ## A vehicle's list and its summaries (R10, R22, R121) -/

section lists
variable {s : State} {v : VehNo} {z y : ZoneNo} {st : Starter}

/-- A vehicle taken from a zone's list, and one joined to it. -/
def State.unpark (s : State) (v : VehNo) (y : ZoneNo) : State :=
  s.modZone y fun q => { q with vehicles := q.vehicles.filter fun w => w != v }

def State.park (s : State) (v : VehNo) (z : ZoneNo) : State := s.modZone z fun q => { q with vehicles := q.vehicles ++ [v] }

/-- The lists after a vehicle has come from one zone into another. -/
def State.parked (s : State) (v : VehNo) (z : ZoneNo) : State :=
  ((s.listZone v).elim s fun y => s.unpark v y).park v z

theorem State.enterZone_same (h : s.listZone v = some z) : s.enterZone st v z = s := if_pos h

theorem State.enterZone_new (h : s.listZone v ≠ some z) :
    s.enterZone st v z = (s.parked v z).followOnboard st v (s.listZone v) (some z) := if_neg h

theorem State.parked_channels : (s.parked v z).channels = s.channels := by
  unfold parked; cases s.listZone v <;> rfl

theorem State.parked_onboard : (s.parked v z).onboardChannel v = s.onboardChannel v := by
  unfold onboardChannel; rw [parked_channels]

theorem State.parked_vehicles : (s.parked v z).vehicles = s.vehicles := by
  unfold parked; cases s.listZone v <;> rfl

theorem State.park_zone (s : State) (v : VehNo) (z x : ZoneNo) : ((s.park v z).zones.get x).evac = (s.zones.get x).evac ∧
    ((s.park v z).zones.get x).view = (s.zones.get x).view := by
  simp only [park, modZone_zones, get_set_entry]
  split
  · next h => subst h; exact ⟨rfl, rfl⟩
  · exact ⟨rfl, rfl⟩

theorem State.unpark_zone (s : State) (v : VehNo) (y x : ZoneNo) : ((s.unpark v y).zones.get x).evac = (s.zones.get x).evac ∧
    ((s.unpark v y).zones.get x).view = (s.zones.get x).view := by
  simp only [unpark, modZone_zones, get_set_entry]
  split
  · next h => subst h; exact ⟨rfl, rfl⟩
  · exact ⟨rfl, rfl⟩

/-- A change of list changes no evacuation state and no power view. -/
theorem State.parked_zone (s : State) (v : VehNo) (z x : ZoneNo) : ((s.parked v z).zones.get x).evac = (s.zones.get x).evac ∧
    ((s.parked v z).zones.get x).view = (s.zones.get x).view := by
  unfold parked
  cases s.listZone v with
  | none => exact park_zone ..
  | some y =>
    obtain ⟨he, hv⟩ := unpark_zone s v y x
    obtain ⟨he', hv'⟩ := park_zone (s.unpark v y) v z x
    exact ⟨he'.trans he, hv'.trans hv⟩

theorem State.followOnboard_none {left joined : Option ZoneNo} (h : s.onboardChannel v = none) :
    s.followOnboard st v left joined = s := if_neg (by simp [h])

theorem State.followOnboard_some {c : ChanNo} {left joined : Option ZoneNo} (h : s.onboardChannel v = some c) :
    s.followOnboard st v left joined = s.recomputeZones st left joined := if_pos (by simp [h])

theorem State.vehicleEnters_same (h : s.listZone v = some z) : s.vehicleEnters st v z = s := by
  unfold vehicleEnters
  rw [enterZone_same h, h]
  dsimp only
  split
  · simp
  · rfl

theorem State.vehicleEnters_alone (h : s.listZone v ≠ some z) (hc : s.onboardChannel v = none) :
    s.vehicleEnters st v z = s.parked v z := by
  have hparked : (s.parked v z).onboardChannel v = none := parked_onboard.trans hc
  unfold vehicleEnters
  rw [enterZone_new h, followOnboard_none hparked]
  dsimp only
  rw [hparked]

/-- The summaries of the zone left and the zone joined, then the demand of an onboard channel that qualifies. -/
theorem State.vehicleEnters_onboard {c : ChanNo} (hst : st.Quiet) (h : s.listZone v ≠ some z) (hc : s.onboardChannel v = some c)
    {summed : State} (hs : ((s.listZone v).elim (s.parked v z) fun y => (s.parked v z).recompute st y).recompute st z = summed) :
    s.vehicleEnters st v z = if (summed.channels.get c).qualifies = true then summed.raiseDemand st c else summed := by
  have hparked : (s.parked v z).onboardChannel v = some c := parked_onboard.trans hc
  have hsummed : (s.parked v z).followOnboard st v (s.listZone v) (some z) = summed := by
    rw [followOnboard_some hparked, ← hs]
    exact if_neg fun hz => h hz.symm
  have honboard : summed.onboardChannel v = some c := by
    have hstanding : summed.standing = (s.parked v z).standing := by
      rw [← hs]
      cases s.listZone v <;> simp [hst]
    exact (onboardChannel_of_standing hstanding).trans hparked
  have hmoved : (s.listZone v != some z) = true := by simpa using h
  unfold vehicleEnters
  rw [enterZone_new h, hsummed]
  dsimp only
  rw [honboard, hmoved]
  simp

end lists

/-! ## Reads (R121 to R127) -/

section reads
variable {s : State} {v : VehNo} {j : JuncNo}

theorem State.beaconJunction_eq_some {r : DevRef} (hj : (s.junctions.get j).configured = true ∧ (s.junctions.get j).beacon = some r)
    (h : ∀ k < j, ¬((s.junctions.get k).configured = true ∧ (s.junctions.get k).beacon = some r)) :
    s.beaconJunction r = some j := firstOf_eq_some.mpr ⟨by simp [hj], fun k hk => by simpa using h k hk⟩

theorem State.beaconJunction_eq_none {r : DevRef}
    (h : ∀ k, ¬((s.junctions.get k).configured = true ∧ (s.junctions.get k).beacon = some r)) : s.beaconJunction r = none :=
  firstOf_eq_none_iff.mpr fun k => by simpa using h k

theorem State.matchTrip_eq (s : State) (v : VehNo) : s.matchTrip v = if (s.vehicles.get v).kind ≠ .service ∧
    (∃ z, (s.vehicles.get v).zone = some z ∧ isTripped (s.zones.get z).view = true) then s.addReason v .trip
    else s.removeReason v .trip := by
  have hiff : (stopsOnTrip (s.vehicles.get v).kind && (s.vehicles.get v).zone.any fun z => isTripped (s.zones.get z).view) = true ↔
      (s.vehicles.get v).kind ≠ .service ∧ ∃ z, (s.vehicles.get v).zone = some z ∧ isTripped (s.zones.get z).view = true := by
    simp [stopsOnTrip_eq, Option.any_eq_true]
  unfold matchTrip matchReason
  simp only [hiff]

theorem State.matchEvacuation_eq (s : State) (v : VehNo) : s.matchEvacuation v =
    if (∃ z, (s.vehicles.get v).zone = some z ∧ (s.zones.get z).evac ≠ .none) then s.addReason v .evacuation
    else s.removeReason v .evacuation := by
  have hiff : ((s.vehicles.get v).zone.any fun z => s.evacuating z) = true ↔
      ∃ z, (s.vehicles.get v).zone = some z ∧ (s.zones.get z).evac ≠ .none := by simp [Option.any_eq_true, evacuating]
  unfold matchEvacuation matchReason
  simp only [hiff]

/-- A vehicle without the reason, in a zone that does not bring it. -/
theorem State.matchTrip_none (hstop : (s.vehicles.get v).stop.trip = false)
    (h : (s.vehicles.get v).kind = .service ∨ ∀ z, (s.vehicles.get v).zone = some z → isTripped (s.zones.get z).view = false) :
    s.matchTrip v = s := by
  rw [matchTrip_eq, if_neg, removeReason_hasNot (by exact hstop)]
  rintro ⟨hk, z, hz, ht⟩
  rcases h with h | h
  · exact hk h
  · rw [h z hz] at ht; cases ht

theorem State.matchEvacuation_none (hstop : (s.vehicles.get v).stop.evacuation = false)
    (h : ∀ z, (s.vehicles.get v).zone = some z → (s.zones.get z).evac = .none) : s.matchEvacuation v = s := by
  rw [matchEvacuation_eq, if_neg, removeReason_hasNot (by exact hstop)]
  rintro ⟨z, hz, he⟩
  exact he (h z hz)

/-- A leg as read and the leg of a claim that it becomes (R123). -/
def State.LegFits (s : State) (l : RawLeg) (k : Leg) : Prop :=
  number k.junction = l.junction ∧ k.entry = l.entry ∧ k.exit = l.exit ∧ k.cleared = false ∧
    (s.junctions.get k.junction).configured = true ∧
    (1 ≤ l.entry ∧ l.entry ≤ (s.junctions.get k.junction).branches) ∧
    1 ≤ l.exit ∧ l.exit ≤ (s.junctions.get k.junction).branches

theorem State.leg?_eq_some {l : RawLeg} {k : Leg} : s.leg? l = some k ↔ s.LegFits l k := by
  simp only [leg?, LegFits, Option.bind_eq_bind, Option.bind_eq_some_iff, index?_eq_some_iff,
    Option.ite_none_right_eq_some, Option.some.injEq, Bool.and_eq_true, decide_eq_true_eq]
  constructor
  · rintro ⟨j, hj, ⟨⟨⟨⟨hc, h1⟩, h2⟩, h3⟩, h4⟩, rfl⟩
    exact ⟨hj, rfl, rfl, rfl, hc, ⟨h1, h2⟩, h3, h4⟩
  · rintro ⟨hj, he, hx, hcl, hc, ⟨h1, h2⟩, h3, h4⟩
    refine ⟨k.junction, hj, ⟨⟨⟨⟨hc, h1⟩, h2⟩, h3⟩, h4⟩, ?_⟩
    obtain ⟨kj, ke, kx, kc⟩ := k
    simp_all

theorem mapM_eq_some_iff {α β : Type} {f : α → Option β} {l : List α} {l' : List β} :
    l.mapM f = some l' ↔ List.Forall₂ (fun a b => f a = some b) l l' := by
  induction l generalizing l' with
  | nil => simp [eq_comm]
  | cons a l ih =>
    simp only [List.mapM_cons, Option.bind_eq_bind, Option.bind_eq_some_iff, Option.pure_def, Option.some.injEq, ih,
      List.forall₂_cons_left_iff]
    constructor
    · rintro ⟨b, hb, bs, hbs, rfl⟩; exact ⟨b, bs, hb, hbs, rfl⟩
    · rintro ⟨b, bs, hb, hbs, rfl⟩; exact ⟨b, hb, bs, hbs, rfl⟩

theorem forall₂_left_mem {α β : Type} {R : α → β → Prop} {l : List α} {l' : List β} (h : List.Forall₂ R l l') {a : α}
    (ha : a ∈ l) : ∃ b ∈ l', R a b := by
  induction h with
  | nil => cases ha
  | cons hab _ ih =>
    rcases List.mem_cons.mp ha with rfl | ha
    · exact ⟨_, List.mem_cons_self, hab⟩
    · obtain ⟨b, hb, hr⟩ := ih ha
      exact ⟨b, List.mem_cons_of_mem _ hb, hr⟩

theorem forall₂_junctions {raw : List RawLeg} {legs : List Leg} (h : List.Forall₂ s.LegFits raw legs) :
    raw.map (fun l => l.junction) = (legs.map fun l => l.junction).map number := by
  induction h with
  | nil => rfl
  | cons hab _ ih => simp only [List.map_cons, ih, hab.1]

/-- The legs of a read in which no junction stands twice. -/
theorem State.legs?_some {raw : List RawLeg} {legs : List Leg} (hn : (raw.map fun l => l.junction).Nodup)
    (h : List.Forall₂ s.LegFits raw legs) : s.legs? raw = some legs := by
  have hmap : raw.mapM s.leg? = some legs := mapM_eq_some_iff.mpr (h.imp fun _ _ hab => leg?_eq_some.mpr hab)
  have hnodup : (legs.map fun l => l.junction).Nodup := by
    rw [forall₂_junctions h] at hn; exact hn.of_map
  simp [legs?, hmap, hnodup]

theorem State.legs?_none {raw : List RawLeg} (h : ¬(raw.map fun l => l.junction).Nodup ∨ ∃ l ∈ raw, ∀ k, ¬s.LegFits l k) :
    s.legs? raw = none := by
  refine Option.eq_none_iff_forall_ne_some.mpr fun legs hl => ?_
  simp only [legs?, Option.bind_eq_bind, Option.bind_eq_some_iff, Option.ite_none_right_eq_some] at hl
  obtain ⟨ks, hks, hnodup, -⟩ := hl
  have hall : List.Forall₂ s.LegFits raw ks := (mapM_eq_some_iff.mp hks).imp fun _ _ hab => leg?_eq_some.mp hab
  rcases h with h | ⟨l, hl, hno⟩
  · refine h ?_
    rw [forall₂_junctions hall]
    exact hnodup.map number_injective
  · obtain ⟨k, -, hk⟩ := forall₂_left_mem hall hl
    exact hno k hk

/-- Release processing over some junctions: the pending walks, then the wait list. -/
theorem State.releaseAll_cons {l : List JuncNo} (h : l ≠ []) :
    s.releaseAll l = (s.forEach l releaseWalk).forEach (s.forEach l releaseWalk).waits scanEntry := by
  unfold releaseAll
  rw [if_neg (by simpa using h)]

theorem State.forEach_releaseWalk_none {l : List JuncNo} (h : ∀ j ∈ l, (s.junctions.get j).walkPending = false) :
    s.forEach l releaseWalk = s := by
  induction l with
  | nil => rfl
  | cons j l ih =>
    have hj : s.releaseWalk j = s := if_neg (by simp [h j List.mem_cons_self])
    show (s.releaseWalk j).forEach l releaseWalk = s
    rw [hj, ih fun k hk => h k (List.mem_cons_of_mem j hk)]

/-- The state that a vehicle takes from what it holds (R116). -/
theorem State.stateFromHoldings_eq (s : State) (v : VehNo) : s.stateFromHoldings v =
    if (s.vehicles.get v).stop ≠ {} then VehicleState.stopped else if (s.vehicles.get v).claim ≠ none then .claimed
      else if ∃ w ∈ s.waits, w.vehicle = v then .claimWait else .idle := by
  have hstop : (!(s.vehicles.get v).stop.isEmpty) = true ↔ (s.vehicles.get v).stop ≠ {} := by
    rw [Bool.not_eq_true', ← Bool.not_eq_true, StopSet.isEmpty_iff]
  have hwait : (s.waitOf v).isSome = true ↔ ∃ w ∈ s.waits, w.vehicle = v := by
    rw [Option.isSome_iff_ne_none, ne_eq, waitOf_eq_none]; simp
  unfold stateFromHoldings
  simp only [hstop, hwait, Option.isSome_iff_ne_none]

theorem State.moveVehicle_same {z : ZoneNo} (h : (s.vehicles.get v).zone = some z) : s.moveVehicle v z = s := if_pos h

/-- A position update at a junction of a zone: waking, the stamp, and the move. -/
theorem State.updatePosition_eq {z : ZoneNo} (hz : (s.junctions.get j).zone = some z) :
    s.updatePosition v j = ((s.wake v).stampRead v j).moveVehicle v z := by
  have hjunc : ((s.wake v).stampRead v j).junctions = s.junctions := by
    unfold stampRead wake
    split <;> rfl
  unfold updatePosition
  dsimp only
  rw [hjunc, hz]
  rfl

/-- The stamp of a read on a vehicle that has woken. -/
theorem State.wake_stamp_unseen (h : (s.vehicles.get v).state = .unseen) : (s.wake v).stampRead v j =
    s.modVehicle v fun y => { y with
      state := s.stateFromHoldings v, lastRead := some s.now, lastJunction := some j, lostAt := some (s.now + 600) } := by
  unfold wake stampRead
  rw [h]
  exact modVehicle_modVehicle ..

theorem State.wake_stamp_lost (h : (s.vehicles.get v).state = .lost) : (s.wake v).stampRead v j =
    ((s.modVehicle v fun y => { y with state := s.stateFromHoldings v }).reportVehicle v .lost .found none).modVehicle v fun y =>
      { y with lastRead := some s.now, lastJunction := some j, lostAt := some (s.now + 600) } := by
  unfold wake stampRead
  rw [h]
  rfl

theorem State.wake_stamp_seen (h : (s.vehicles.get v).state ≠ .unseen) (h' : (s.vehicles.get v).state ≠ .lost) :
    (s.wake v).stampRead v j = s.modVehicle v fun y =>
      { y with lastRead := some s.now, lastJunction := some j, lostAt := some (s.now + 600) } := by
  have hwake : s.wake v = s := by
    unfold wake
    split
    · next hx => exact absurd hx h
    · next hx => exact absurd hx h'
    · rfl
  rw [hwake]
  rfl

/-- A read leaves the zones, the channels and what a vehicle is and holds to the steps that follow. -/
theorem State.wake_stamp_zones (s : State) (v : VehNo) (j : JuncNo) : ((s.wake v).stampRead v j).zones = s.zones := by
  unfold stampRead wake
  split <;> rfl

theorem State.wake_stamp_channels (s : State) (v : VehNo) (j : JuncNo) : ((s.wake v).stampRead v j).channels = s.channels := by
  unfold stampRead wake
  split <;> rfl

theorem State.wake_stamp_vehicle (s : State) (v : VehNo) (j : JuncNo) :
    (((s.wake v).stampRead v j).vehicles.get v).zone = (s.vehicles.get v).zone ∧
      (((s.wake v).stampRead v j).vehicles.get v).kind = (s.vehicles.get v).kind ∧
      (((s.wake v).stampRead v j).vehicles.get v).stop = (s.vehicles.get v).stop := by
  unfold stampRead wake
  split <;> simp [reportVehicle]

theorem State.approach_stopped {r : DevRef} {raw : List RawLeg} (h : (s.vehicles.get v).stop ≠ {}) : s.approach v r raw = s := by
  unfold approach
  exact if_pos (by simpa [StopSet.isEmpty_iff, Bool.eq_false_iff] using h)

theorem State.approach_claimed {r : DevRef} {raw : List RawLeg} {c : Claim} (h : (s.vehicles.get v).stop = {})
    (hc : (s.vehicles.get v).claim = some c) : s.approach v r raw =
      if (∀ l ∈ raw, ∃ k ∈ c.legs, number k.junction = l.junction) then s
      else s.reportRouteConflict v (c.legs.map fun k => k.junction) (raw.map fun l => l.junction) := by
  have hagain : (raw.all fun l => c.legs.any fun k => number k.junction == l.junction) = true ↔
      ∀ l ∈ raw, ∃ k ∈ c.legs, number k.junction = l.junction := by simp
  unfold approach
  dsimp only
  rw [if_neg (by rw [(StopSet.isEmpty_iff _).mpr h]; decide), hc]
  simp only [hagain]

theorem State.approach_free {r : DevRef} {raw : List RawLeg} (h : (s.vehicles.get v).stop = {})
    (hc : (s.vehicles.get v).claim = none) : s.approach v r raw =
      (s.legs? raw).elim (s.reportRouteInvalid r (s.vehicles.get v).tagId (some v) .badLeg) fun legs =>
        if s.slp.mode = .loading then s.reportRouteInvalid r (s.vehicles.get v).tagId (some v) .loading
        else if legs.any fun l => (s.junctions.get l.junction).state == .failed then
          s.reportRouteInvalid r (s.vehicles.get v).tagId (some v) .junctionFailed
        else if s.allFree legs then s.grant v legs
        else s.joinWait v legs := by
  unfold approach
  dsimp only
  rw [if_neg (by rw [(StopSet.isEmpty_iff _).mpr h]; decide), hc]
  cases s.legs? raw <;> rfl

theorem State.clear_nothing (h : ∀ c, (s.vehicles.get v).claim = some c → ∀ l ∈ c.legs, l.junction = j → l.cleared = true) :
    s.clear v j = s := by
  unfold clear
  split
  · next c hc =>
    refine if_neg fun hn => ?_
    obtain ⟨l, hl, hlj⟩ := List.any_eq_true.mp hn
    simp only [Bool.and_eq_true, beq_iff_eq, Bool.not_eq_true'] at hlj
    have := h c hc l hl hlj.1
    rw [hlj.2] at this; cases this
  · rfl

theorem State.clear_held {c : Claim} {l : Leg} (hc : (s.vehicles.get v).claim = some c) (hl : l ∈ c.legs) (hj : l.junction = j)
    (hcl : l.cleared = false) :
    s.clear v j = ((s.modVehicle v (clearClaim j c)).modJunction j dropHolder).releaseAll [j] := by
  have hany : (c.legs.any fun l => l.junction == j && !l.cleared) = true :=
    List.any_eq_true.mpr ⟨l, hl, by simp [hj, hcl]⟩
  unfold clear
  rw [hc]
  exact if_pos hany

/-- A claim at its last clear, and before it. -/
theorem clearClaim_last {c : Claim} {x : Vehicle} (h : ∀ k ∈ clearLeg j c.legs, k.cleared = true) :
    clearClaim j c x = { x with claim := none, state := .idle } := by
  have : (heldLegs (clearLeg j c.legs)).isEmpty = true := by
    simp only [List.isEmpty_iff, heldLegs, List.filter_eq_nil_iff, Bool.not_eq_true', Bool.not_eq_false]
    exact h
  unfold clearClaim
  exact if_pos this

theorem clearClaim_more {c : Claim} {x : Vehicle} (h : ∃ k ∈ clearLeg j c.legs, k.cleared = false) :
    clearClaim j c x = { x with claim := some { c with legs := clearLeg j c.legs } } := by
  have : ¬(heldLegs (clearLeg j c.legs)).isEmpty = true := by
    obtain ⟨k, hk, hcl⟩ := h
    simp only [List.isEmpty_iff, heldLegs, List.filter_eq_nil_iff, Bool.not_eq_true', Bool.not_eq_false]
    intro hn
    rw [hn k hk] at hcl; cases hcl
  unfold clearClaim
  exact if_neg this

end reads

/-! ## The obligation on the haulage's timers and reads -/

section haulage
variable {s : State} {v : VehNo} {j : JuncNo}

/-- The zone change of a read, where neither reason comes or goes and no channel rides on the vehicle. -/
theorem State.moveVehicle_alone {z : ZoneNo} (hz : (s.vehicles.get v).zone ≠ some z) (hc : s.onboardChannel v = none)
    (hl : s.listZone v ≠ some z) (htrip : (s.vehicles.get v).stop.trip = false)
    (hevac : (s.vehicles.get v).stop.evacuation = false) (hev : (s.zones.get z).evac = .none)
    (hview : (s.vehicles.get v).kind = .service ∨ isTripped (s.zones.get z).view = false) :
    s.moveVehicle v z = ((s.modVehicle v fun y => { y with zone := some z }).tgZoneChange v).parked v z := by
  have hmove : s.moveVehicle v z = ((((s.modVehicle v fun y => { y with zone := some z }).tgZoneChange v).vehicleEnters sendStart
      v z).matchTrip v).matchEvacuation v := if_neg hz
  rw [hmove, vehicleEnters_alone (by exact hl) (by exact hc)]
  generalize hp : ((s.modVehicle v fun y => { y with zone := some z }).tgZoneChange v).parked v z = p
  have hvehicle : p.vehicles.get v = { s.vehicles.get v with zone := some z } := by
    rw [← hp, parked_vehicles]; simp [tgZoneChange, modBurst, modVehicle]
  have hzone (x : ZoneNo) : (p.zones.get x).evac = (s.zones.get x).evac ∧ (p.zones.get x).view = (s.zones.get x).view := by
    rw [← hp]; exact parked_zone ..
  rw [matchTrip_none (by rw [hvehicle]; exact htrip), matchEvacuation_none (by rw [hvehicle]; exact hevac)]
  · rw [hvehicle]
    rintro x hx
    obtain rfl : z = x := Option.some.inj hx
    exact (hzone z).1.trans hev
  · rw [hvehicle]
    refine hview.imp id fun h x hx => ?_
    obtain rfl : z = x := Option.some.inj hx
    rw [(hzone z).2]
    exact h

theorem State.walkRead_eq (s : State) (j : JuncNo) : s.walkRead j =
    if (s.junctions.get j).state = .failed ∨ (s.junctions.get j).holder = .evacuation ∨ (s.junctions.get j).holder = .walk then s
    else if (s.junctions.get j).holder = .none then s.modJunction j (walkHolder s.now)
    else s.modJunction j fun y => { y with walkPending := true } := by
  unfold walkRead
  dsimp only
  cases (s.junctions.get j).state <;> cases (s.junctions.get j).holder <;> rfl

theorem State.waitOf_vehicle {w : WaitEntry} (h : s.waitOf v = some w) : w.vehicle = v := by
  have := List.find?_some h
  simpa using this

/-- The expiries of a vehicle's timers while the part operates (R122, R124, R132). -/
theorem exec_vehicleExpiries (hs : s.slp.inReset = none) (v : VehNo) :
    exec (.lostExpiry v) s = .next (s.expiry (s.vehicles.get v).lostAt fun s => s.loseVehicle v).beginSending ∧
    exec (.waitEntryExpiry v) s = .next ((s.waitOf v).elim s fun w => (s.reach (w.joined + 600)).expireWait w).beginSending ∧
    exec (.overstayExpiry v) s = .next (((s.vehicles.get v).claim.elim s fun c => s.expiry c.overstayAt fun s =>
      s.overstay v c)).beginSending := by
  refine ⟨congrArg Host.Outcome.next (State.event_operating hs _), (congrArg Host.Outcome.next (State.event_operating hs _)).trans ?_,
    (congrArg Host.Outcome.next (State.event_operating hs _)).trans ?_⟩
  · cases s.waitOf v <;> rfl
  · cases (s.vehicles.get v).claim <;> rfl

end haulage

/-- Settles O50. Each block of the statement is one read, one case of release processing or one timer; the lemmas above say what
the model does there. -/
theorem haulageExpiries : Obligations.HaulageExpiries := by
  unfold Obligations.HaulageExpiries
  intro granted walked
  refine ⟨?_, ?_, ?_, ?_, ?_, ?_, ?_, ?_, ?_, ?_⟩
  · intro s r l names
    refine ⟨fun h => ?_, fun j hj h => ?_⟩
    · unfold State.beaconReads
      rw [State.beaconJunction_eq_none h]; rfl
    · unfold State.beaconReads
      rw [State.beaconJunction_eq_some hj h]; rfl
  · intro s r j id legs carries unknown
    refine ⟨fun h => ?_, fun v hv h => ?_⟩
    · simp only [State.takeRead, State.knownRead, State.vehicleOf_none h]
      exact ⟨rfl, rfl⟩
    · simp only [State.takeRead, State.knownRead, State.vehicleOf_unique hv h, and_self]
  · intro s v j z hz x holds stamp read told joined clear
    have hholds : holds = s.stateFromHoldings v := (State.stateFromHoldings_eq s v).symm
    have hread : (s.wake v).stampRead v j = read := by
      simp only [read, hholds]
      split
      · next h => exact State.wake_stamp_unseen h
      · next h => exact State.wake_stamp_lost h
      · next h h' => exact State.wake_stamp_seen h h'
    have hmove : s.updatePosition v j = read.moveVehicle v z := by rw [State.updatePosition_eq hz, hread]
    have hzones : read.zones = s.zones := by rw [← hread]; exact State.wake_stamp_zones ..
    have hchannels : read.channels = s.channels := by rw [← hread]; exact State.wake_stamp_channels ..
    obtain ⟨hzone, hkind, hstop⟩ := State.wake_stamp_vehicle s v j
    rw [hread] at hzone hkind hstop
    refine ⟨fun h => ?_, fun h => ⟨?_, fun hno hclear => ?_⟩⟩
    · rw [hmove, State.moveVehicle_same (hzone.trans h)]
    · rw [hmove]
      exact if_neg (by rw [hzone]; exact h)
    · obtain ⟨htrip, hevac, hev, hview⟩ := hclear
      have honboard : read.onboardChannel v = none := State.onboardChannel_eq_none.mpr fun c hc => by
        rw [hchannels] at hc; exact hno c hc.1 hc.2
      have hlist : read.listZone v = s.listZone v := by unfold State.listZone; rw [hzones]
      have halone (hl : s.listZone v ≠ some z) : s.updatePosition v j = told.parked v z := by
        rw [hmove]
        exact State.moveVehicle_alone (by rw [hzone]; exact h) honboard (by rw [hlist]; exact hl) (by rw [hstop]; exact htrip)
          (by rw [hstop]; exact hevac) (by rw [hzones]; exact hev) (by rw [hkind, hzones]; exact hview)
      have htold : told.listZone v = s.listZone v := hlist
      refine ⟨fun hl => ?_, fun y hl hy => ?_⟩
      · rw [halone (by rw [hl]; nofun)]
        unfold State.parked
        rw [htold, hl]; rfl
      · rw [halone (by rw [hl]; simpa using hy)]
        unfold State.parked
        rw [htold, hl]; rfl
  · intro s v x trips evacuates
    have htrips : ((s.vehicles.get v).kind ≠ .service ∧ ∃ z, (s.vehicles.get v).zone = some z ∧
        isTripped (s.zones.get z).view = true) ↔ trips := by simp only [isTripped_iff]; exact Iff.rfl
    refine ⟨fun h => ?_, fun h => ?_, fun h => ?_, fun h => ?_⟩
    · rw [State.matchTrip_eq, if_pos (htrips.mpr h)]
    · rw [State.matchTrip_eq, if_neg (mt htrips.mp h)]
    · rw [State.matchEvacuation_eq, if_pos h]
    · rw [State.matchEvacuation_eq, if_neg h]
  · intro s v z carries after left moved
    refine ⟨fun h => State.vehicleEnters_same h, fun h => ⟨fun hno => ?_, fun c hc hfirst => ?_⟩⟩
    · exact State.vehicleEnters_alone h (State.onboardChannel_eq_none.mpr hno)
    · intro summed demands
      have hafter : after = if (summed.channels.get c).qualifies = true then summed.raiseDemand sendStart c else summed :=
        State.vehicleEnters_onboard sendStart_quiet h (State.onboardChannel_eq_some.mpr ⟨hc, hfirst⟩) rfl
      refine ⟨fun hd => by rw [hafter, if_neg hd], fun hd hno => ?_, fun hd y o hy hcfg ho => ?_⟩
      · rw [hafter, if_pos hd, State.raiseDemand_none hno]
      · rw [hafter, if_pos hd, State.raiseDemand_some hy hcfg ho]
  · intro s v r raw x after fits invalid named
    refine ⟨fun h => State.approach_stopped h, fun h c hc => ?_, fun h hc => ?_⟩
    · intro again
      refine ⟨fun ha => ?_, fun ha => ?_⟩
      · exact (State.approach_claimed h hc).trans (if_pos ha)
      · exact (State.approach_claimed h hc).trans (if_neg ha)
    have hafter : after = _ := State.approach_free (r := r) (raw := raw) h hc
    refine ⟨fun hbad => ?_, fun legs hn hall => ?_⟩
    · rw [hafter, State.legs?_none hbad]; rfl
    · intro failed free
      rw [State.legs?_some hn hall] at hafter
      have hfailed : (legs.any fun l => (s.junctions.get l.junction).state == .failed) = true ↔ failed := by
        simp [failed]
      have hfree : s.allFree legs = true ↔ free := by simp [State.allFree, free]
      simp only [Option.elim_some, hfailed, hfree] at hafter
      refine ⟨fun hm => by rw [hafter, if_pos hm], fun hm hf => ?_, fun hm hf hfr => ?_, fun hm hf hfr => ?_⟩
      · rw [hafter, if_neg (by rw [hm]; nofun), if_pos hf]
      · rw [hafter, if_neg (by rw [hm]; nofun), if_neg hf, if_pos hfr]; rfl
      · have hjoin : after = s.joinWait v legs := by rw [hafter, if_neg (by rw [hm]; nofun), if_neg hf, if_neg hfr]
        refine ⟨fun w hw => ?_, fun hw => ?_⟩
        · exact hjoin.trans (if_pos (by rw [hw]; rfl))
        · have hno : ¬(s.waitOf v).isSome = true := by rw [State.waitOf_eq_none.mpr hw]; nofun
          refine ⟨fun hlt => ?_, fun hle => ?_⟩
          · exact hjoin.trans ((if_neg hno).trans (if_pos hlt))
          · exact hjoin.trans ((if_neg hno).trans (if_neg (by exact Nat.not_lt.mpr hle)))
  · intro s v j x freed
    refine ⟨fun h => State.clear_nothing h, fun c l hc hl hj hcl => ?_⟩
    intro legs
    have hclear := State.clear_held (s := s) hc hl hj hcl
    refine ⟨fun hall => ?_, fun hex => ?_⟩
    · rw [hclear, State.modVehicle_congr (g := fun y => { y with claim := none, state := .idle }) (clearClaim_last hall)]; rfl
    · rw [hclear, State.modVehicle_congr (g := fun y => { y with claim := some { c with legs := legs } }) (clearClaim_more hex)]; rfl
  · intro s r j x after
    have hafter : after = _ := State.walkRead_eq s j
    refine ⟨fun h => by rw [hafter, if_pos h], fun hst v hv => ?_, fun hst hv => ?_⟩
    · have hx : (s.junctions.get j).holder = .claim v := hv
      have hxs : (s.junctions.get j).state = .inService := hst
      rw [hafter, if_neg (by simp [hx, hxs]), if_neg (by simp [hx])]
    · have hx : (s.junctions.get j).holder = .none := hv
      have hxs : (s.junctions.get j).state = .inService := hst
      rw [hafter, if_neg (by simp [hx, hxs]), if_pos hx]; rfl
  · intro s l waits first
    have hwalk (t : State) (j : JuncNo) : t.releaseWalk j = if waits t j = true then walked t j else t := by
      have hiff : waits t j = true ↔ (t.junctions.get j).state = .inService ∧ (t.junctions.get j).holder = .none ∧
          (t.junctions.get j).walkPending = true := by simp [waits, and_assoc]
      simp only [hiff]
      rfl
    have hfirst : first = s.forEach l State.releaseWalk :=
      congrArg (fun f => l.foldl f s) (funext fun t => funext fun j => (hwalk t j).symm)
    refine ⟨State.releaseAll_nil s, fun hl => ?_, fun hl hw => ?_, fun j hst hh hw hno => ?_⟩
    · rw [State.releaseAll_cons hl, ← hfirst]; rfl
    · rw [State.releaseAll_cons hl, State.forEach_releaseWalk_none hw]; rfl
    · rw [State.releaseAll_cons (List.cons_ne_nil j [])]
      have hone : s.forEach [j] State.releaseWalk = walked s j := if_pos ⟨hst, hh, hw⟩
      rw [hone, show (walked s j).waits = [] from hno]; rfl
  · intro s hs
    refine ⟨fun v => ?_, fun j => ?_⟩
    · intro x
      obtain ⟨hlost, hwait, hover⟩ := exec_vehicleExpiries hs v
      refine ⟨fun h => ?_, fun t h => ?_, fun h => ?_, fun w h => ?_, fun h => ?_, fun c t h h' => ?_⟩
      · rw [hlost, show (s.vehicles.get v).lostAt = none from h]; rfl
      · rw [hlost, show (s.vehicles.get v).lostAt = some t from h]; rfl
      · rw [hwait, State.waitOf_eq_none.mpr h]; rfl
      · obtain rfl := State.waitOf_vehicle h
        rw [hwait, h]; rfl
      · rw [hover]
        cases hc : (s.vehicles.get v).claim with
        | none => rfl
        | some c => rw [Option.elim_some, h c hc]; rfl
      · rw [hover, show (s.vehicles.get v).claim = some c from h, Option.elim_some, h']; rfl
    · intro x
      have hexec : exec (.walkDeadline j) s =
          .next (s.expiry (s.junctions.get j).walkAt fun s => s.walkEnds j).beginSending :=
        congrArg Host.Outcome.next (State.event_operating hs _)
      refine ⟨fun h => ?_, fun t h hh => ?_⟩
      · rw [hexec, show (s.junctions.get j).walkAt = none from h]; rfl
      · intro ended
        have hended : (s.reach t).modJunction j endWalk = ended := State.modJunction_congr (if_pos hh)
        have hends : exec (.walkDeadline j) s = .next (ended.releaseAll [j]).beginSending := by
          rw [hexec, show (s.junctions.get j).walkAt = some t from h, ← hended]; rfl
        refine ⟨hends, fun hw hno => ?_⟩
        have hpending : (ended.junctions.get j).walkPending = false := by
          simp only [ended, State.modJunction_junctions, get_set_entry, if_true]
          exact hw
        have hidle : ended.releaseAll [j] = ended := State.releaseAll_idle (by simpa using hpending) hno
        rw [hends, hidle]

/-! ## SET_VEHICLE (R119) -/

section setVehicle
variable {s : State} {v : VehNo} {new : Vehicle}

theorem periodAfter_eq (now : Time) (old new : Vehicle) : periodAfter now old new =
    if new.configured = false then none
    else if old.configured = false ∨ old.period ≠ new.period then some (now + 10 * new.period) else old.periodAt := by
  cases hn : new.configured <;> cases ho : old.configured <;> simp [periodAfter, hn, ho]

/-- The fields that a SET_VEHICLE writes, and the period timer after it. -/
def State.wroteVehicle (s : State) (v : VehNo) (new : Vehicle) : State :=
  let old := s.vehicles.get v
  s.modVehicle v fun x => { x with
    configured := new.configured, tagId := new.tagId, kind := new.kind, overstay := new.overstay, period := new.period
    firstQuarter := new.firstQuarter
    periodAt := if new.configured = false then none
      else if old.configured = false ∨ old.period ≠ new.period then some (s.now + 10 * new.period) else old.periodAt }

/-- The steps of a SET_VEHICLE after its fields: the renewal, the reason of the kind, and what the burst is told. -/
def State.renewed (s : State) (v : VehNo) (new : Vehicle) : State :=
  if (s.vehicles.get v).configured ≠ new.configured ∨ (s.vehicles.get v).tagId ≠ new.tagId then
    (s.wroteVehicle v new).renewVehicle v new.configured
  else s.wroteVehicle v new

def State.rekinded (s : State) (v : VehNo) (new : Vehicle) : State :=
  if (s.vehicles.get v).kind = new.kind then s.renewed v new else (s.renewed v new).matchTrip v

theorem State.writeVehicle_eq (s : State) (v : VehNo) (new : Vehicle) : s.writeVehicle v new =
    if new.configured = false then (s.rekinded v new).tgUnconfigured sendStart v
    else if (s.vehicles.get v).configured ≠ new.configured ∨ (s.vehicles.get v).tagId ≠ new.tagId then
      (s.rekinded v new).tgTagChanged sendStart v
    else s.rekinded v new := by
  have hrenews : ((s.vehicles.get v).configured != new.configured || (s.vehicles.get v).tagId != new.tagId) = true ↔
      (s.vehicles.get v).configured ≠ new.configured ∨ (s.vehicles.get v).tagId ≠ new.tagId := by simp
  unfold writeVehicle rekinded renewed wroteVehicle
  simp only [periodAfter_eq, hrenews, bne_iff_ne, ite_not, Bool.not_eq_true']

/-- A changed tag id at a burst: nothing unless it gathers. -/
theorem State.tgTagChanged_idle {st : Starter} (h : ∀ b, s.bursts.get v = some b → b.inProgress = false ∨ b.gatherEnd ≠ none) :
    s.tgTagChanged st v = s := by
  refine if_neg fun hn => ?_
  cases hb : s.bursts.get v with
  | none => rw [hb] at hn; cases hn
  | some b =>
    rw [hb, Option.any_some, Bool.and_eq_true, Option.isNone_iff_eq_none] at hn
    rcases h b hb with h | h
    · rw [hn.1] at h; cases h
    · exact h hn.2

theorem State.tgTagChanged_gathering {st : Starter} {b : Burst} (h : s.bursts.get v = some b) (hb : b.inProgress = true)
    (hg : b.gatherEnd = none) : s.tgTagChanged st v =
      (s.setBurst v (some { b with gatherEnd := some .vehicleChanged, outstanding := none })).tgSettle st v := by
  unfold tgTagChanged endGather
  rw [if_pos (by rw [h, Option.any_some, hb, hg]; rfl), modBurst_of_some h]

theorem State.tgUnconfigured_none {st : Starter} (h : s.bursts.get v = none) : s.tgUnconfigured st v = s := by
  unfold tgUnconfigured; rw [h]

theorem State.tgUnconfigured_done {st : Starter} {b : Burst} (h : s.bursts.get v = some b) (hb : b.inProgress = false) :
    s.tgUnconfigured st v = s.setBurst v none := by
  unfold tgUnconfigured; rw [h]; dsimp only; rw [if_neg (by simp [hb])]

theorem State.tgUnconfigured_some {st : Starter} {b : Burst} (h : s.bursts.get v = some b) (hb : b.inProgress = true)
    {broken : State} (hbroken : broken = if b.gatherEnd = none then
      s.setBurst v (some { b with gatherEnd := some .vehicleChanged, outstanding := none }) else s) :
    s.tgUnconfigured st v = if b.forwarding = .pending ∨ b.forwarding = .holding then
      (broken.giveUp (.burst v)).tgStop st v .vehicleChanged else broken.tgSettle st v := by
  unfold tgUnconfigured endGather
  rw [h]
  dsimp only
  rw [if_pos hb, modBurst_of_some h, hbroken]
  simp only [Option.isNone_iff_eq_none]

/-- A vehicle leaves its list: no zone, no last junction, and the summary of the zone left when a channel rides on it. -/
theorem State.leaveZone_none (h : s.listZone v = none) :
    s.leaveZone v = s.modVehicle v fun x => { x with zone := none, lastJunction := none } := by
  have hlist : s.leaveList v = s := by unfold leaveList; rw [h]
  unfold leaveZone
  dsimp only
  rw [hlist, h]
  dsimp only [Option.isSome_none]
  unfold followOnboard recomputeZones
  simp

theorem State.leaveZone_some {y : ZoneNo} (h : s.listZone v = some y) : s.leaveZone v =
    (((s.unpark v y).modVehicle v fun x => { x with zone := none, lastJunction := none }).tgZoneChange v).followOnboard
      sendStart v (some y) none := by
  have hlist : s.leaveList v = s.unpark v y := by unfold leaveList; rw [h]; rfl
  unfold leaveZone
  dsimp only
  rw [hlist, h]
  rfl

theorem vehicleKinds_get (k : VehicleKind) : vehicleKinds[vehicleKinds.idxOf k]? = some k := by cases k <;> rfl

theorem vehicleWritten?_range {f : VehicleFields} {x : VehNo × Vehicle} (h : vehicleWritten? f = some x) :
    (1 ≤ f.vehicle ∧ f.vehicle ≤ 12) ∧ f.state < 2 ∧ f.kind < 3 ∧ f.firstQuarter < 4 ∧ f.tagId < 16777216 ∧
      30 ≤ f.overstay ∧ f.overstay ≤ 600 ∧ 2 ≤ f.period ∧ f.period ≤ 30 := by
  simp only [vehicleWritten?, Option.bind_eq_bind, Option.bind_eq_some_iff] at h
  obtain ⟨v, hv, b, hb, k, hk, hrest⟩ := h
  have hquarter : f.firstQuarter < 4 := by
    by_contra hn
    rw [dif_neg hn] at hrest; cases hrest
  rw [dif_pos hquarter, Option.bind_some, Option.ite_none_right_eq_some] at hrest
  exact ⟨index?_range hv, named_range hb, named_range hk, hquarter, hrest.1⟩

theorem vehicleWritten?_numbers (v : VehNo) (cfg : Bool) (id overstay period : Nat) (k : VehicleKind) (q : QuarterNo) :
    vehicleWritten? ⟨number v, if cfg then 0 else 1, id, vehicleKinds.idxOf k, overstay, period, q.val⟩ =
      if id < 16777216 ∧ (30 ≤ overstay ∧ overstay ≤ 600) ∧ 2 ≤ period ∧ period ≤ 30 then
        some (v, { configured := cfg, tagId := id, kind := k, overstay := overstay, period := period, firstQuarter := q })
      else none := by
  simp [vehicleWritten?, configuredStates_get, vehicleKinds_get, and_assoc]

theorem State.vehicleIdTaken_iff {id : Nat} : s.vehicleIdTaken v id = true ↔
    ∃ w : VehNo, w ≠ v ∧ (s.vehicles.get w).configured = true ∧ (s.vehicles.get w).tagId = id := by
  simp [vehicleIdTaken, allOf, and_assoc]

theorem State.waitOf_isSome : (s.waitOf v).isSome = true ↔ ∃ w ∈ s.waits, w.vehicle = v := by
  rw [Option.isSome_iff_ne_none, ne_eq, waitOf_eq_none]; simp

/-- The write where nothing of the vehicle is renewed and its kind stays. -/
theorem State.writeVehicle_kept (hc : new.configured = true) (hold : (s.vehicles.get v).configured = true)
    (hid : (s.vehicles.get v).tagId = new.tagId) (hk : (s.vehicles.get v).kind = new.kind) :
    s.writeVehicle v new = s.wroteVehicle v new := by
  have hno : ¬((s.vehicles.get v).configured ≠ new.configured ∨ (s.vehicles.get v).tagId ≠ new.tagId) := by simp [hc, hold, hid]
  rw [writeVehicle_eq, if_neg (by simp [hc]), if_neg hno, rekinded, if_pos hk, renewed, if_neg hno]

/-- The write of a vehicle that nothing knows. -/
theorem State.writeVehicle_fresh (hc : new.configured = true) (hold : (s.vehicles.get v).configured = false)
    (hl : s.listZone v = none) (hstop : (s.vehicles.get v).stop = {}) (hb : s.bursts.get v = none) :
    s.writeVehicle v new = (s.wroteVehicle v new).modVehicle v fun x =>
      { x with zone := none, lastJunction := none, state := .unseen, lostAt := none } := by
  have hrenews : (s.vehicles.get v).configured ≠ new.configured ∨ (s.vehicles.get v).tagId ≠ new.tagId :=
    .inl (by rw [hold, hc]; nofun)
  have hleave : (s.wroteVehicle v new).leaveZone v =
      (s.wroteVehicle v new).modVehicle v fun x => { x with zone := none, lastJunction := none } := leaveZone_none hl
  have hhas (u : State) (r : StopReason) (hu : (u.vehicles.get v).stop = {}) : u.removeReason v r = u :=
    removeReason_hasNot (by rw [hu]; cases r <;> rfl)
  have hgone : (((s.wroteVehicle v new).modVehicle v fun x => { x with zone := none, lastJunction := none }).vehicles.get
      v).stop = {} := by simpa [wroteVehicle, modVehicle] using hstop
  have hrenewed : s.renewed v new = (s.wroteVehicle v new).modVehicle v fun x =>
      { x with zone := none, lastJunction := none, state := .unseen, lostAt := none } := by
    rw [renewed, if_pos hrenews, renewVehicle, hleave, hhas _ _ hgone, hhas _ _ hgone, if_pos hc, modVehicle_modVehicle]
  have hnotrip : (s.renewed v new).matchTrip v = s.renewed v new := by
    rw [hrenewed]
    refine matchTrip_none ?_ (.inr fun z hz => ?_)
    · have : (((s.wroteVehicle v new).modVehicle v fun x =>
          { x with zone := none, lastJunction := none, state := .unseen, lostAt := none }).vehicles.get v).stop = {} := by
        simpa [wroteVehicle, modVehicle] using hstop
      rw [this]
    · simp [modVehicle] at hz
  have hrekinded : s.rekinded v new = s.renewed v new := by
    unfold rekinded
    rw [hnotrip, ite_self]
  rw [writeVehicle_eq, if_neg (by simp [hc]), if_pos hrenews, hrekinded, hrenewed]
  refine tgTagChanged_idle fun b h => ?_
  rw [show ((s.wroteVehicle v new).modVehicle v _).bursts.get v = s.bursts.get v from rfl, hb] at h
  cases h

end setVehicle

/-- Settles O48. -/
theorem setVehicle : Obligations.SetVehicle := by
  unfold Obligations.SetVehicle
  refine ⟨fun s v new => ?write, fun s v cause => ⟨fun h => State.tgStop_idle h, fun b h hb => State.tgStop_some h hb⟩,
    fun s tag f hs hbad => ?outside, fun s tag v cfg id over_ period k q hs => ?checked⟩
  case write =>
    intro old wrote renews carried unseen away outOf after goes
    have hafter : after = _ := State.writeVehicle_eq s v new
    have hgoes (kept : State) (hkept : s.renewed v new = kept) : goes kept := by
      have hm : s.rekinded v new = if old.kind = new.kind then kept else kept.matchTrip v := by rw [← hkept]; rfl
      have hcfg (h : new.configured = true) : after = if renews then (s.rekinded v new).tgTagChanged sendStart v
          else s.rekinded v new := hafter.trans (if_neg (by simp [h]))
      refine ⟨fun hc hr => ?_, fun hc hr => ⟨fun hb => ?_, fun b hb hp hg => ?_⟩, fun hc => ?_⟩
      · rw [hcfg hc, if_neg hr, hm]
      · rw [hcfg hc, if_pos hr, hm, State.tgTagChanged_idle hb]
      · rw [hcfg hc, if_pos hr, hm, State.tgTagChanged_gathering hb hp hg]
      · have hun : after = (s.rekinded v new).tgUnconfigured sendStart v := hafter.trans (if_pos hc)
        rw [hm] at hun
        refine ⟨fun hb => hun.trans (State.tgUnconfigured_none hb), fun b hb => ?_⟩
        intro broken
        refine ⟨fun hp => hun.trans (State.tgUnconfigured_done hb hp), fun hp => ?_⟩
        have hsome := hun.trans (State.tgUnconfigured_some hb hp (broken := broken) rfl)
        exact ⟨fun hf => hsome.trans (if_pos hf), fun h1 h2 => hsome.trans (if_neg (not_or.mpr ⟨h1, h2⟩))⟩
    have hrenewed (hr : renews) : s.renewed v new = wrote.renewVehicle v new.configured := if_pos hr
    have hunseen (u : State) (hu : wrote.leaveZone v = u) : wrote.renewVehicle v new.configured = unseen u new.configured := by
      unfold State.renewVehicle
      rw [hu]
    have honboard (y : ZoneNo) : (outOf y).onboardChannel v = s.onboardChannel v := rfl
    refine ⟨fun hr => hgoes _ (if_neg hr), fun hr => ⟨fun hl => ?_, fun y hl => ⟨fun hno => ?_, fun hc => ?_⟩⟩⟩
    · exact hgoes _ ((hrenewed hr).trans (hunseen _ (State.leaveZone_none hl)))
    · refine hgoes _ ((hrenewed hr).trans (hunseen _ ((State.leaveZone_some (s := wrote) hl).trans (State.followOnboard_none ?_))))
      exact (honboard y).trans (State.onboardChannel_eq_none.mpr (not_exists.mp hno))
    · refine hgoes _ ((hrenewed hr).trans (hunseen _ ((State.leaveZone_some (s := wrote) hl).trans ?_)))
      obtain ⟨c, hc⟩ := Option.isSome_iff_exists.mp (State.onboardChannel_isSome.mpr hc)
      have hzones : (outOf y).recomputeZones sendStart (some y) none = (outOf y).recompute sendStart y := by
        simp [State.recomputeZones]
      exact (State.followOnboard_some ((honboard y).trans hc)).trans hzones
  case outside =>
    have hnone : vehicleWritten? f = none := Option.eq_none_iff_forall_ne_some.mpr fun x hx => by
      have := vehicleWritten?_range hx; omega
    exact exec_refused hs (r := .setVehicle f) (x := .badValue) rfl (by simp [State.handle, State.doSetVehicle, hnone])
  case checked =>
    intro old i fits taken measured claiming new
    have hwritten : vehicleWritten? _ = if fits then some (v, new) else none :=
      vehicleWritten?_numbers v cfg id over_ period k q
    have htaken : (new.configured = true ∧ s.vehicleIdTaken v new.tagId = true) ↔ taken :=
      and_congr_right fun _ => State.vehicleIdTaken_iff
    have hmeasured : (new.configured = false ∧ (s.onboardChannel v).isSome = true) ↔ measured :=
      and_congr_right fun _ => State.onboardChannel_isSome
    have hclaiming : ((!new.configured || (s.vehicles.get v).tagId != new.tagId) &&
        ((s.vehicles.get v).claim.isSome || (s.waitOf v).isSome)) = true ↔ claiming := by
      rw [Bool.and_eq_true, Bool.or_eq_true, Bool.or_eq_true, Bool.not_eq_true', bne_iff_ne, State.waitOf_isSome,
        Option.isSome_iff_ne_none]
    have hdo : s.doSetVehicle ⟨number v, if cfg then 0 else 1, id, vehicleKinds.idxOf k, over_, period, q.val⟩ =
        if ¬fits then s.refuse .badValue else if taken then s.refuse .badValue else if measured then s.refuse .busy
        else if claiming then s.refuse .busy else (s.writeVehicle v new).accept := by
      unfold State.doSetVehicle
      rw [hwritten]
      by_cases hf : fits
      · rw [if_pos hf, if_neg (not_not.mpr hf)]
        simp only [htaken, hmeasured, hclaiming]
      · rw [if_neg hf, if_pos hf]
    have refused {x : Status} (hx : s.doSetVehicle ⟨number v, if cfg then 0 else 1, id, vehicleKinds.idxOf k, over_, period,
        q.val⟩ = s.refuse x) : exec i s = .next (s.answered tag [0x17, statusByte x]) :=
      exec_refused hs (r := .setVehicle _) rfl hx
    have accepted {t : State} (hx : s.doSetVehicle ⟨number v, if cfg then 0 else 1, id, vehicleKinds.idxOf k, over_, period,
        q.val⟩ = t.accept) : exec i s = .next (t.answered tag [0x17, 0x00]) :=
      exec_accepted hs (r := .setVehicle _) rfl hx
    refine ⟨fun h => refused (x := .badValue) ?_, fun hf ht hb => refused (x := .busy) ?_, fun hf ht hm hc => ?_⟩
    · rw [hdo]
      by_cases hf : fits
      · rw [if_neg (not_not.mpr hf), if_pos (h.resolve_left (not_not.mpr hf))]
      · rw [if_pos hf]
    · rw [hdo, if_neg (not_not.mpr hf), if_neg ht]
      by_cases hm : measured
      · rw [if_pos hm]
      · rw [if_neg hm, if_pos (hb.resolve_left hm)]
    · have hwrite : exec i s = .next ((s.writeVehicle v new).answered tag [0x17, 0x00]) :=
        accepted (by rw [hdo, if_neg (not_not.mpr hf), if_neg ht, if_neg hm, if_neg hc])
      refine ⟨hwrite, fun hold hcfg hid hk => ?_, fun hold hcfg hl hstop hb => ?_⟩
      · have hkept : s.writeVehicle v new = s.wroteVehicle v new := State.writeVehicle_kept hcfg hold hid hk
        have hperiod : s.wroteVehicle v new = s.modVehicle v fun x => { x with
            overstay := over_, period := period, firstQuarter := q
            periodAt := if x.period = period then x.periodAt else some (s.now + 10 * period) } := by
          unfold State.wroteVehicle
          refine State.modVehicle_congr ?_
          have hx : (s.vehicles.get v).configured = true := hold
          have hxi : (s.vehicles.get v).tagId = id := hid
          have hxk : (s.vehicles.get v).kind = k := hk
          by_cases hp : (s.vehicles.get v).period = period
          · simp [new, hcfg, hx, hxi, hxk, hp]
          · simp [new, hcfg, hx, hxi, hxk, hp]
        rw [hwrite, hkept, hperiod]
      · have hfresh : s.writeVehicle v new = _ := State.writeVehicle_fresh hcfg hold hl hstop hb
        have hwhole : s.writeVehicle v new = s.modVehicle v fun x => { x with
            configured := true, tagId := id, kind := k, overstay := over_, period := period, firstQuarter := q
            periodAt := some (s.now + 10 * period), state := .unseen, zone := none, lastJunction := none
            lostAt := none } := by
          rw [hfresh, State.wroteVehicle, State.modVehicle_modVehicle]
          refine State.modVehicle_congr ?_
          have hx : (s.vehicles.get v).configured = false := hold
          simp [new, hcfg, hx]
        rw [hwrite, hwhole]

end Sys2Proof.Machine
end


section
/-! PROOFS. The statements on telemetry bursts (R137 to R144) and on the refuge stations (R147 to R150). -/

namespace Sys2Proof.Machine

/-! ## A vehicle's burst and its fetches (R140, R141) -/

section bursts
variable {s : State} {v : VehNo} {b c : Burst} {st : Starter} {r : DevRef}

theorem State.setBurst_setBurst (s : State) (v : VehNo) (b c : Option Burst) : (s.setBurst v b).setBurst v c = s.setBurst v c := by
  simp [setBurst]

theorem State.setBurst_get (s : State) (v : VehNo) (b : Option Burst) : (s.setBurst v b).bursts.get v = b := by simp

/-- The beacon through which a vehicle's next fetch goes. -/
theorem State.fetchBeacon_eq_some : s.fetchBeacon v = some r ↔ ∃ j, (s.vehicles.get v).lastJunction = some j ∧
    (s.junctions.get j).configured = true ∧ (s.junctions.get j).state = .inService ∧ (s.junctions.get j).beacon = some r := by
  simp [fetchBeacon, Option.bind_eq_some_iff, and_assoc]

theorem State.fetchBeacon_eq_none (h : ∀ r, ¬∃ j, (s.vehicles.get v).lastJunction = some j ∧
    (s.junctions.get j).configured = true ∧ (s.junctions.get j).state = .inService ∧ (s.junctions.get j).beacon = some r) :
    s.fetchBeacon v = none := Option.eq_none_iff_forall_ne_some.mpr fun r hr => h r (fetchBeacon_eq_some.mp hr)

/-- Gathering ended, with its cause. -/
def Burst.endedBy (b : Burst) (cause : GatherEnd) : Burst := { b with gatherEnd := some cause, outstanding := none }

theorem State.endGather_setBurst (s : State) (v : VehNo) (c : Burst) (cause : GatherEnd) :
    (s.setBurst v (some c)).endGather v cause = s.setBurst v (some (c.endedBy cause)) := by
  unfold endGather
  rw [modBurst_of_some (s.setBurst_get v _), setBurst_setBurst]
  rfl

/-- A fetch of the next quarter stands on its spur's list, in place of a stale one of the vehicle. -/
def State.fetching (s : State) (v : VehNo) (c : Burst) (r : DevRef) : State :=
  (s.setBurst v (some { c with outstanding := some (c.nextQuarter, r) })).modSpur r.spur fun p => { p with
    fetches := (p.fetches.filter fun g => g.vehicle != v) ++ [⟨v, (s.vehicles.get v).tagId, c.nextQuarter, r⟩] }

theorem State.fetchNext_through (hr : s.fetchBeacon v = some r) (c : Burst) :
    (s.setBurst v (some c)).fetchNext v = s.fetching v c r := by
  have hfetch : (s.setBurst v (some c)).fetchBeacon v = some r := hr
  unfold fetchNext
  rw [s.setBurst_get, hfetch]
  dsimp only
  rw [modBurst_of_some (s.setBurst_get v _), setBurst_setBurst]
  rfl

theorem State.fetchNext_lost (hr : s.fetchBeacon v = none) (c : Burst) :
    (s.setBurst v (some c)).fetchNext v = s.setBurst v (some (c.endedBy .beaconFailed)) := by
  have hfetch : (s.setBurst v (some c)).fetchBeacon v = none := hr
  unfold fetchNext
  rw [s.setBurst_get, hfetch]
  exact endGather_setBurst ..

/-- A burst that still gathers goes on with its fetch. -/
theorem State.fetching_settled (hc : c.gatherEnd = none) : (s.fetching v c r).tgSettle st v = s.fetching v c r :=
  tgSettle_waits (b := { c with outstanding := some (c.nextQuarter, r) }) (s.setBurst_get v _) (.inl hc)

/-- The answer of a fetch that no burst awaits (R141). -/
theorem State.tgAnswer_late {f : Fetch} {a : FetchAnswer} (h : ∀ b, s.bursts.get f.vehicle = some b →
    b.inProgress = false ∨ b.outstanding ≠ some (f.quarter, f.beacon)) : s.tgAnswer st f a = s := by
  unfold tgAnswer
  refine if_neg fun hn => ?_
  obtain ⟨b, hb, hn⟩ := (Option.any_eq_true _ _).mp hn
  rw [Bool.and_eq_true, beq_iff_eq] at hn
  rcases h b hb with h | h
  · rw [hn.1] at h; cases h
  · exact h hn.2

section awaited
variable {f : Fetch} (hb : s.bursts.get f.vehicle = some b) (hp : b.inProgress = true)
  (ho : b.outstanding = some (f.quarter, f.beacon))
include hb hp ho

theorem State.awaited : ((s.bursts.get f.vehicle).any fun b => b.inProgress && b.outstanding == some (f.quarter, f.beacon)) = true := by
  rw [hb, Option.any_some, hp, ho]; simp

theorem State.tgAnswer_quarter (q : Quarter) : s.tgAnswer st f (.quarter q) = (s.takeQuarter f.vehicle q).tgSettle st f.vehicle :=
  if_pos (awaited hb hp ho)

theorem State.tgAnswer_notHeard : s.tgAnswer st f .notHeard =
    (s.setBurst f.vehicle (some (b.endedBy .notHeard))).tgSettle st f.vehicle := by
  refine (if_pos (awaited hb hp ho)).trans ?_
  show (s.endGather f.vehicle .notHeard).tgSettle st f.vehicle = _
  unfold endGather
  rw [modBurst_of_some hb]
  rfl

theorem State.tgAnswer_miss : s.tgAnswer st f .miss = (s.takeMiss f.vehicle).tgSettle st f.vehicle :=
  if_pos (awaited hb hp ho)

end awaited

theorem State.takeQuarter_eq (hb : s.bursts.get v = some b) (q : Quarter) : s.takeQuarter v q =
    if b.received.length = 3 then s.setBurst v (some ((b.receive q (s.vehicles.get v).zone).endedBy .complete))
    else (s.setBurst v (some (b.receive q (s.vehicles.get v).zone))).fetchNext v := by
  have hfull : ((some (b.receive q (s.vehicles.get v).zone)).any fun b => b.received.length == 4) = true ↔
      b.received.length = 3 := by simp [Burst.receive]
  unfold takeQuarter
  dsimp only
  rw [modBurst_of_some hb, setBurst_get, endGather_setBurst]
  simp only [hfull]

theorem State.takeMiss_eq (hb : s.bursts.get v = some b) : s.takeMiss v =
    if 2 ≤ b.misses then
      s.setBurst v (some (Burst.endedBy { b with misses := b.misses + 1, outstanding := none } .beaconFailed))
    else (s.setBurst v (some { b with misses := b.misses + 1, outstanding := none })).fetchNext v := by
  have hthird : ((some { b with misses := b.misses + 1, outstanding := none }).any fun b => 3 ≤ b.misses) = true ↔
      2 ≤ b.misses := by simp
  unfold takeMiss
  dsimp only
  rw [modBurst_of_some hb, setBurst_get, endGather_setBurst]
  simp only [hthird]

/-! ## The start of a burst (R138 to R140) -/

/-- The record of a burst that starts with the trunk not UP, and with a slot at once. -/
def Burst.startedWithout (origin : BurstOrigin) (q : QuarterNo) : Burst :=
  { origin := origin, first := q, forwarding := .stopped .noTrunk }

def Burst.startedWith (origin : BurstOrigin) (q : QuarterNo) (k : SlotNo) : Burst :=
  { origin := origin, first := q, forwarding := .holding, slot := some k }

theorem Burst.first_quarter {b : Burst} (h : b.received = []) : b.nextQuarter = b.first := by
  simp [Burst.nextQuarter, h]

theorem State.tgStart_down {origin : BurstOrigin} {q : QuarterNo} (hd : s.trunk.state ≠ .up) : s.tgStart st v origin q =
    ((s.setBurst v (some (Burst.startedWithout origin q))).fetchNext v).tgSettle st v := by
  unfold tgStart
  dsimp only
  rw [if_neg hd, modBurst_of_some (s.setBurst_get v _), setBurst_setBurst]
  rfl

/-- The slot of a burst that starts. -/
theorem State.tgStart_free {origin : BurstOrigin} {q : QuarterNo} {k : SlotNo} (hu : s.trunk.state = .up)
    (hk : ¬s.trunk.Known (.burst v)) (hf : s.trunk.freeSlot = some k) : s.tgStart st v origin q =
    (((s.modTrunk fun t => t.give k (.burst v) .telemetry).setBurst v (some (Burst.startedWith origin q k))).fetchNext
      v).tgSettle st v := by
  generalize hs : s.setBurst v (some ({ origin := origin, first := q } : Burst)) = u
  have htrunk : u.trunk = s.trunk := by rw [← hs]; rfl
  have hrequest : u.requestSlot (.burst v) .telemetry = (u.modTrunk fun t => t.give k (.burst v) .telemetry, .granted k, none) := by
    refine requestSlot_plain (.inl fun h => ?_) (requestPlain_free (htrunk ▸ hu) (htrunk ▸ hk) (htrunk ▸ hf))
    rw [htrunk, hf] at h
    cases h.2.2.2
  have hburst : (u.modTrunk fun t => t.give k (.burst v) .telemetry).bursts.get v = some { origin := origin, first := q } := by
    rw [← hs]; exact setBurst_get ..
  unfold tgStart
  dsimp only
  rw [if_pos hu, hs, hrequest]
  dsimp only [tgTake]
  rw [tgGranted_some hburst, ← hs]
  show (((((s.modTrunk fun t => t.give k (.burst v) .telemetry).setBurst v _).setBurst v _).fetchNext v)).tgSettle st v = _
  rw [setBurst_setBurst]
  rfl

/-! ## Completion (R142 to R144) -/

/-- A burst whose forwarding, when it still waited or held its slot, had nothing left. -/
def Burst.whole (b : Burst) : Burst :=
  { b with forwarding := if b.forwarding = .pending ∨ b.forwarding = .holding then .forwarded else b.forwarding }

theorem State.tgSettle_completes (hb : s.bursts.get v = some b) (hp : b.inProgress = true) (hg : b.gatherEnd ≠ none)
    (hw : b.forwarding = .pending ∨ b.forwarding = .holding → b.received.length ≤ b.forwarded) :
    s.tgSettle st v = (s.setBurst v (some b.whole)).tgComplete st v b.whole := by
  have hgather : b.gatherEnd.isSome = true := Option.isSome_iff_ne_none.mpr hg
  have hwhole : (if b.allForwarded = true then { b with forwarding := .forwarded } else b) = b.whole := by
    unfold Burst.whole
    by_cases hf : b.forwarding = .pending ∨ b.forwarding = .holding
    · rw [if_pos hf, if_pos (by simpa [Burst.allForwarded, hgather, hw hf] using hf)]
    · rw [if_neg hf, if_neg (fun h => hf (by simpa [Burst.allForwarded, hgather] using (Bool.and_eq_true _ _ ▸ h :).2))]
  have hended : b.whole.ended = true := by
    by_cases hf : b.forwarding = .pending ∨ b.forwarding = .holding
    · simp [Burst.ended, Burst.whole, hgather, hf]
    · have := not_or.mp hf
      simp [Burst.ended, Burst.whole, hgather, this.1, this.2]
  unfold tgSettle
  rw [hb]
  dsimp only
  rw [if_pos hp, hwhole, if_pos hended]

/-- What a completed burst leaves before its reading is handed on: the slot or the request given up, the record DONE and reported,
and gone with its vehicle. -/
def State.closed (s : State) (v : VehNo) (b : Burst) (o : Q1Outcome) : State :=
  let d := { b with slot := none, state := .done, outstanding := none, outcome := some o }
  let told := ((s.giveUp (.burst v)).setBurst v (some d)).reportBurst v d
  if (s.vehicles.get v).configured then told else told.setBurst v none

theorem State.vehicle_of_standing {t : State} (h : t.standing = s.standing) (v : VehNo) :
    (t.vehicles.get v).configured = (s.vehicles.get v).configured := by
  have hvehicles : t.vehicles.map Vehicle.afterReset = s.vehicles.map Vehicle.afterReset :=
    congrArg (fun x : Standing => x.configuration.vehicles) h
  have := congrArg (fun x : Vector Vehicle 12 => (x.get v).configured) hvehicles
  simpa [Vehicle.afterReset] using this

theorem State.giveUp_onboard (s : State) (v : VehNo) (h : Holder) : (s.giveUp h).onboardChannel v = s.onboardChannel v :=
  onboardChannel_of_standing (giveUp_standing s)

theorem State.closed_onboard (s : State) (v : VehNo) (b : Burst) (o : Q1Outcome) :
    (s.closed v b o).onboardChannel v = s.onboardChannel v := by
  refine Eq.trans ?_ (s.giveUp_onboard v (.burst v))
  unfold closed
  dsimp only
  split <;> rfl

theorem State.tgComplete_eq {o : Q1Outcome} (ho : s.q1Outcome v b = o) : s.tgComplete st v b =
    if o = .entered then (b.q1.elim (s.closed v b o) fun q => (s.closed v b o).onboardSample st v q.1 q.2) else s.closed v b o := by
  have houtcome : (s.giveUp (.burst v)).q1Outcome v b = o := by
    unfold q1Outcome at ho ⊢
    rw [giveUp_onboard]
    exact ho
  unfold tgComplete closed
  dsimp only
  rw [houtcome]
  obtain ⟨d, hd⟩ : ∃ d : Burst, d = { b with slot := none, state := .done, outstanding := none, outcome := some o } := ⟨_, rfl⟩
  have hdq : d.q1 = b.q1 := by rw [hd]; rfl
  have hcfg : (((s.giveUp (.burst v)).setBurst v (some d)).reportBurst v d).vehicles.get v =
      (s.giveUp (.burst v)).vehicles.get v := rfl
  rw [← hd, hdq, hcfg, vehicle_of_standing (giveUp_standing s)]
  cases o with
  | entered => cases b.q1 <;> rfl
  | noQ1 => rfl
  | zoneChanged => rfl
  | noChannel => rfl

/-! ## The period (R138) -/

/-- A vehicle whose period timer has been started again. -/
def State.periodAgain (s : State) (v : VehNo) : State :=
  s.modVehicle v fun x => { x with periodAt := some (s.now + 10 * x.period) }

theorem State.tgPeriod_waiting (hb : s.bursts.get v = some b) (hp : b.inProgress = true) (hg : b.gatherEnd ≠ none)
    (hf : b.forwarding = .pending) : s.tgPeriod st v = ((s.periodAgain v).withdraw (.burst v)).tgStop st v .period := by
  have hburst : (s.periodAgain v).bursts.get v = some b := hb
  unfold tgPeriod
  refine if_pos ?_
  show ((s.periodAgain v).bursts.get v).any Burst.onlyWaits = true
  rw [hburst]
  simp [Burst.onlyWaits, hp, hf, Option.isSome_iff_ne_none, hg]

theorem State.tgPeriod_busy (hb : s.bursts.get v = some b) (hp : b.inProgress = true)
    (h : b.gatherEnd = none ∨ b.forwarding ≠ .pending) : s.tgPeriod st v = s.periodAgain v := by
  have hburst : (s.periodAgain v).bursts.get v = some b := hb
  have hwaits : b.onlyWaits = false := by rcases h with h | h <;> simp [Burst.onlyWaits, h]
  unfold tgPeriod
  refine (if_neg ?_).trans (if_pos ?_)
  · show ¬((s.periodAgain v).bursts.get v).any Burst.onlyWaits = true
    rw [hburst, Option.any_some, hwaits]; nofun
  · show ((s.periodAgain v).bursts.get v).any Burst.inProgress = true
    rw [hburst]; exact hp

theorem startsBurst_iff (x : VehicleState) : startsBurst x = true ↔ x ≠ .unseen ∧ x ≠ .lost := by cases x <;> decide

theorem State.tgPeriod_idle (h : ∀ b, s.bursts.get v = some b → b.inProgress = false) : s.tgPeriod st v =
    if (s.vehicles.get v).state ≠ .unseen ∧ (s.vehicles.get v).state ≠ .lost then
      (s.periodAgain v).tgStart st v .periodic (s.vehicles.get v).firstQuarter
    else s.periodAgain v := by
  have hnone (f : Burst → Bool) (hf : ∀ b, f b = true → b.inProgress = true) :
      ¬((s.periodAgain v).bursts.get v).any f = true := fun hn => by
    obtain ⟨b, hb, hn⟩ := (Option.any_eq_true _ _).mp hn
    have := h b hb
    rw [hf b hn] at this; cases this
  have hvehicle : (s.periodAgain v).vehicles.get v =
      { s.vehicles.get v with periodAt := some (s.now + 10 * (s.vehicles.get v).period) } := by simp [periodAgain, modVehicle]
  unfold tgPeriod
  refine (if_neg (hnone _ fun b hb => ?_)).trans ((if_neg (hnone _ fun b hb => hb)).trans ?_)
  · simp only [Burst.onlyWaits, Bool.and_eq_true] at hb
    exact hb.1.1
  · show (if startsBurst ((s.periodAgain v).vehicles.get v).state = true then
      (s.periodAgain v).tgStart st v .periodic ((s.periodAgain v).vehicles.get v).firstQuarter else s.periodAgain v) = _
    rw [hvehicle]
    simp only [startsBurst_iff]

end bursts

/-- Settles O51. -/
theorem burstStarts : Obligations.BurstStarts := by
  unfold Obligations.BurstStarts
  refine ⟨fun s tag hs => ⟨fun n m hbad => ?outside, fun v q => ?burstNow⟩, fun s f a => ?answer, fun s v b hb hp hg => ?completion,
    fun s v hs => ?period⟩
  case outside =>
    refine exec_refused hs (r := .burstNow n m) (x := .badValue) rfl ?_
    show s.doBurstNow n m = _
    unfold State.doBurstNow
    by_cases hm : m < 4
    · rw [index?_eq_none.mpr (by omega)]
    · rw [dif_neg hm]
      split
      · next h => cases h
      · rfl
  case burstNow =>
    intro x i busy begun
    have hbusy : (s.bursts.get v).any Burst.inProgress = true ↔ busy := by simp [busy, Option.any_eq_true]
    have hdo : s.doBurstNow (number v) q.val = if x.configured = false then s.refuse .notFound else if busy then s.refuse .busy
        else if x.state = .unseen then s.refuse .condition else (s.tgStart sendStart v .host q).settle.accept := by
      unfold State.doBurstNow
      rw [index?_number, dif_pos q.isLt]
      simp only [hbusy]
      rfl
    refine ⟨fun hc => exec_refused hs (r := .burstNow _ _) (x := .notFound) rfl (hdo.trans (if_pos hc)), fun hc hb =>
      exec_refused hs (r := .burstNow _ _) (x := .busy) rfl ?_, fun hc hb hu =>
      exec_refused hs (r := .burstNow _ _) (x := .condition) rfl ?_, fun hc hb hu => ?_⟩
    · exact hdo.trans ((if_neg (by simp [hc])).trans (if_pos hb))
    · exact hdo.trans ((if_neg (by simp [hc])).trans ((if_neg hb).trans (if_pos hu)))
    · have hstart : exec i s = .next ((s.tgStart sendStart v .host q).settle.answered tag [0x1D, 0x00]) :=
        exec_accepted hs (r := .burstNow _ _) rfl (hdo.trans ((if_neg (by simp [hc])).trans ((if_neg hb).trans (if_neg hu))))
      refine ⟨hstart, fun j r hno hj hcfg hstate hbeacon => ?_⟩
      have hfetch : s.fetchBeacon v = some r := State.fetchBeacon_eq_some.mpr ⟨j, hj, hcfg, hstate, hbeacon⟩
      have hbegun (u : State) (b : Burst) (hu : u.handOffs = s.handOffs) (hv : u.vehicles = s.vehicles) (hj : u.junctions = s.junctions)
          (hq : b.nextQuarter = q) (hg : b.gatherEnd = none)
          (h : s.tgStart sendStart v .host q = ((u.setBurst v (some b)).fetchNext v).tgSettle sendStart v) :
          exec i s = .next ((begun u b r).answered tag [0x1D, 0x00]) := by
        have hthrough : u.fetchBeacon v = some r := by unfold State.fetchBeacon; rw [hv, hj]; exact hfetch
        have hbegins : u.fetching v b r = begun u b r := by
          unfold State.fetching
          rw [hq, hv]
        rw [hstart, h, State.fetchNext_through hthrough, State.fetching_settled hg, hbegins,
          State.settle_nil (s := begun u b r) (hu.trans hno)]
      refine ⟨fun hd => ?_, fun hu hh hw k hk => ?_⟩
      · exact hbegun s (Burst.startedWithout .host q) rfl rfl rfl (Burst.first_quarter rfl) rfl (State.tgStart_down hd)
      · refine hbegun (s.modTrunk fun t => t.give k (.burst v) .telemetry) (Burst.startedWith .host q k) rfl rfl rfl
          (Burst.first_quarter rfl) rfl (State.tgStart_free hu (mt Trunk.known_iff.mpr ?_) hk)
        rw [hh, hw]; nofun
  case answer =>
    intro v x after through
    refine ⟨fun h => State.tgAnswer_late h, fun b hb hp ho => ?_⟩
    intro ends goesOn
    have hends (c : Burst) (cause : GatherEnd)
        (h : after = (s.setBurst v (some (c.endedBy cause))).tgSettle sendStart v) : ends c cause :=
      ⟨h, fun hf hl => h.trans (State.tgSettle_waits (s.setBurst_get v _) (.inr ⟨hf, hl⟩))⟩
    have hgoes (c : Burst) (hc : c.gatherEnd = b.gatherEnd)
        (h : after = ((s.setBurst v (some c)).fetchNext v).tgSettle sendStart v) : goesOn c := by
      refine ⟨fun r hr hg => ?_, fun hno => hends c _ ?_⟩
      · rw [h, State.fetchNext_through (State.fetchBeacon_eq_some.mpr hr), State.fetching_settled (hc.trans hg)]
        rfl
      · rw [h, State.fetchNext_lost (State.fetchBeacon_eq_none hno)]
    refine ⟨fun q ha => ?_, fun ha => ?_, fun ha => ?_⟩
    · have hafter : after = (s.takeQuarter v q).tgSettle sendStart v := by
        rw [← State.tgAnswer_quarter hb hp ho, ← ha]
      rw [State.takeQuarter_eq hb] at hafter
      refine ⟨fun h3 => hends _ _ ?_, fun h3 => hgoes _ rfl ?_⟩
      · rw [hafter, if_pos h3]; rfl
      · rw [hafter, if_neg h3]; rfl
    · refine hends b _ ?_
      rw [← State.tgAnswer_notHeard hb hp ho, ← ha]
    · have hafter : after = (s.takeMiss v).tgSettle sendStart v := by
        rw [← State.tgAnswer_miss hb hp ho, ← ha]
      rw [State.takeMiss_eq hb] at hafter
      refine ⟨fun h3 => hends _ _ ?_, fun h3 => hgoes _ rfl ?_⟩
      · rw [hafter, if_pos h3]
      · rw [hafter, if_neg (Nat.not_le.mpr h3)]
  case completion =>
    intro waits hw c freed after ends channel
    have hafter : after = (s.setBurst v (some b.whole)).tgComplete sendStart v b.whole := State.tgSettle_completes hb hp hg hw
    have honboard : (s.setBurst v (some b.whole)).onboardChannel v = s.onboardChannel v := rfl
    have hsilent (o : Q1Outcome) (ho : (s.setBurst v (some b.whole)).q1Outcome v b.whole = o) (hne : o ≠ .entered) :
        after = ends o := by
      rw [hafter, State.tgComplete_eq ho, if_neg hne]
      rfl
    refine ⟨fun h => hsilent _ ?_ nofun, fun h hz => hsilent _ ?_ nofun, fun h hz hno => hsilent _ ?_ nofun,
      fun raw st k h hz hk hfirst => ?_, fun k hh hq => ?_⟩
    · exact if_pos (Option.isNone_iff_eq_none.mpr h)
    · exact (if_neg (mt Option.isNone_iff_eq_none.mp h)).trans (if_pos hz)
    · refine (if_neg (mt Option.isNone_iff_eq_none.mp h)).trans ((if_neg (by exact Bool.eq_false_iff.mp hz)).trans (if_pos ?_))
      rw [honboard, State.onboardChannel_eq_none.mpr hno]; rfl
    · have hchan : s.onboardChannel v = some k := State.onboardChannel_eq_some.mpr ⟨hk, hfirst⟩
      have ho : (s.setBurst v (some b.whole)).q1Outcome v b.whole = .entered := by
        refine (if_neg ?_).trans ((if_neg (by exact Bool.eq_false_iff.mp hz)).trans (if_neg ?_))
        · rw [show b.whole.q1 = b.q1 from rfl, h]; nofun
        · rw [honboard, hchan]; nofun
      rw [hafter, State.tgComplete_eq ho, if_pos rfl, show b.whole.q1 = some (raw, st) from h]
      show ((s.setBurst v (some b.whole)).closed v b.whole .entered).onboardSample sendStart v raw st = _
      unfold State.onboardSample
      rw [State.closed_onboard, honboard, hchan]
      rfl
    · have hidle : freed = (s.setBurst v (some c)).modTrunk fun t => { t with held := t.held.filter fun x => x.holder != .burst v } :=
        State.giveUp_idle (by exact hq) _
      rw [hidle]
      exact State.modTrunk_congr (by simp [hh])
  case period =>
    intro x i
    have hexec : exec i s = .next (s.expiry (s.vehicles.get v).periodAt fun s =>
        (s.tgPeriod sendStart v).settle).beginSending := congrArg Host.Outcome.next (State.event_operating hs _)
    refine ⟨fun h => ?_, fun t ht => ?_⟩
    · rw [hexec, show (s.vehicles.get v).periodAt = none from h]; rfl
    · intro again
      have hnext : exec i s = .next ((s.reach t).tgPeriod sendStart v).settle.beginSending := by
        rw [hexec, show (s.vehicles.get v).periodAt = some t from ht]; rfl
      have hagain : (s.reach t).periodAgain v = again := rfl
      refine ⟨fun b hb hp => ⟨fun hg hf => ?_, fun h hno => ?_⟩, fun hb => ⟨fun hx hno => ?_, fun h1 h2 => ?_⟩⟩
      · rw [hnext, State.tgPeriod_waiting (by exact hb) hp hg hf, hagain]
      · rw [hnext, State.tgPeriod_busy (by exact hb) hp h, hagain,
          State.settle_nil (s := again) hno]
      · rw [hnext, State.tgPeriod_idle (by exact hb), if_neg (fun h => hx.elim h.1 h.2), hagain,
          State.settle_nil (s := again) hno]
      · rw [hnext, State.tgPeriod_idle (by exact hb), if_pos ⟨h1, h2⟩, hagain]
        rfl

/-! ## Refuge stations (R147 to R152) -/

section stations
variable {s : State} {n : StationNo} {st : Starter}

/-- A station in DISTRESS, with its report. -/
def State.inDistress (s : State) (n : StationNo) (cause : RefugeCause) : State :=
  (s.modStation n fun y => { y with latched := .distress }).reportRefuge n (s.stations.get n).latched cause

theorem State.inDistress_program (s : State) (n : StationNo) (cause : RefugeCause) :
    ((s.inDistress n cause).stations.get n).onDistress = (s.stations.get n).onDistress := by
  simp [inDistress, reportRefuge, modStation]

theorem State.distress_repeated {cause : RefugeCause} (h : (s.stations.get n).latched = .distress) :
    s.distress st n cause = s.inDistress n cause := if_pos h

theorem State.distress_entered {cause : RefugeCause} (h : (s.stations.get n).latched ≠ .distress) :
    s.distress st n cause =
      (s.inDistress n cause).startStation st n (s.stations.get n).onDistress .refugeDistress := by
  refine (if_neg h).trans ?_
  show (s.inDistress n cause).startStation st n ((s.inDistress n cause).stations.get n).onDistress .refugeDistress = _
  rw [inDistress_program]

/-- What the reply of a panel writes. -/
def State.panelRead (s : State) (n : StationNo) (doorOpen : Bool) (count : Nat) : State :=
  s.modStation n fun y => { y with door := if doorOpen then .opened else .closed, headcount := count }

theorem State.panelRead_station (s : State) (n : StationNo) (doorOpen : Bool) (count : Nat) :
    (s.panelRead n doorOpen count).stations.get n =
      { s.stations.get n with door := if doorOpen then .opened else .closed, headcount := count } := by
  simp [panelRead, modStation]

theorem State.activate_eq (s : State) (n : StationNo) (doorOpen : Bool) (count : Nat) :
    (s.panelRead n doorOpen count).activate st n = (((s.panelRead n doorOpen count).modStation n fun y =>
      { y with latched := .activated }).reportRefuge n .standby (if doorOpen then .doorOpen else .headcount)).startStation st n
        (s.stations.get n).onActivated .refugeActivated := by
  have hprogram : ((((s.panelRead n doorOpen count).modStation n fun y => { y with latched := .activated }).reportRefuge n
      .standby (if doorOpen then .doorOpen else .headcount)).stations.get n).onActivated = (s.stations.get n).onActivated := by
    simp [reportRefuge, modStation, panelRead]
  have hcause : (if ((s.panelRead n doorOpen count).stations.get n).door = .opened then RefugeCause.doorOpen else .headcount) =
      if doorOpen then .doorOpen else .headcount := by
    rw [panelRead_station]; cases doorOpen <;> rfl
  unfold activate
  dsimp only
  rw [hcause, hprogram]

theorem State.panelReply_eq (s : State) (n : StationNo) (before : Station) (doorOpen : Bool) (count : Nat) (pressed : Bool) :
    s.panelReply st n before doorOpen count pressed =
      let read := s.panelRead n doorOpen count
      let activates := (s.stations.get n).latched = .standby ∧ (doorOpen = true ∨ 0 < count)
      let same := before.door = (if doorOpen then .opened else .closed) ∧ before.headcount = count ∧
        before.online = (s.stations.get n).online
      let acted := if activates then read.activate st n else read
      if pressed = true then acted.distress st n .distressButton
      else if activates ∨ same then acted else acted.reportRefuge n (s.stations.get n).latched .panelChange := by
  have hsame (x : Station) : samePanel before x = true ↔
      before.door = x.door ∧ before.headcount = x.headcount ∧ before.online = x.online := by
    simp [samePanel, and_assoc]
  show (let x := (s.panelRead n doorOpen count).stations.get n
    let activates := x.latched == .standby && (doorOpen || decide (0 < count))
    let s2 := if activates then (s.panelRead n doorOpen count).activate st n else s.panelRead n doorOpen count
    if pressed then s2.distress st n .distressButton
    else if activates || samePanel before x then s2
    else s2.reportRefuge n x.latched .panelChange) = _
  rw [panelRead_station]
  simp only [Bool.or_eq_true, Bool.and_eq_true, beq_iff_eq, decide_eq_true_eq, hsame]

/-- A change of level that no station's inside channel sees, and one that a single station sees (R149). -/
theorem State.rfmChannel_unseen {c : ChanNo} {prev new : Level} (h : new ≠ .alarm ∨ prev = .alarm ∨
    ∀ n, ¬((s.stations.get n).configured = true ∧
      ((s.stations.get n).insideO2 = some c ∨ (s.stations.get n).insideCo = some c))) :
    s.rfmChannel st c prev new = s := by
  unfold rfmChannel
  split
  · next hc =>
    have hno := (h.resolve_left fun hn => hn hc.1).resolve_left fun hp => hc.2 hp
    have hnone : thoseOf 4 (fun n => (s.stations.get n).configured &&
        ((s.stations.get n).insideO2 == some c || (s.stations.get n).insideCo == some c)) = [] :=
      List.eq_nil_iff_forall_not_mem.mpr fun n hn => hno n (by simpa [mem_thoseOf] using hn)
    rw [hnone]; rfl
  · rfl

theorem thoseOf_single {m : Nat} {p : Fin m → Bool} {i : Fin m} (hi : p i = true) (h : ∀ j, j ≠ i → ¬p j = true) :
    thoseOf m p = [i] := by
  refine List.Perm.eq_singleton ((List.perm_ext_iff_of_nodup ?_ (List.nodup_singleton i)).mpr fun w => ?_)
  · exact (List.nodup_finRange m).filter _
  · rw [mem_thoseOf, List.mem_singleton]
    exact ⟨fun hw => not_not.mp fun hne => h w hne hw, fun hw => hw ▸ hi⟩

theorem State.rfmChannel_seen {c : ChanNo} {prev : Level} (hp : prev ≠ .alarm)
    (hn : (s.stations.get n).configured = true ∧
      ((s.stations.get n).insideO2 = some c ∨ (s.stations.get n).insideCo = some c))
    (h : ∀ m, m ≠ n → ¬((s.stations.get m).configured = true ∧
      ((s.stations.get m).insideO2 = some c ∨ (s.stations.get m).insideCo = some c))) :
    s.rfmChannel st c prev .alarm = s.distress st n .insideAlarm := by
  have hone : thoseOf 4 (fun n => (s.stations.get n).configured &&
      ((s.stations.get n).insideO2 == some c || (s.stations.get n).insideCo == some c)) = [n] :=
    thoseOf_single (by simpa using hn) fun m hm => by simpa using h m hm
  unfold rfmChannel
  rw [if_pos ⟨rfl, hp⟩, hone]
  rfl

/-! ## SET_STATION and REFUGE_RESET (R147, R150) -/

theorem mapM_index?_number {m : Nat} (l : List (Fin m)) : (l.map number).mapM (index? m) = some l := by
  rw [mapM_eq_some_iff, List.forall₂_map_left_iff]
  exact List.forall₂_same.mpr fun i _ => index?_number i

theorem servedZones?_numbers (served : List ZoneNo) : servedZones? (served.map number) =
    if served.Nodup ∧ 1 ≤ served.length ∧ served.length ≤ 4 then some served else none := by
  unfold servedZones?
  rw [mapM_index?_number]
  rfl

theorem servedZones?_range {l : List Nat} {zs : List ZoneNo} (h : servedZones? l = some zs) : ∀ z ∈ l, 1 ≤ z ∧ z ≤ 16 := by
  simp only [servedZones?, Option.bind_eq_bind, Option.bind_eq_some_iff, Option.ite_none_right_eq_some, mapM_eq_some_iff] at h
  obtain ⟨ks, hks, -⟩ := h
  intro z hz
  obtain ⟨k, -, hk⟩ := forall₂_left_mem hks hz
  exact index?_range hk

theorem stationWritten?_range {f : StationFields} {x : StationNo × Station} (h : stationWritten? f = some x) :
    (1 ≤ f.station ∧ f.station ≤ 4) ∧ f.state < 2 ∧ (1 ≤ f.zone ∧ f.zone ≤ 16) ∧ (∀ z ∈ f.served, 1 ≤ z ∧ z ≤ 16) ∧
      ((1 ≤ f.spur ∧ f.spur ≤ 8) ∧ 1 ≤ f.address ∧ f.address ≤ 31) ∧ f.insideO2 ≤ 32 ∧ f.insideCo ≤ 32 ∧
      f.onActivated ≤ 32 ∧ f.onDistress ≤ 32 := by
  simp only [stationWritten?, Option.bind_eq_bind, Option.bind_eq_some_iff] at h
  obtain ⟨n, hn, b, hb, z, hz, zs, hzs, r, hr, o2, ho2, co, hco, act, hact, dis, hdis, -⟩ := h
  exact ⟨index?_range hn, named_range hb, index?_range hz, servedZones?_range hzs, devRef?_range hr, optIndex?_range ho2,
    optIndex?_range hco, optIndex?_range hact, optIndex?_range hdis⟩

theorem stationWritten?_numbers (n : StationNo) (cfg : Bool) (z : ZoneNo) (served : List ZoneNo) (r : DevRef)
    (o2 co : Option ChanNo) (act dis : Option ProgNo) :
    stationWritten? ⟨number n, if cfg then 0 else 1, number z, served.map number, number r.spur, number r.addr, optNo o2, optNo co,
      optNo act, optNo dis⟩ = if served.Nodup ∧ 1 ≤ served.length ∧ served.length ≤ 4 then
        some (n, { configured := cfg, zone := some z, served := served, panel := some r, insideO2 := o2, insideCo := co
                   onActivated := act, onDistress := dis })
      else none := by
  simp only [stationWritten?, index?_number, configuredStates_get, servedZones?_numbers, devRef?_number, optIndex?_optNo,
    Option.bind_eq_bind, Option.bind_some, Option.pure_def]
  split <;> rfl

/-- What a station names exists (R147 check 5). -/
theorem State.stationItemsExist_iff {x : Station} {z : ZoneNo} {r : DevRef} (hz : x.zone = some z) (hr : x.panel = some r) :
    s.stationItemsExist x = true ↔ (s.zones.get z).configured = true ∧ (∀ y ∈ x.served, (s.zones.get y).configured = true) ∧
      (∃ e, s.deviceAt r = some e ∧ (s.devices.get e).kind = .refugePanel) ∧
      ∀ c, x.insideO2 = some c ∨ x.insideCo = some c → (s.channels.get c).configured = true := by
  have hdevice : ((some r).bind (s.deviceOfKind .refugePanel)).isSome = true ↔
      ∃ e, s.deviceAt r = some e ∧ (s.devices.get e).kind = .refugePanel := by
    rw [Option.bind_some, Option.isSome_iff_exists]
    simp only [deviceOfKind_eq_some]
  unfold stationItemsExist
  rw [hz, hr, Bool.and_eq_true, Bool.and_eq_true, Bool.and_eq_true, Bool.and_eq_true, hdevice]
  simp only [Option.all_eq_true, List.all_eq_true, Option.some.injEq, forall_eq', and_assoc, or_imp, forall_and]

theorem State.stationItemsExist_eq_false {x : Station} {z : ZoneNo} {r : DevRef} (hz : x.zone = some z) (hr : x.panel = some r) :
    s.stationItemsExist x = false ↔ (s.zones.get z).configured = false ∨ (∃ y ∈ x.served, (s.zones.get y).configured = false) ∨
      (¬∃ e, s.deviceAt r = some e ∧ (s.devices.get e).kind = .refugePanel) ∨
      ∃ c, (x.insideO2 = some c ∨ x.insideCo = some c) ∧ (s.channels.get c).configured = false := by
  rw [← Bool.not_eq_true, stationItemsExist_iff hz hr]
  simp only [not_and_or, not_forall, Bool.not_eq_true, exists_prop]

/-- A station's panel and channels fit (R147 check 6). -/
theorem State.stationFits_iff {x : Station} : s.stationFits n x = true ↔
    (∀ m : StationNo, m = n ∨ (s.stations.get m).configured = false ∨ (s.stations.get m).panel ≠ x.panel) ∧
      (∀ c, x.insideO2 = some c → (s.channels.get c).gas = .o2) ∧ ∀ c, x.insideCo = some c → (s.channels.get c).gas = .co := by
  unfold stationFits
  simp only [Bool.and_eq_true, List.all_eq_true, Option.all_eq_true, Bool.or_eq_true, beq_iff_eq, Bool.not_eq_true', bne_iff_ne,
    and_assoc, or_assoc, allOf, List.mem_finRange, true_implies]

theorem State.stationFits_eq_false {x : Station} : s.stationFits n x = false ↔
    (∃ m : StationNo, m ≠ n ∧ (s.stations.get m).configured = true ∧ (s.stations.get m).panel = x.panel) ∨
      (∃ c, x.insideO2 = some c ∧ (s.channels.get c).gas ≠ .o2) ∨ ∃ c, x.insideCo = some c ∧ (s.channels.get c).gas ≠ .co := by
  rw [← Bool.not_eq_true, stationFits_iff]
  simp only [not_and_or, not_forall, not_or, Bool.not_eq_false, exists_prop, ne_eq, not_not]

theorem State.newInside_quiet {was now : Option ChanNo} (h : ∀ c, now = some c → (s.channels.get c).level ≠ .alarm) :
    s.newInside n was now = s := by
  refine if_neg fun hn => ?_
  simp only [Bool.and_eq_true, Option.any_eq_true, beq_iff_eq] at hn
  obtain ⟨⟨-, c, hc, hl⟩, -⟩ := hn
  exact h c hc hl

theorem State.writeStation_quiet {new : Station} (hc : new.configured = true)
    (h : ∀ c, new.insideO2 = some c ∨ new.insideCo = some c → (s.channels.get c).level ≠ .alarm) :
    s.writeStation n new = s.modStation n fun _ => s.stationAfter (s.stations.get n) new := by
  unfold writeStation
  dsimp only
  rw [if_neg (by simp [hc]), newInside_quiet (s := s.modStation n _) (by exact fun c hc => h c (.inl hc)),
    newInside_quiet (by exact fun c hc => h c (.inr hc))]

theorem State.insideAlarm_iff : s.insideAlarm n = true ↔ ∃ c, ((s.stations.get n).insideO2 = some c ∨
    (s.stations.get n).insideCo = some c) ∧ (s.channels.get c).level = .alarm := by
  simp [insideAlarm, Option.any_eq_true, or_and_right, exists_or]

end stations

/-- Settles O52. -/
theorem stations : Obligations.Stations := by
  unfold Obligations.Stations
  refine ⟨fun s tag f hs hbad => ?outside, fun s n before doorOpen pressed count => ?panel, fun s c prev new => ?channel,
    fun s n cause => ?distress, fun s tag n cfg z served r o2 co act dis hs => ?setStation, fun s tag hs => ⟨fun a b hbad => ?badReset,
      fun n k => ?reset⟩⟩
  case outside =>
    have hnone : stationWritten? f = none := Option.eq_none_iff_forall_ne_some.mpr fun x hx => by
      obtain ⟨h1, h2, h3, h4, h5⟩ := stationWritten?_range hx
      have hserved : ¬∃ z ∈ f.served, z = 0 ∨ 16 < z := fun ⟨z, hz, hr⟩ => by have := h4 z hz; omega
      simp only [hserved, false_or] at hbad
      omega
    exact exec_refused hs (r := .setStation f) (x := .badValue) rfl (by simp [State.handle, State.doSetStation, hnone])
  case panel =>
    intro x after read activates same active distressed
    have hafter : after = _ := State.panelReply_eq s n before doorOpen count pressed
    have hactive : read.activate sendStart n = active := State.activate_eq s n doorOpen count
    have hread : read.stations.get n = { s.stations.get n with door := if doorOpen then .opened else .closed, headcount := count } :=
      State.panelRead_station ..
    refine ⟨fun hp => ⟨fun h => ?_, fun h hsame => ?_, fun h hsame => ?_⟩, fun hp => ⟨fun h => ?_, fun h hl => ?_, fun h => ?_⟩⟩
    · rw [hafter, ← hactive]
      exact (if_neg (by simp [hp])).trans ((if_pos (.inl h)).trans (if_pos h))
    · rw [hafter]
      exact (if_neg (by simp [hp])).trans ((if_pos (.inr hsame)).trans (if_neg h))
    · rw [hafter]
      refine (if_neg (by simp [hp])).trans ((if_neg (not_or.mpr ⟨h, hsame⟩)).trans ?_)
      exact congrArg (fun t : State => t.reportRefuge n x.latched .panelChange) (if_neg h)
    · have hno : ¬activates := fun ha => by have := ha.1.symm.trans h; cases this
      have hacted : after = read.distress sendStart n .distressButton := by
        rw [hafter]
        exact (if_pos hp).trans (congrArg (fun t : State => t.distress sendStart n .distressButton) (if_neg hno))
      rw [hacted, State.distress_repeated (by rw [hread]; exact h)]
      unfold State.inDistress
      rw [hread]
      exact congrArg (fun l => State.reportRefuge _ n l .distressButton) h
    · have hacted : after = read.distress sendStart n .distressButton := by
        rw [hafter]
        exact (if_pos hp).trans (congrArg (fun t : State => t.distress sendStart n .distressButton) (if_neg h))
      rw [hacted, State.distress_entered (by rw [hread]; exact hl)]
      unfold State.inDistress
      rw [hread]
    · rw [hafter, ← hactive]
      exact (if_pos hp).trans (congrArg (fun t : State => t.distress sendStart n .distressButton) (if_pos h))
  case channel =>
    intro named
    refine ⟨fun h => State.rfmChannel_unseen h, fun hn hp n hnamed hothers => ?_⟩
    rw [hn]
    exact State.rfmChannel_seen hp hnamed hothers
  case distress =>
    intro x entered
    exact ⟨fun h => State.distress_repeated h, fun h => State.distress_entered h⟩
  case setStation =>
    intro old i bad missing unfit new quiet
    have hwritten : stationWritten? _ = if served.Nodup ∧ 1 ≤ served.length ∧ served.length ≤ 4 then some (n, new) else none :=
      stationWritten?_numbers n cfg z served r o2 co act dis
    have hdefined : s.bindingsDefined [new.onActivated, new.onDistress] = false ↔
        ∃ p : ProgNo, (act = some p ∨ dis = some p) ∧ (s.programs.get p).defined = false := by
      rw [State.bindingsDefined_eq_false]
      simp only [new, List.mem_cons, List.not_mem_nil, or_false, eq_comm (a := some _)]
    have hmissing : s.stationItemsExist new = false ↔ missing := State.stationItemsExist_eq_false rfl rfl
    have hunfit : s.stationFits n new = false ↔ unfit := State.stationFits_eq_false
    have hdo : s.doSetStation ⟨number n, if cfg then 0 else 1, number z, served.map number, number r.spur, number r.addr,
        optNo o2, optNo co, optNo act, optNo dis⟩ = if bad then s.refuse .badValue
        else if cfg = false then (if old.latched = .standby then (s.writeStation n new).accept else s.refuse .busy)
        else if missing then s.refuse .notFound else if unfit then s.refuse .badValue
        else (s.writeStation n new).accept := by
      unfold State.doSetStation
      rw [hwritten]
      by_cases hf : served.Nodup ∧ 1 ≤ served.length ∧ served.length ≤ 4
      · rw [if_pos hf]
        have hbad : bad ↔ s.slp.mode = .run ∧ ∃ p : ProgNo, (act = some p ∨ dis = some p) ∧ (s.programs.get p).defined = false :=
          or_iff_right (not_not.mpr hf)
        simp only [hdefined, hmissing, hunfit, hbad]
        rfl
      · rw [if_neg hf, if_pos (.inl hf)]
    have refused {x : Status} (hx : s.doSetStation ⟨number n, if cfg then 0 else 1, number z, served.map number, number r.spur,
        number r.addr, optNo o2, optNo co, optNo act, optNo dis⟩ = s.refuse x) :
        exec i s = .next (s.answered tag [0x1F, statusByte x]) := exec_refused hs (r := .setStation _) rfl hx
    have accepted {t : State} (hx : s.doSetStation ⟨number n, if cfg then 0 else 1, number z, served.map number, number r.spur,
        number r.addr, optNo o2, optNo co, optNo act, optNo dis⟩ = t.accept) :
        exec i s = .next (t.answered tag [0x1F, 0x00]) := exec_accepted hs (r := .setStation _) rfl hx
    refine ⟨fun h => refused (x := .badValue) (hdo.trans (if_pos h)), fun h hc => ?_, fun h hc => ?_⟩
    · have hun := hdo.trans ((if_neg h).trans (if_pos hc))
      refine ⟨fun hl => refused (x := .busy) (hun.trans (if_neg hl)), fun hl => ?_⟩
      have hwrite : s.writeStation n new = s.modStation n fun _ => new := if_pos (by simp [new, hc])
      exact accepted ((hun.trans (if_pos hl)).trans (by rw [hwrite]))
    · have hcfg := hdo.trans ((if_neg h).trans (if_neg (by simp [hc])))
      refine ⟨fun hm => refused (x := .notFound) (hcfg.trans (if_pos hm)), fun hm hu =>
        refused (x := .badValue) (hcfg.trans ((if_neg hm).trans (if_pos hu))), fun hm hu => ?_⟩
      have hwritten := accepted (hcfg.trans ((if_neg hm).trans (if_neg hu)))
      refine ⟨hwritten, fun hq hold hp => ?_, fun hq hold e he => ?_⟩
      · have hafter : s.stationAfter old new = { new with
            door := old.door, headcount := old.headcount, latched := old.latched, online := old.online, strobe := old.strobe } :=
          if_pos (by simp [hold, hp, new])
        rw [hwritten, State.writeStation_quiet hc hq, hafter]
        rfl
      · have hkind : s.deviceOfKind .refugePanel r = some e := by
          obtain ⟨e', he', hk⟩ := not_not.mp fun hno => hm (.inr (.inr (.inl hno)))
          rw [he] at he'; cases he'
          exact State.deviceOfKind_eq_some.mpr ⟨he, hk⟩
        have honline : s.deviceOnline .refugePanel new.panel = ((s.devices.get e).state == .online) := by
          simp [State.deviceOnline, new, hkind]
        have hafter : s.stationAfter old new = { new with
            latched := old.latched, strobe := old.strobe, online := (s.devices.get e).state == .online } := by
          refine (if_neg ?_).trans ?_
          · simpa [new, imp_iff_not_or] using hold
          · rw [honline]
        rw [hwritten, State.writeStation_quiet hc hq, hafter]
        rfl
  case badReset =>
    refine exec_refused hs (r := .refugeReset a b) (x := .badValue) rfl ?_
    have hnone : index? 4 a = none ∨ key? b = none := by
      rw [index?_eq_none, key?_eq_none]; omega
    show s.doRefugeReset a b = _
    unfold State.doRefugeReset
    rcases hnone with h | h <;> rw [h]
    cases index? 4 a <;> rfl
  case reset =>
    intro x i locked barred
    have hlocked : x.zone.any (s.keyFails k) = true ↔ locked := by simp [locked, Option.any_eq_true, State.keyFails]
    have hbarred : (x.door ≠ .closed ∨ 0 < x.headcount ∨ s.insideAlarm n = true) ↔ barred := by
      rw [State.insideAlarm_iff]
    have hdo : s.doRefugeReset (number n) k.val =
        if x.configured = false then s.refuse .notFound else if x.latched = .standby then s.refuse .wrongMode
        else if locked then s.refuse .badKey else if barred then s.refuse .condition else (s.resetStation n).accept := by
      unfold State.doRefugeReset
      rw [index?_number, key?_val]
      simp only [← hlocked, ← hbarred]
      rfl
    refine ⟨fun hc => exec_refused hs (r := .refugeReset _ _) (x := .notFound) rfl (hdo.trans (if_pos hc)), fun hc hl =>
      exec_refused hs (r := .refugeReset _ _) (x := .wrongMode) rfl (hdo.trans ?_), fun hc hl hk =>
      exec_refused hs (r := .refugeReset _ _) (x := .badKey) rfl (hdo.trans ?_), fun hc hl hk hb =>
      exec_refused hs (r := .refugeReset _ _) (x := .condition) rfl (hdo.trans ?_), fun hc hl hk hb =>
      exec_accepted hs (r := .refugeReset _ _) rfl (hdo.trans ?_)⟩
    all_goals rw [if_neg (by simp [hc])]
    · exact if_pos hl
    all_goals rw [if_neg hl]
    · exact if_pos hk
    all_goals rw [if_neg hk]
    · exact if_pos hb
    · rw [if_neg hb]; rfl

end Sys2Proof.Machine
end


section
/-! PROOFS. The statements on alarm programs: steps and programs (R154, R155, R160 to R164), starts (R156 to R159), ends (R165, R166). -/

namespace Sys2Proof.Machine

/-! ## A runner at a step (R160 to R164) -/

section steps
variable {s t : State} {r : RunnerNo} {p : ProgNo} {z own : ZoneNo}

theorem State.modRunner_congr {f g : Runner → Runner} (h : f (s.runners.get r) = g (s.runners.get r)) :
    s.modRunner r f = s.modRunner r g := by simp only [modRunner, h]

theorem State.modRunner_modRunner (s : State) (r : RunnerNo) (f g : Runner → Runner) :
    (s.modRunner r f).modRunner r g = s.modRunner r fun x => g (f x) := by simp [modRunner]

theorem State.modRunner_get (s : State) (r : RunnerNo) (f : Runner → Runner) :
    (s.modRunner r f).runners.get r = f (s.runners.get r) := by simp

theorem State.stepAt_val (s : State) (k : Fin 128) : s.stepAt k.val = some (s.steps.get k) := dif_pos k.isLt

theorem State.stepAt_none {i : Nat} (h : 128 ≤ i) : s.stepAt i = none := dif_neg (Nat.not_lt.mpr h)

/-- The checks on a step of a runner that runs a program, then the step. -/
theorem State.atStep_eq {k : Fin 128} (hp : (s.runners.get r).program = some p) (hz : (s.runners.get r).zone = some own)
    (first : Bool) : s.atStep r k.val first =
      if programCheck (s.runners.get r) first (s.steps.get k) = true then
        s.suppress r k.val .programCheck fun c => { c with program := true }
      else if s.protectionCheck (s.runners.get r) own (s.steps.get k) = true then
        s.suppress r k.val .protectionCheck fun c => { c with protection := true }
      else s.takeStep r k.val (s.steps.get k) p own := by
  unfold atStep
  dsimp only
  rw [stepAt_val, hp, hz]

theorem State.atStep_none {i : Nat} (h : 128 ≤ i) (first : Bool) :
    s.atStep r i first = s.suppress r i .programCheck fun c => { c with program := true } := by
  unfold atStep
  dsimp only
  rw [stepAt_none h]

theorem isTimed_iff (a : Action) : isTimed a = true ↔ a = .sound ∨ a = .strobe ∨ a = .announce ∨ a = .wait := by
  cases a <;> decide

theorem actsOnZone_iff (a : Action) : actsOnZone a = true ↔ a = .announce ∨ a = .page ∨ a = .evacuate ∨ a = .test := by
  cases a <;> decide

theorem programCheck_iff (x : Runner) (first : Bool) (st : Step) : programCheck x first st = true ↔
    st.action = .transfer ∧ (first = true ∨ x.lastTransfer = true) ∨
      (st.action = .sound ∨ st.action = .strobe ∨ st.action = .announce ∨ st.action = .wait) ∧ st.count = 0 ∨
      ¬(st.action = .sound ∨ st.action = .strobe ∨ st.action = .announce ∨ st.action = .wait) ∧ 8 ≤ x.untimed := by
  rw [← isTimed_iff]
  simp only [programCheck, Bool.or_eq_true, Bool.and_eq_true, beq_iff_eq, Bool.not_eq_true', Bool.not_eq_true, decide_eq_true_eq,
    or_assoc]
  rfl

theorem State.protectionCheck_iff (x : Runner) (own : ZoneNo) (st : Step) : s.protectionCheck x own st = true ↔
    (st.action = .announce ∨ st.action = .page ∨ st.action = .evacuate ∨ st.action = .test) ∧
      (s.zones.get (resolveZone own st.zone)).key ≠ 0 ∧
      ∃ q, x.key = some q ∧ q ≠ 0 ∧ q ≠ (s.zones.get (resolveZone own st.zone)).key := by
  rw [← actsOnZone_iff]
  unfold protectionCheck
  cases x.key with
  | none => simp
  | some q =>
    simp only [Option.getD_some, Bool.and_eq_true, bne_iff_ne, Option.some.injEq, exists_eq_left', and_assoc]
    exact and_congr_right fun _ => and_congr_right fun _ => and_congr_right fun _ => ne_comm

/-- Whose target fails (R164). -/
theorem State.dataFails_iff (own : ZoneNo) (st : Step) : s.dataFails own st = true ↔
    st.action = .sound ∧ (∀ g : SigNo, number g = st.item → (s.signals.get g).fault = true) ∨
      st.action = .strobe ∧ (∀ n : StationNo, number n = st.item →
        (s.stations.get n).configured = false ∨ (s.stations.get n).online = false) ∨
      (st.action = .announce ∨ st.action = .page ∨ st.action = .evacuate ∨ st.action = .test) ∧
        (s.zones.get (resolveZone own st.zone)).configured = false := by
  unfold dataFails
  cases st.action <;> simp [actsOnZone, Option.all_eq_true, index?_eq_some_iff]

theorem nextStep_eq (i : Nat) (st : Step) (cond : Bool) : nextStep i st cond =
    if st.action = .transfer then some st.item
    else if st.chain = true then some (if st.action = .test ∧ cond = false then i + 2 else i + 1) else none := rfl

theorem State.goOn_failed {i : Nat} {st : Step} {cond : Bool} (h : (s.runners.get r).checks.data = true) :
    s.goOn r i st cond = (s.endRun r .dataCheck (nextStep i st cond) 0, .head) := if_pos h

theorem State.goOn_next {i j : Nat} {st : Step} {cond : Bool} (h : (s.runners.get r).checks.data = false)
    (hj : nextStep i st cond = some j) : s.goOn r i st cond = (s, .step j false) := by
  refine (if_neg (by simp [h])).trans ?_
  rw [hj]

theorem State.goOn_last {i : Nat} {st : Step} {cond : Bool} (h : (s.runners.get r).checks.data = false)
    (hj : nextStep i st cond = none) : s.goOn r i st cond = (s.endRun r .normal none 0, .head) := by
  refine (if_neg (by simp [h])).trans ?_
  rw [hj]

/-- A step that is timed leaves the runner with its count; another lets it go on. -/
theorem State.takeStep_timed {i : Nat} {st : Step} {fails : Bool} (hf : s.dataFails own st = fails) (ht : isTimed st.action = true)
    {cond : Bool} (hact : (s.modRunner r fun x => x.took i st fails).act r p own ((s.runners.get r).urgency.getD 0) st =
      (t, cond)) : s.takeStep r i st p own = (t, .rest) := by
  unfold takeStep
  dsimp only
  rw [hf, hact]
  exact if_pos ht

theorem State.takeStep_untimed {i : Nat} {st : Step} {fails : Bool} (hf : s.dataFails own st = fails)
    (ht : isTimed st.action = false) {cond : Bool}
    (hact : (s.modRunner r fun x => x.took i st fails).act r p own ((s.runners.get r).urgency.getD 0) st = (t, cond)) :
    s.takeStep r i st p own = t.goOn r i st cond := by
  unfold takeStep
  dsimp only
  rw [hf, hact]
  exact if_neg (by simp [ht])

/-- The answer of a TEST and the change of every other action (R161). -/
theorem State.act_wait {u : Nat} {st : Step} (h : st.action = .wait) : s.act r p own u st = (s.startCount r st, true) := by
  unfold act; rw [h]

theorem State.act_sound {u : Nat} {st : Step} {g : SigNo} (h : st.action = .sound) (hg : number g = st.item) :
    s.act r p own u st = ((s.changeDrivers g (joinRunner r (st.pattern.getD .steady) u)).startCount r st, true) := by
  unfold act; rw [h, index?_eq_some_iff.mpr hg]; rfl

theorem State.act_strobe {u : Nat} {st : Step} {n : StationNo} (h : st.action = .strobe) (hn : number n = st.item) :
    s.act r p own u st = ((s.joinStrobe n r).startCount r st, true) := by
  unfold act; rw [h, index?_eq_some_iff.mpr hn]; rfl

theorem State.act_announce {u : Nat} {st : Step} (h : st.action = .announce) : s.act r p own u st = (s.announce r, true) := by
  unfold act; rw [h]

theorem State.act_page {u : Nat} {st : Step} (h : st.action = .page) :
    s.act r p own u st = (s.pageZone (resolveZone own st.zone), true) := by unfold act; rw [h]

theorem State.act_evacuate {u : Nat} {st : Step} (h : st.action = .evacuate) : s.act r p own u st =
    (if (s.zones.get (resolveZone own st.zone)).configured = true then
      s.orderEvac (resolveZone own st.zone) (.stepOrder r) else s, true) := by unfold act; rw [h]

theorem State.act_test {u : Nat} {st : Step} {c : Condition} (h : st.action = .test) (hc : conditions[st.item]? = some c) :
    s.act r p own u st = (s, s.condition (resolveZone own st.zone) c) := by unfold act; rw [h, hc]; rfl

theorem State.act_report {u : Nat} {st : Step} (h : st.action = .report) :
    s.act r p own u st = (s.reportProgramMark r p own st.item, true) := by unfold act; rw [h]

theorem State.act_transfer {u : Nat} {st : Step} (h : st.action = .transfer) : s.act r p own u st = (s, true) := by
  unfold act; rw [h]

/-- The count of a step by the unit of its action. -/
theorem State.startCount_eq {st : Step} {unit : Nat} (h : countUnit st.action = unit) :
    s.startCount r st = s.modRunner r fun y => { y with countEnd := some (s.now + unit * st.count) } := by
  unfold startCount; rw [h]

/-- The announcement plays without a slot, with a free slot, or waits for one (R161). -/
theorem State.announce_plays {k : Fin 128} (hk : (s.runners.get r).current = some k.val) (hd : s.trunk.state ≠ .up) :
    s.announce r = s.modRunner r fun y => { y with
      state := .stepping, slotWaitAt := none, countEnd := some (s.now + 10 * (s.steps.get k).count) } :=
  (if_neg hd).trans (playStart_eq hk)

theorem State.announce_granted {k : Fin 128} {c : SlotNo} (hk : (s.runners.get r).current = some k.val)
    (hu : s.trunk.state = .up) (hn : ¬s.trunk.Known (.runner r)) (hc : s.trunk.freeSlot = some c) :
    s.announce r = (s.modTrunk fun y => { y with held := y.held ++ [⟨c, .runner r, .alarm⟩] }).modRunner r fun y => { y with
      state := .stepping, slotWaitAt := none, countEnd := some (s.now + 10 * (s.steps.get k).count) } := by
  have hrequest : s.requestSlot (.runner r) .alarm = (s.modTrunk fun t => t.give c (.runner r) .alarm, .granted c, none) :=
    requestSlot_plain (.inl fun h => by rw [hc] at h; cases h.2.2.2) (requestPlain_free hu hn hc)
  unfold announce
  rw [if_pos hu, hrequest]
  exact playStart_eq (s := s.modTrunk fun t => t.give c (.runner r) .alarm) hk

theorem State.announce_waits (hu : s.trunk.state = .up) (hn : ¬s.trunk.Known (.runner r)) (hc : s.trunk.freeSlot = none)
    (hv : s.trunk.victim .alarm = none) (hq : s.trunk.queue.length < 16) :
    s.announce r = (s.modTrunk fun y => { y with queue := placeWaiting y.queue ⟨.runner r, .alarm⟩ }).modRunner r fun y =>
      { y with state := .slotWait, slotWaitAt := some (s.now + 100) } := by
  have hrequest : s.requestSlot (.runner r) .alarm =
      (s.modTrunk fun y => { y with queue := placeWaiting y.queue ⟨.runner r, .alarm⟩ }, .queued, none) :=
    requestSlot_plain (.inr hv) ((requestPlain_queue hu hn hc).trans (toQueue_room hq))
  unfold announce
  rw [if_pos hu, hrequest]
  rfl

/-- Ordering an evacuation changes no runner. -/
theorem State.setEvac_runners {new : Evac} {cause : EvacCause} (h : new ≠ .none) :
    (s.setEvac z new cause).runners = s.runners := by
  unfold setEvac hlcEvacuation
  dsimp only
  split
  · exact (congrArg (fun x : State => x.runners) (hlcEvacuate_offRoad _ z) :)
  · rw [if_neg (fun hn => h hn.2)]; rfl

theorem State.orderEvac_runners {cause : EvacCause} : (s.orderEvac z cause).runners = s.runners := by
  unfold orderEvac testEmpty
  split
  · rfl
  · split
    · exact (setEvac_runners (new := .cleared) (by decide)).trans (setEvac_runners (new := .ordered) (by decide))
    · exact setEvac_runners (new := .ordered) (by decide)

theorem State.pageZone_runners : (s.pageZone z).runners = s.runners := by
  unfold pageZone
  exact forEach_keeps (fun t : State => t.runners) (f := fun t q => t.modTag q fun x => { x with page := true })
    (fun _ _ => rfl) _ _

/-- A WAIT step of a runner rests at its count. -/
theorem State.atStep_wait {k : Fin 128} (hp : (s.runners.get r).program = some p) (hz : (s.runners.get r).zone = some own)
    (ha : (s.steps.get k).action = .wait) (hc : 0 < (s.steps.get k).count) (first : Bool) : s.atStep r k.val first =
      (s.modRunner r fun y => { y with
        current := some k.val, lastTaken := some k.val, untimed := 0, lastTransfer := false
        countEnd := some (s.now + (s.steps.get k).count) }, .rest) := by
  have hcheck : ¬programCheck (s.runners.get r) first (s.steps.get k) = true := by
    rw [programCheck_iff, ha]; simp; omega
  have hprotect : ¬s.protectionCheck (s.runners.get r) own (s.steps.get k) = true := by
    rw [protectionCheck_iff, ha]; simp
  have hfails : s.dataFails own (s.steps.get k) = false := by
    rw [← Bool.not_eq_true, dataFails_iff, ha]; simp
  rw [atStep_eq hp hz, if_neg hcheck, if_neg hprotect, takeStep_timed hfails (by rw [ha]; rfl) (act_wait ha),
    startCount_eq (unit := 1) (by rw [ha]; rfl), modRunner_modRunner, modRunner_now, Nat.one_mul]
  refine congrArg (fun t : State => (t, Work.rest)) (modRunner_congr ?_)
  simp [Runner.took, ha, isTimed, show (Action.wait == Action.transfer) = false from rfl]

end steps

/-! ## LOAD_STEPS and SET_PROGRAM (R154, R155) -/

section load
variable {s : State}

/-- A step as LOAD_STEPS carries it. -/
def stepFieldsOf (x : Step) : StepFields :=
  ⟨actions.idxOf x.action, x.zone, x.item, x.pattern.elim .absent fun p => .present (patterns.idxOf p), x.count,
    if x.chain then 0 else 1⟩

theorem actions_get (a : Action) : actions[actions.idxOf a]? = some a := by cases a <;> rfl

theorem setClear_get (b : Bool) : setClear[if b then 0 else 1]? = some b := by cases b <;> rfl

theorem definedStates_get (b : Bool) : definedStates[if b then 0 else 1]? = some b := by cases b <;> rfl

theorem pattern?_fields (o : Option Pattern) :
    pattern? (o.elim .absent fun p => .present (patterns.idxOf p)) = some o := by
  cases o with
  | none => rfl
  | some p => cases p <;> rfl

theorem stepWritten?_fields (x : Step) : stepWritten? (stepFieldsOf x) =
    if x.zone ≤ 16 ∧ itemFits x.action x.item = true ∧ (x.action = .sound → x.pattern ≠ none) then some x else none := by
  simp only [stepWritten?, stepFieldsOf, actions_get, pattern?_fields, setClear_get, Option.bind_eq_bind, Option.bind_some,
    Option.isSome_iff_ne_none]

theorem stepWritten?_range {f : StepFields} {x : Step} (h : stepWritten? f = some x) :
    f.action ≤ 8 ∧ f.zone ≤ 16 ∧ f.chain ≤ 1 ∧ (∀ n, f.pattern = .present n → n ≤ 2) ∧ ∀ n, f.pattern ≠ .other n := by
  simp only [stepWritten?, Option.bind_eq_bind, Option.bind_eq_some_iff, Option.ite_none_right_eq_some] at h
  obtain ⟨a, ha, o, ho, c, hc, ⟨hz, -⟩, -⟩ := h
  refine ⟨Nat.lt_succ_iff.mp (named_range ha), hz, Nat.lt_succ_iff.mp (named_range hc), fun n hn => ?_, fun n hn => ?_⟩
  · rw [hn, pattern?, Option.map_eq_some_iff] at ho
    obtain ⟨p, hp, -⟩ := ho
    exact Nat.lt_succ_iff.mp (named_range hp)
  · rw [hn, pattern?] at ho; cases ho

theorem mapM_stepWritten? {l : List Step} (h : ∀ x ∈ l, stepWritten? (stepFieldsOf x) = some x) :
    (l.map stepFieldsOf).mapM stepWritten? = some l := by
  rw [mapM_eq_some_iff, List.forall₂_map_left_iff]
  exact List.forall₂_same.mpr h

theorem mapM_eq_none_of {α β : Type} {f : α → Option β} {l : List α} {a : α} (ha : a ∈ l) (h : f a = none) : l.mapM f = none := by
  refine Option.eq_none_iff_forall_ne_some.mpr fun ks hks => ?_
  obtain ⟨k, -, hk⟩ := forall₂_left_mem (mapM_eq_some_iff.mp hks) ha
  rw [h] at hk; cases hk

theorem writeSteps_outside (l : List Step) : ∀ (v : Vector Step 128) (i : Nat) (k : Fin 128),
    (k.val < i ∨ i + l.length ≤ k.val) → (writeSteps v i l).get k = v.get k := by
  induction l with
  | nil => exact fun _ _ _ _ => rfl
  | cons st l ih =>
    intro v i k hk
    rw [List.length_cons] at hk
    refine (ih _ (i + 1) k (by omega)).trans ?_
    split
    · next hi =>
      have hne : (⟨i, hi⟩ : Fin 128) ≠ k := fun he => by
        have := congrArg Fin.val he; simp only at this; omega
      exact (get_set_entry v ⟨i, hi⟩ k st).trans (if_neg hne)
    · rfl

theorem writeSteps_inside (l : List Step) : ∀ (v : Vector Step 128) (i : Nat) (k : Fin 128) (n : Nat) (x : Step),
    k.val = i + n → l[n]? = some x → (writeSteps v i l).get k = x := by
  induction l with
  | nil => intro _ _ _ _ _ _ h; simp at h
  | cons st l ih =>
    intro v i k n x hk hx
    cases n with
    | zero =>
      obtain rfl : st = x := by simpa using hx
      refine (writeSteps_outside l _ (i + 1) k (by omega)).trans ?_
      have hi : i < 128 := by omega
      rw [dif_pos hi]
      exact (get_set_entry v ⟨i, hi⟩ k st).trans (if_pos (Fin.ext (by simp only; omega)))
    | succ n => exact ih _ (i + 1) k n x (by omega) (by simpa using hx)

theorem State.anyRunning_iff : s.anyRunning = true ↔ ∃ r : RunnerNo, (s.runners.get r).state ≠ .idle := by
  simp [anyRunning, allOf, Runner.running]

theorem State.programRuns_iff {p : ProgNo} : s.programRuns p = true ↔
    ∃ r : RunnerNo, (s.runners.get r).state ≠ .idle ∧ (s.runners.get r).program = some p := by
  simp [programRuns, allOf, Runner.running]

theorem programWritten?_range {n d first u k : Nat} {x : ProgNo × Program} (h : programWritten? n d first u k = some x) :
    (1 ≤ n ∧ n ≤ 32) ∧ d < 2 ∧ k ≤ 15 ∧ first ≤ 127 ∧ 1 ≤ u ∧ u ≤ 7 := by
  simp only [programWritten?, Option.bind_eq_bind, Option.bind_eq_some_iff, Option.ite_none_right_eq_some] at h
  obtain ⟨p, hp, b, hb, q, hq, hfits, -⟩ := h
  refine ⟨index?_range hp, named_range hb, ?_, hfits⟩
  by_contra hk
  rw [key?_eq_none.mpr (by omega)] at hq; cases hq

end load

/-- Settles O53. -/
theorem stepsAndPrograms : Obligations.StepsAndPrograms := by
  unfold Obligations.StepsAndPrograms
  refine ⟨fun s tag first l hs hbad => ?badSteps, ⟨rfl, fun s z => ⟨fun hc c => ?free, fun hc => ?conditions⟩⟩,
    fun s r i first h => State.atStep_none h first, fun s r k first p own => ?step, fun s tag first steps hs => ?load,
    fun s tag hs => ⟨fun n d first u k hbad => ?badProgram, fun p d first u k hfirst hu hu' => ?program⟩⟩
  case badSteps =>
    refine exec_refused hs (r := .loadSteps first l) (x := .badValue) rfl ?_
    obtain ⟨x, hx, hbad⟩ := hbad
    have hnone : stepWritten? x = none := Option.eq_none_iff_forall_ne_some.mpr fun y hy => by
      obtain ⟨ha, hz, hc, hpresent, hother⟩ := stepWritten?_range hy
      rcases hbad with h | h | h | ⟨n, hn, h⟩ | ⟨n, hn⟩
      · omega
      · omega
      · omega
      · have := hpresent n hn; omega
      · exact hother n hn
    show s.doLoadSteps first l = _
    unfold State.doLoadSteps
    rw [mapM_eq_none_of hx hnone, ite_self]
  case free => unfold State.condition; rw [hc]; rfl
  case conditions =>
    have hcond (c : Condition) : s.condition z c = match c with
      | .occupied => !(s.zones.get z).occupancy.isEmpty
      | .missing => 0 < s.missingCount z
      | .tripped => isTripped (s.zones.get z).view
      | .evacCleared => (s.zones.get z).evac == .cleared := by unfold State.condition; rw [hc]; exact Bool.true_and _
    refine ⟨?_, ?_, ?_, ?_⟩
    · rw [hcond]; simp
    · rw [hcond]
      simp [State.missingCount, Option.any_eq_true]
    · rw [hcond]; exact isTripped_iff _
    · rw [hcond]; exact beq_iff_eq
  case step =>
    intro st x hp hz z a timed onZone bad barred after stops
    have hzone : resolveZone own st.zone = z := by
      simp only [z]
      split
      · next h => rw [h]; rfl
      · rfl
    have hbad : programCheck (s.runners.get r) first st = true ↔ bad := programCheck_iff ..
    have hbarred : s.protectionCheck (s.runners.get r) own st = true ↔ barred := by
      rw [State.protectionCheck_iff, hzone]
    have hafter : after = _ := State.atStep_eq (k := k) hp hz first
    refine ⟨fun h => hafter.trans (if_pos (hbad.mpr h)), fun h h' =>
      hafter.trans ((if_neg (mt hbad.mp h)).trans (if_pos (hbarred.mpr h'))), fun h h' fails hfails => ?_⟩
    intro took counts plays goesOn
    have hstep : after = s.takeStep r k.val st p own :=
      hafter.trans ((if_neg (mt hbad.mp h)).trans (if_neg (mt hbarred.mp h')))
    have hdata : s.dataFails own st = fails := by
      rw [Bool.eq_iff_iff, State.dataFails_iff, hfails, hzone]
    have htook : (s.modRunner r fun y => y.took k.val st fails) = took := by
      refine State.modRunner_congr ?_
      have htimed : (if isTimed st.action = true then 0 else (s.runners.get r).untimed + 1) =
          if timed then 0 else (s.runners.get r).untimed + 1 := by simp only [isTimed_iff]; rfl
      unfold Runner.took
      rw [htimed]
      rfl
    have htimed {t : State} {cond : Bool} (ht : isTimed st.action = true)
        (hact : took.act r p own (x.urgency.getD 0) st = (t, cond)) : after = (t, Work.rest) :=
      hstep.trans (State.takeStep_timed hdata ht (by rw [htook]; exact hact))
    have huntimed {t : State} {cond : Bool} (ht : isTimed st.action = false)
        (hact : took.act r p own (x.urgency.getD 0) st = (t, cond)) : after = t.goOn r k.val st cond :=
      hstep.trans (State.takeStep_untimed hdata ht (by rw [htook]; exact hact))
    have hchecks : (took.runners.get r).checks.data = (x.checks.data || fails) := by
      rw [State.modRunner_get]
    have hgoes (t : State) (cond : Bool) (ht : isTimed st.action = false) (hr : t.runners = took.runners)
        (hact : took.act r p own (x.urgency.getD 0) st = (t, cond)) (hcond : a = .test ∨ cond = true) : goesOn t (!cond) := by
      have hnext : nextStep k.val st cond = if a = .transfer then some st.item
          else if st.chain then some (if (!cond) then k.val + 2 else k.val + 1) else none := by
        rw [nextStep_eq]
        have hskip : (st.action = .test ∧ cond = false) ↔ (!cond) = true := by
          rw [Bool.not_eq_true']
          refine and_iff_right_of_imp fun hc => hcond.resolve_right ?_
          rw [hc]; nofun
        simp only [hskip]
        rfl
      have hgo := huntimed ht hact
      have hdatum : (t.runners.get r).checks.data = true ↔ (x.checks.data = true ∨ fails = true) := by
        rw [hr, hchecks, Bool.or_eq_true]
      refine ⟨fun hd => ?_, fun hd => ⟨fun j hj => ?_, fun hj => ?_⟩⟩
      · rw [hgo, State.goOn_failed (hdatum.mpr hd), hnext]
      · exact hgo.trans (State.goOn_next (Bool.eq_false_iff.mpr (mt hdatum.mp hd)) (hnext.trans hj))
      · exact hgo.trans (State.goOn_last (Bool.eq_false_iff.mpr (mt hdatum.mp hd)) (hnext.trans hj))
    have hcurrent : (took.runners.get r).current = some k.val := by rw [State.modRunner_get]
    have hknown (hh : s.trunk.holds (.runner r) = false) (hw : s.trunk.waitsFor (.runner r) = false) :
        ¬took.trunk.Known (.runner r) := mt Trunk.known_iff.mpr (by
      rw [show took.trunk = s.trunk from rfl, hh, hw]; nofun)
    refine ⟨fun ha => ?wait, fun ha g hg => ?sound, fun ha n hn => ?strobe, fun ha => ?announce, fun ha => ?page,
      fun ha => ?evacuate, fun ha c hc => ?test, fun ha => ?report, fun ha => ?transfer⟩
    all_goals have hst : st.action = _ := ha
    case wait =>
      refine (htimed (by rw [hst]; rfl) (State.act_wait hst)).trans ?_
      rw [State.startCount_eq (unit := 1) (by rw [hst]; rfl)]
      rfl
    case sound =>
      refine (htimed (by rw [hst]; rfl) (State.act_sound hst hg)).trans ?_
      rw [State.startCount_eq (unit := 5) (by rw [hst]; rfl)]
      rfl
    case strobe =>
      refine (htimed (by rw [hst]; rfl) (State.act_strobe hst hn)).trans ?_
      rw [State.startCount_eq (unit := 5) (by rw [hst]; rfl)]
      rfl
    case announce =>
      have hact : after = (took.announce r, Work.rest) := htimed (by rw [hst]; rfl) (State.act_announce hst)
      refine ⟨fun hd => ?_, fun hup hh hw => ⟨fun c hc => ?_, fun hc hv hq => ?_⟩⟩
      · exact hact.trans (congrArg (fun t : State => (t, Work.rest)) (State.announce_plays hcurrent hd))
      · exact hact.trans (congrArg (fun t : State => (t, Work.rest)) (State.announce_granted hcurrent hup (hknown hh hw) hc))
      · exact hact.trans (congrArg (fun t : State => (t, Work.rest)) (State.announce_waits hup (hknown hh hw) hc hv hq))
    case page =>
      have hact : took.act r p own (x.urgency.getD 0) st = (took.pageZone z, true) := by rw [State.act_page hst, hzone]
      have hgo := hgoes (took.pageZone z) true (by rw [hst]; rfl) State.pageZone_runners hact (.inr rfl)
      refine ⟨fun hc => ?_, fun hc => ?_⟩
      · have hlist : took.pageZone z = (s.zones.get z).occupancy.foldl (fun t q => t.modTag q fun y => { y with page := true })
            took := congrArg (fun l : List Roster => took.forEach l fun t r => t.modTag r fun y => { y with page := true }) (if_pos hc)
        rw [hlist] at hgo; exact hgo
      · have hlist : took.pageZone z = took :=
          congrArg (fun l : List Roster => took.forEach l fun t r => t.modTag r fun y => { y with page := true })
            (if_neg (Bool.eq_false_iff.mp hc))
        rw [hlist] at hgo; exact hgo
    case evacuate =>
      have hact : took.act r p own (x.urgency.getD 0) st =
          (if (s.zones.get z).configured = true then took.orderEvac z (.stepOrder r) else took, true) := by
        rw [State.act_evacuate hst, hzone]; rfl
      refine ⟨fun hc => ?_, fun hc => ?_⟩
      · rw [if_pos hc] at hact
        exact hgoes (took.orderEvac z (.stepOrder r)) true (by rw [hst]; rfl) State.orderEvac_runners hact (.inr rfl)
      · rw [if_neg (by simp [hc])] at hact
        exact hgoes took true (by rw [hst]; rfl) rfl hact (.inr rfl)
    case test =>
      exact hgoes took (s.condition z c) (by rw [hst]; rfl) rfl ((State.act_test hst hc).trans (by rw [hzone]; rfl)) (.inl ha)
    case report => exact hgoes (took.reportProgramMark r p own st.item) true (by rw [hst]; rfl) rfl (State.act_report hst) (.inr rfl)
    case transfer => exact hgoes took true (by rw [hst]; rfl) rfl (State.act_transfer hst) (.inr rfl)
  case load =>
    classical
    intro i fits good busy
    have hfits (x : Step) : (x.zone ≤ 16 ∧ itemFits x.action x.item = true ∧ (x.action = .sound → x.pattern ≠ none)) ↔ fits x := by
      refine and_congr_right fun _ => ?_
      have htest : x.item < conditions.length ↔ x.item ≤ 3 := Nat.lt_succ_iff
      cases x.action <;> simp [itemFits, htest, and_comm]
    have hwritten (x : Step) : stepWritten? (stepFieldsOf x) = if fits x then some x else none := by
      rw [stepWritten?_fields]; simp only [hfits]
    have hdo : s.doLoadSteps first (steps.map stepFieldsOf) = if good then (if busy then s.refuse .busy
        else ({ s with steps := writeSteps s.steps first steps } : State).accept) else s.refuse .badValue := by
      unfold State.doLoadSteps
      rw [List.length_map]
      by_cases hg : good
      · obtain ⟨h1, h2, h3, h4⟩ := hg
        rw [if_neg (by omega), mapM_stepWritten? fun x hx => by rw [hwritten, if_pos (h4 x hx)], if_pos ⟨h1, h2, h3, h4⟩]
        simp only [State.anyRunning_iff]
        rfl
      · rw [if_neg hg]
        split
        · rfl
        · next hlen =>
          have hbad : ∃ x ∈ steps, ¬fits x := by
            by_contra hno
            exact hg ⟨by omega, by omega, by omega, fun x hx => not_not.mp fun hf => hno ⟨x, hx, hf⟩⟩
          obtain ⟨x, hx, hf⟩ := hbad
          rw [mapM_eq_none_of (List.mem_map_of_mem hx) ((hwritten x).trans (if_neg hf))]
    refine ⟨fun hg => exec_refused hs (r := .loadSteps _ _) (x := .badValue) rfl (hdo.trans (if_neg hg)), fun hg hb =>
      exec_refused hs (r := .loadSteps _ _) (x := .busy) rfl (hdo.trans ((if_pos hg).trans (if_pos hb))), fun hg hb =>
      ⟨writeSteps s.steps first steps,
        exec_accepted hs (r := .loadSteps _ _) rfl (hdo.trans ((if_pos hg).trans (if_neg hb))), fun k =>
        ⟨writeSteps_outside steps s.steps first k, writeSteps_inside steps s.steps first k⟩⟩⟩
  case badProgram =>
    have hnone : programWritten? n d first u k = none := Option.eq_none_iff_forall_ne_some.mpr fun x hx => by
      have := programWritten?_range hx; omega
    exact exec_refused hs (r := .setProgram n d first u k) (x := .badValue) rfl (by
      simp [State.handle, State.doSetProgram, hnone])
  case program =>
    intro i busy
    have hwritten : programWritten? (number p) (if d then 0 else 1) first u k.val = some (p, ⟨d, first, u, k⟩) := by
      simp [programWritten?, definedStates_get, hfirst, hu, hu']
    have hdo : s.doSetProgram (number p) (if d then 0 else 1) first u k.val =
        if busy then s.refuse .busy else ({ s with programs := s.programs.set p ⟨d, first, u, k⟩ } : State).accept := by
      unfold State.doSetProgram
      rw [hwritten]
      simp only [State.programRuns_iff]
      rfl
    exact ⟨fun hb => exec_refused hs (r := .setProgram _ _ _ _ _) (x := .busy) rfl (hdo.trans (if_pos hb)), fun hb =>
      exec_accepted hs (r := .setProgram _ _ _ _ _) rfl (hdo.trans (if_neg hb))⟩

end Sys2Proof.Machine
end


section
/-! PROOFS. The statements on the starts of programs (R156 to R159) and on their ends (R165, R166). -/

namespace Sys2Proof.Machine

/-! ## A runner's work (R158, R160) -/

section work
variable {s t : State} {r : RunnerNo} {q : StartReq}

theorem State.work_rest (s : State) (r : RunnerNo) (n : Nat) : s.work r n .rest = s := by cases n <;> rfl

theorem State.work_succ {w : Work} (h : w ≠ .rest) (n : Nat) :
    s.work r (n + 1) w = (s.workOnce r w).1.work r n (s.workOnce r w).2 := by
  cases w with
  | rest => exact absurd rfl h
  | step i first => rfl
  | head => rfl

/-- A runner with a program that starts on it, and the report of the start. -/
def State.begun (s : State) (r : RunnerNo) (q : StartReq) : State :=
  ({ s.modRunner r fun y => { y with
    state := .stepping, program := some q.program, zone := some q.zone, cause := some q.cause
    urgency := some (s.programs.get q.program).urgency, key := some (s.programs.get q.program).key
    startNo := some s.nextStart, current := none, countEnd := none, untimed := 0, lastTransfer := false, checks := {}
    slotWaitAt := none, lastTaken := none } with nextStart := s.nextStart + 1 } : State).reportProgramStart r q
      (s.programs.get q.program).urgency

theorem State.startOn_eq (s : State) (r : RunnerNo) (q : StartReq) :
    s.startOn r q = (s.begun r q).work r 400 (.step (s.programs.get q.program).first true) := rfl

theorem State.begun_runner (s : State) (r : RunnerNo) (q : StartReq) : (s.begun r q).runners.get r = { s.runners.get r with
    state := .stepping, program := some q.program, zone := some q.zone, cause := some q.cause
    urgency := some (s.programs.get q.program).urgency, key := some (s.programs.get q.program).key
    startNo := some s.nextStart, current := none, countEnd := none, untimed := 0, lastTransfer := false, checks := {}
    slotWaitAt := none, lastTaken := none } := by
  simp [begun, reportProgramStart]

theorem State.begun_modRunner (s : State) (r : RunnerNo) (q : StartReq) (g : Runner → Runner) : (s.begun r q).modRunner r g =
    ({ s.modRunner r fun y => g { y with
      state := .stepping, program := some q.program, zone := some q.zone, cause := some q.cause
      urgency := some (s.programs.get q.program).urgency, key := some (s.programs.get q.program).key
      startNo := some s.nextStart, current := none, countEnd := none, untimed := 0, lastTransfer := false, checks := {}
      slotWaitAt := none, lastTaken := none } with nextStart := s.nextStart + 1 } : State).reportProgramStart r q
        (s.programs.get q.program).urgency := by
  rw [← modRunner_modRunner s r (fun y => { y with
      state := .stepping, program := some q.program, zone := some q.zone, cause := some q.cause
      urgency := some (s.programs.get q.program).urgency, key := some (s.programs.get q.program).key
      startNo := some s.nextStart, current := none, countEnd := none, untimed := 0, lastTransfer := false, checks := {}
      slotWaitAt := none, lastTaken := none }) g]
  rfl

/-- A program whose first step is a WAIT rests there. -/
theorem State.begun_wait {k : Fin 128} (ha : (s.steps.get k).action = .wait) (hc : 0 < (s.steps.get k).count) (n : Nat) :
    (s.begun r q).work r (n + 1) (.step k.val true) = (s.begun r q).modRunner r fun y => { y with
      current := some k.val, lastTaken := some k.val, countEnd := some (s.now + (s.steps.get k).count) } := by
  have hstep := (s.begun r q).atStep_wait (r := r) (k := k) (p := q.program) (own := q.zone) (by rw [begun_runner])
    (by rw [begun_runner]) ha hc true
  rw [work_succ (w := .step k.val true) nofun]
  show ((s.begun r q).atStep r k.val true).1.work r n ((s.begun r q).atStep r k.val true).2 = _
  rw [hstep]
  dsimp only
  rw [work_rest]
  refine modRunner_congr ?_
  rw [begun_runner]
  rfl

end work

/-! ## What becomes of a start (R156, R157, R159) -/

section starts
variable {s : State} {r : RunnerNo} {q : StartReq} {p : ProgNo} {z : ZoneNo}

theorem State.runnerOf_some (h : (s.runners.get r).state ≠ .idle ∧ (s.runners.get r).program = some p ∧
    (s.runners.get r).zone = some z) (hfirst : ∀ w < r, ¬((s.runners.get w).state ≠ .idle ∧
      (s.runners.get w).program = some p ∧ (s.runners.get w).zone = some z)) : s.runnerOf p z = some r :=
  firstOf_eq_some.mpr ⟨by simp [Runner.running, h], fun w hw => by simpa [Runner.running, and_assoc] using hfirst w hw⟩

theorem State.runnerOf_none (h : ∀ r, ¬((s.runners.get r).state ≠ .idle ∧ (s.runners.get r).program = some p ∧
    (s.runners.get r).zone = some z)) : s.runnerOf p z = none :=
  firstOf_eq_none_iff.mpr fun w => by simpa [Runner.running, and_assoc] using h w

theorem State.queuedPair_iff : s.queuedPair p z = true ↔ ∃ e ∈ s.startQueue, e.req.program = p ∧ e.req.zone = z := by
  simp [queuedPair]

theorem State.apuTake_undefined (hm : s.slp.mode = .run) (hd : (s.programs.get q.program).defined = false) :
    s.apuTake q = (s.reportDropped q .undefined, .dropped) :=
  (if_neg (by rw [hm]; nofun)).trans (if_pos hd)

section taken
variable (hm : s.slp.mode = .run) (hd : (s.programs.get q.program).defined = true)
include hm hd

theorem State.apuTake_running (hr : s.runnerOf q.program q.zone = some r) :
    s.apuTake q = (s.reportMerged q (some r), .merged) := by
  unfold apuTake
  rw [if_neg (by rw [hm]; nofun), if_neg (by simp [hd]), hr]

theorem State.apuTake_queued (hr : s.runnerOf q.program q.zone = none) (hq : s.queuedPair q.program q.zone = true) :
    s.apuTake q = (s.reportMerged q none, .merged) := by
  unfold apuTake
  rw [if_neg (by rw [hm]; nofun), if_neg (by simp [hd]), hr]
  exact if_pos hq

theorem State.apuTake_new (hr : s.runnerOf q.program q.zone = none) (hq : ¬s.queuedPair q.program q.zone = true) :
    s.apuTake q = s.placeRequest q := by
  unfold apuTake
  rw [if_neg (by rw [hm]; nofun), if_neg (by simp [hd]), hr]
  exact if_neg hq

end taken

theorem State.placeRequest_idle (h : (s.runners.get r).state = .idle) (hfirst : ∀ w < r, (s.runners.get w).state ≠ .idle) :
    s.placeRequest q = (s.startOn r q, .started r) := by
  have hr : (firstOf 4 fun r => !(s.runners.get r).running) = some r :=
    firstOf_eq_some.mpr ⟨by simp [Runner.running, h], fun w hw => by simpa [Runner.running] using hfirst w hw⟩
  unfold placeRequest
  rw [hr]

/-- Every runner runs an urgency-7 program. -/
theorem State.runnerToTake_none (h : ∀ r, (s.runners.get r).urgency = some 7) : s.runnerToTake = none := by
  have hnone : thoseOf 4 (fun r => (s.runners.get r).running && decide ((s.runners.get r).urgency.getD 7 < 7)) = [] :=
    List.eq_nil_iff_forall_not_mem.mpr fun w hw => by simp [mem_thoseOf, h] at hw
  unfold runnerToTake
  rw [hnone]; rfl

section allRun
variable (hrun : ∀ r, (s.runners.get r).state ≠ .idle)
include hrun

theorem State.firstIdle_none : (firstOf 4 fun r => !(s.runners.get r).running) = none :=
  firstOf_eq_none_iff.mpr fun w => by simpa [Runner.running] using hrun w

theorem State.placeRequest_preempts (hu : (s.programs.get q.program).urgency = 7) (hr : s.runnerToTake = some r) :
    s.placeRequest q = ((s.cutShort r .preempted).startOn r q, .started r) := by
  unfold placeRequest
  rw [firstIdle_none hrun, if_pos hu, hr]

theorem State.placeRequest_queues (hr : (s.programs.get q.program).urgency ≠ 7 ∨ s.runnerToTake = none) :
    s.placeRequest q = s.queueStart q := by
  have hnone : (if (s.programs.get q.program).urgency = 7 then s.runnerToTake else none) = none := by
    rcases hr with h | h
    · exact if_neg h
    · rw [h, ite_self]
  unfold placeRequest
  rw [firstIdle_none hrun, hnone]

/-- The run that gives way to an urgency-7 start: the least urgent, and among equals the latest. -/
theorem State.runnerToTake_some {u n : RunnerNo → Nat}
    (h : ∀ w, (s.runners.get w).urgency = some (u w) ∧ (s.runners.get w).startNo = some (n w)) (hlow : u r < 7)
    (hr : ∀ w, w ≠ r → u r < u w ∨ u w = u r ∧ n w < n r) : s.runnerToTake = some r := by
  have hleft (w : RunnerNo) : s.sooner r w = r := by
    unfold sooner
    simp only [h, Option.getD_some]
    by_cases hw : w = r
    · rw [hw, ite_self]
    · exact if_neg (by have := hr w hw; omega)
  have hright (w : RunnerNo) : s.sooner w r = r := by
    unfold sooner
    simp only [h, Option.getD_some]
    by_cases hw : w = r
    · rw [hw, ite_self]
    · exact if_pos (by have := hr w hw; omega)
  have hstay (l : List RunnerNo) : l.foldl (fun best w => some (best.elim w fun b => s.sooner b w)) (some r) = some r := by
    induction l with
    | nil => rfl
    | cons w l ih => rw [List.foldl_cons, Option.elim_some, hleft]; exact ih
  have hreach (l : List RunnerNo) : ∀ b, r ∈ l → l.foldl (fun best w => some (best.elim w fun b => s.sooner b w)) b = some r := by
    induction l with
    | nil => intro b hb; cases hb
    | cons w l ih =>
      intro b hb
      rcases List.mem_cons.mp hb with rfl | hb
      · rw [List.foldl_cons]
        have hone : (some (b.elim r fun b => s.sooner b r)) = some r := by
          cases b with
          | none => rfl
          | some b => exact congrArg some (hright b)
        rw [hone]; exact hstay l
      · exact ih _ hb
  exact hreach _ none (mem_thoseOf.mpr (by simp [Runner.running, hrun r, h, hlow]))

end allRun

/-! ### The start queue (R159) -/

theorem placeStart_split {e : QueuedStart} {before after : List QueuedStart} (hb : ∀ x ∈ before, e.urgency ≤ x.urgency)
    (ha : ∀ x ∈ after, x.urgency < e.urgency) : placeStart (before ++ after) e = before ++ e :: after := by
  have htake : (before ++ after).takeWhile (fun x => e.urgency ≤ x.urgency) = before := by
    rw [List.takeWhile_append_of_pos (by simpa using hb)]
    cases after with
    | nil => simp
    | cons y l => rw [List.takeWhile_cons_of_neg (by simpa using ha y (by simp)), List.append_nil]
  have hdrop : (before ++ after).dropWhile (fun x => e.urgency ≤ x.urgency) = after := by
    rw [List.dropWhile_append_of_pos (by simpa using hb)]
    cases after with
    | nil => rfl
    | cons y l => exact List.dropWhile_cons_of_neg (by simpa using ha y (by simp))
  unfold placeStart
  rw [htake, hdrop]

theorem State.queueStart_room (hq : s.startQueue.length < 16) : s.queueStart q =
    ({ s with startQueue := placeStart s.startQueue ⟨q, (s.programs.get q.program).urgency, s.now⟩ }, .queued) := if_pos hq

theorem State.queueStart_full (hq : 16 ≤ s.startQueue.length)
    (h : ∀ e ∈ s.startQueue, (s.programs.get q.program).urgency ≤ e.urgency) :
    s.queueStart q = (s.reportDropped q .queueFull, .full) := by
  refine (if_neg (Nat.not_lt.mpr hq)).trans ?_
  split
  · rfl
  · next x hx =>
    exact if_neg (Nat.not_lt.mpr (h x (List.mem_of_getLast? hx)))

theorem State.queueStart_displaces {init : List QueuedStart} {last : QueuedStart} (hq : 16 ≤ s.startQueue.length)
    (hl : s.startQueue = init ++ [last]) (hu : last.urgency < (s.programs.get q.program).urgency) : s.queueStart q =
      (({ s with startQueue := placeStart init ⟨q, (s.programs.get q.program).urgency, s.now⟩ } : State).reportDropped last.req
        .displaced, .queued) := by
  refine (if_neg (Nat.not_lt.mpr hq)).trans ?_
  rw [hl, List.getLast?_concat]
  dsimp only
  rw [if_pos hu]
  show (({ s.reportDropped last.req .displaced with startQueue := placeStart s.startQueue.dropLast _ } : State), _) = _
  rw [hl, List.dropLast_concat]
  rfl

end starts

/-- Settles O54. -/
theorem startProgram : Obligations.StartProgram := by
  unfold Obligations.StartProgram
  refine ⟨fun s q => ?bound, fun s tag hs => ⟨fun n m hbad => ?outside, fun p z => ?request⟩⟩
  case bound =>
    intro after runs mine queued x
    refine ⟨fun qs => rfl, fun hno => ⟨State.settle_nil hno, fun hm => sendStart_loading hm hno, fun hm hd => ?_, fun hm hd => ?_⟩⟩
    · have htake := State.apuTake_undefined hm hd
      exact (sendStart_single hno (by rw [htake]; exact hno)).trans (by rw [htake])
    · have hsingle (t : State) (o : StartOutcome) (htake : s.apuTake q = (t, o)) (ht : t.handOffs = []) : after = t :=
        (sendStart_single hno (by rw [htake]; exact ht)).trans (by rw [htake])
      refine ⟨fun r hr hfirst => hsingle _ _ (State.apuTake_running hm hd (State.runnerOf_some hr hfirst)) hno, fun hr hq =>
        hsingle _ _ (State.apuTake_queued hm hd (State.runnerOf_none hr) (State.queuedPair_iff.mpr hq)) hno,
        fun hr hq r hidle hfirst ht => hsingle _ (.started r) ?_ ht⟩
      rw [State.apuTake_new hm hd (State.runnerOf_none hr) (mt State.queuedPair_iff.mp hq),
        State.placeRequest_idle (not_not.mp hidle) hfirst]
  case outside =>
    refine exec_refused hs (r := .startProgram n m) (x := .badValue) rfl ?_
    have hnone : index? 32 n = none ∨ index? 16 m = none := by
      rw [index?_eq_none, index?_eq_none]; omega
    show s.doStartProgram n m = _
    unfold State.doStartProgram
    rcases hnone with h | h <;> rw [h]
    cases index? 32 n <;> rfl
  case request =>
    intro i x q runs mine absent queued entry on
    have hdo : s.doStartProgram (number p) (number z) = if s.slp.mode = .loading then s.refuse .wrongMode
        else if absent then s.refuse .notFound else startAnswer (s.apuTake q).1.settle (s.apuTake q).2 := by
      unfold State.doStartProgram
      rw [index?_number, index?_number]
    refine ⟨fun hm => exec_refused hs (r := .startProgram _ _) (x := .wrongMode) rfl (hdo.trans (if_pos hm)), fun hm ha =>
      exec_refused hs (r := .startProgram _ _) (x := .notFound) rfl (hdo.trans ((if_neg (by rw [hm]; nofun)).trans (if_pos ha))),
      fun hm ha hno => ?_⟩
    have hd : x.defined = true := Bool.not_eq_false _ |>.mp fun h => ha (.inl h)
    have htaken {t : State} {o : StartOutcome} (h : s.apuTake q = (t, o)) :
        s.doStartProgram (number p) (number z) = startAnswer t.settle o := by
      rw [hdo, if_neg (by rw [hm]; nofun), if_neg ha, h]
    have hquiet {t : State} {o : StartOutcome} (h : s.apuTake q = (t, o)) (ht : t.handOffs = s.handOffs) :
        s.doStartProgram (number p) (number z) = startAnswer t o := by
      rw [htaken h, State.settle_nil (ht.trans hno)]
    refine ⟨fun r hr hfirst => ?_, fun hr hq => ?_, fun hr hq => ?_⟩
    · exact exec_replied hs (r := .startProgram _ _) rfl
        (hquiet (State.apuTake_running hm hd (State.runnerOf_some hr hfirst)) rfl)
    · exact exec_replied hs (r := .startProgram _ _) rfl
        (hquiet (State.apuTake_queued hm hd (State.runnerOf_none hr) (State.queuedPair_iff.mpr hq)) rfl)
    have hnew : s.apuTake q = s.placeRequest q :=
      State.apuTake_new hm hd (State.runnerOf_none hr) (mt State.queuedPair_iff.mp hq)
    refine ⟨fun r hidle hfirst => ?_, fun hrun => ⟨fun r u n h7 hun hlow hleast => ?_, fun hplace => ?_⟩⟩
    · have hon := htaken (hnew.trans (State.placeRequest_idle (not_not.mp hidle) hfirst))
      refine ⟨exec_replied hs (r := .startProgram _ _) rfl hon, fun k st hk hst hwait hcount => ?_⟩
      subst hst
      have hstart : s.startOn r q = (s.begun r q).modRunner r fun y => { y with
          current := some k.val, lastTaken := some k.val, countEnd := some (s.now + (s.steps.get k).count) } := by
        rw [State.startOn_eq, show (s.programs.get q.program).first = k.val from hk]
        exact State.begun_wait hwait hcount 399
      refine exec_replied hs (r := .startProgram _ _) rfl (hon.trans ?_)
      rw [hstart, State.settle_nil (by exact hno), State.begun_modRunner]
      rfl
    · exact exec_replied hs (r := .startProgram _ _) rfl
        (htaken (hnew.trans (State.placeRequest_preempts hrun h7 (State.runnerToTake_some hrun hun hlow hleast))))
    · have hqueue : s.apuTake q = s.queueStart q := hnew.trans (State.placeRequest_queues hrun
        (hplace.imp id fun h => State.runnerToTake_none h))
      refine ⟨fun hroom before after hsplit hb haf => ?_, fun hfull hall => ?_, fun hfull before after last hsplit hu hb haf => ?_⟩
      · have hplaced : placeStart s.startQueue entry = before ++ entry :: after := by
          rw [hsplit]; exact placeStart_split hb haf
        exact exec_replied hs (r := .startProgram _ _) rfl
          ((hquiet (hqueue.trans (State.queueStart_room hroom)) rfl).trans (by rw [hplaced]; rfl))
      · exact exec_of_answer hs (r := .startProgram _ _) rfl (hquiet (hqueue.trans (State.queueStart_full hfull hall)) rfl)
      · have hplaced : placeStart (before ++ after) entry = before ++ entry :: after := placeStart_split hb haf
        exact exec_replied hs (r := .startProgram _ _) rfl
          ((hquiet (hqueue.trans (State.queueStart_displaces hfull hsplit hu)) rfl).trans (by rw [hplaced]; rfl))

end Sys2Proof.Machine
end


section
/-! PROOFS. The statement on the ends of programs: heads of the start queue, cancels, counts and waits that end (R158, R160, R165, R166). -/

namespace Sys2Proof.Machine

/-! ## The heads of the start queue (R158) -/

section heads
variable {s : State} {r : RunnerNo}

theorem State.takeHead_none (h : s.startQueue = []) : s.takeHead r = (s, .rest) := by unfold takeHead; rw [h]

theorem State.takeHead_undefined {q : QueuedStart} {rest : List QueuedStart} (h : s.startQueue = q :: rest)
    (hd : (s.programs.get q.req.program).defined = false) :
    s.takeHead r = (({ s with startQueue := rest } : State).reportDropped q.req .undefined, .head) := by
  unfold takeHead
  rw [h]
  exact if_neg (by rw [hd]; nofun)

theorem State.takeHead_defined {q : QueuedStart} {rest : List QueuedStart} (h : s.startQueue = q :: rest)
    (hd : (s.programs.get q.req.program).defined = true) : s.takeHead r =
      (({ s with startQueue := rest } : State).begun r q.req, .step (s.programs.get q.req.program).first true) := by
  unfold takeHead
  rw [h]
  exact if_pos hd

/-- The heads of the queue that are dropped, with the entries that are left. -/
def State.without (s : State) (gone rest : List QueuedStart) : State :=
  gone.foldl (fun t d => t.reportDropped d.req .undefined) ({ s with startQueue := rest } : State)

theorem State.without_keeps {α : Type} (f : State → α) (hf : ∀ (t : State) (q : StartReq), f (t.reportDropped q .undefined) = f t)
    (gone rest : List QueuedStart) : f (s.without gone rest) = f ({ s with startQueue := rest } : State) := by
  unfold without
  generalize ({ s with startQueue := rest } : State) = t
  induction gone generalizing t with
  | nil => rfl
  | cons d gone ih => exact (ih _).trans (hf t d.req)

/-- The work at the queue goes over the heads whose program is UNDEFINED. -/
theorem State.work_heads (gone rest : List QueuedStart) (n : Nat) : ∀ s : State, s.startQueue = gone ++ rest →
    (∀ d ∈ gone, (s.programs.get d.req.program).defined = false) →
    s.work r (n + gone.length) .head = (s.without gone rest).work r n .head := by
  induction gone with
  | nil =>
    intro s h _
    have hs : s.without [] rest = s := by unfold without; rw [← show s.startQueue = rest from h]; rfl
    rw [hs]; rfl
  | cons d gone ih =>
    intro s h hd
    have hhead : s.takeHead r = (({ s with startQueue := gone ++ rest } : State).reportDropped d.req .undefined, .head) :=
      takeHead_undefined h (hd d List.mem_cons_self)
    have hnext := ih (({ s with startQueue := gone ++ rest } : State).reportDropped d.req .undefined) rfl
      fun e he => hd e (List.mem_cons_of_mem d he)
    rw [List.length_cons, ← Nat.add_assoc, work_succ (w := .head) nofun]
    show (s.takeHead r).1.work r _ (s.takeHead r).2 = _
    rw [hhead]
    exact hnext

theorem State.run_head_empty (h : s.startQueue = []) : s.run r .head = s := by
  show s.work r 400 .head = s
  rw [work_succ (n := 399) (w := .head) nofun]
  show (s.takeHead r).1.work r 399 (s.takeHead r).2 = s
  rw [takeHead_none h, work_rest]

theorem State.without_queue (s : State) (gone l rest : List QueuedStart) :
    ({ s.without gone l with startQueue := rest } : State) = s.without gone rest := by
  have hfold (gone : List QueuedStart) : ∀ t : State,
      ({ gone.foldl (fun t d => t.reportDropped d.req .undefined) t with startQueue := rest } : State) =
        gone.foldl (fun t d => t.reportDropped d.req .undefined) { t with startQueue := rest } := by
    induction gone with
    | nil => exact fun _ => rfl
    | cons d gone ih => exact fun t => ih (t.reportDropped d.req .undefined)
  exact hfold gone _

/-- A head that starts, with the entries before it dropped. -/
theorem State.run_head_starts {gone rest : List QueuedStart} {q : QueuedStart} (hlen : gone.length ≤ 16)
    (h : s.startQueue = gone ++ q :: rest) (hgone : ∀ d ∈ gone, (s.programs.get d.req.program).defined = false)
    (hd : (s.programs.get q.req.program).defined = true) : s.run r .head =
      ((s.without gone rest).begun r q.req).work r (399 - gone.length) (.step (s.programs.get q.req.program).first true) := by
  have hdrop : s.run r .head = (s.without gone (q :: rest)).work r (400 - gone.length) .head := by
    have := work_heads (r := r) gone (q :: rest) (400 - gone.length) s h hgone
    rwa [Nat.sub_add_cancel (by omega)] at this
  have hprograms : (s.without gone (q :: rest)).programs = s.programs := without_keeps (fun t => t.programs) (fun _ _ => rfl) ..
  have hqueue : (s.without gone (q :: rest)).startQueue = q :: rest := without_keeps (fun t => t.startQueue) (fun _ _ => rfl) ..
  rw [hdrop, show 400 - gone.length = (399 - gone.length) + 1 by omega, work_succ (w := .head) nofun]
  show ((s.without gone (q :: rest)).takeHead r).1.work r _ ((s.without gone (q :: rest)).takeHead r).2 = _
  rw [takeHead_defined hqueue (by rw [hprograms]; exact hd), without_queue, hprograms]

end heads

/-! ## The end of a run (R165) -/

section ends
variable {s : State} {r : RunnerNo} {reason : EndReason} {next : Option Nat} {residual : Nat}

theorem State.leaves_keeps {α : Type} (f : State → α) (hsig : ∀ (t : State) (g : SigNo) (h : Signal → Signal), f (t.modSignal g h) = f t)
    (hst : ∀ (t : State) (n : StationNo) (h : Station → Station), f (t.modStation n h) = f t) :
    f ((s.leaveDrivers r).forEach (allOf 4) fun t n => t.leaveStrobe n r) = f s :=
  (forEach_keeps f (f := fun t n => t.leaveStrobe n r) (fun t n => hst t n _) _ _).trans
    (forEach_keeps f (f := fun t g => t.changeDrivers g (leaveRunner r)) (fun t g => hsig t g _) _ _)

/-- A run ends with no request waiting at the trunk. -/
theorem State.endRun_idle {p : ProgNo} {z : ZoneNo} {c : StartCause} (hp : (s.runners.get r).program = some p)
    (hz : (s.runners.get r).zone = some z) (hc : (s.runners.get r).cause = some c) (hq : s.trunk.queue = []) :
    s.endRun r reason next residual =
      (({ (s.leaveDrivers r).forEach (allOf 4) (fun t n => t.leaveStrobe n r) with
        trunk := { s.trunk with held := s.trunk.held.filter fun y => y.holder != .runner r } } : State).modRunner r fun _ =>
          { untimed := (s.runners.get r).untimed, lastTransfer := (s.runners.get r).lastTransfer
            checks := (s.runners.get r).checks
            record := some ⟨p, z, c, reason, (s.runners.get r).lastTaken, next, residual, (s.runners.get r).checks⟩ }).reportProgramEnd
            r ⟨p, z, c, reason, (s.runners.get r).lastTaken, next, residual, (s.runners.get r).checks⟩ := by
  generalize hl : (s.leaveDrivers r).forEach (allOf 4) (fun t n => t.leaveStrobe n r) = left
  have htrunk : left.trunk = s.trunk := by rw [← hl]; exact leaves_keeps (fun t => t.trunk) (fun _ _ _ => rfl) fun _ _ _ => rfl
  have hrunners : left.runners = s.runners := by
    rw [← hl]; exact leaves_keeps (fun t => t.runners) (fun _ _ _ => rfl) fun _ _ _ => rfl
  have hgive : left.giveUp (.runner r) =
      { left with trunk := { s.trunk with held := s.trunk.held.filter fun y => y.holder != .runner r } } := by
    rw [giveUp_idle (by rw [htrunk]; exact hq)]
    unfold modTrunk
    rw [htrunk]
  unfold endRun
  dsimp only
  rw [hp, hz, hc, hl]
  dsimp only
  rw [hgive]
  refine congrArg (fun t : State => t.reportProgramEnd r _) (modRunner_congr ?_)
  show Runner.idled (left.runners.get r) _ = _
  rw [hrunners]
  rfl

theorem State.endRun_queues (hq : s.trunk.queue = []) : (s.endRun r reason next residual).startQueue = s.startQueue ∧
    (s.endRun r reason next residual).handOffs = s.handOffs := by
  have hleft := fun (f : State → List QueuedStart × List StartReq) h h' => s.leaves_keeps (r := r) f h h'
  have hkeep := hleft (fun t => (t.startQueue, t.handOffs)) (fun _ _ _ => rfl) fun _ _ _ => rfl
  by_cases h : (∃ p, (s.runners.get r).program = some p) ∧ (∃ z, (s.runners.get r).zone = some z) ∧
      ∃ c, (s.runners.get r).cause = some c
  · obtain ⟨⟨p, hp⟩, ⟨z, hz⟩, c, hc⟩ := h
    rw [endRun_idle hp hz hc hq]
    exact ⟨congrArg Prod.fst hkeep, congrArg Prod.snd hkeep⟩
  · have hstays : s.endRun r reason next residual = s := by
      unfold endRun
      dsimp only
      split
      · next p z c hp hz hc => exact absurd ⟨⟨p, hp⟩, ⟨z, hz⟩, c, hc⟩ h
      · rfl
    rw [hstays]
    exact ⟨rfl, rfl⟩

/-- The event is over when a run has ended with nothing queued, nothing held back and nothing waiting at the trunk. -/
theorem State.endRun_settled (hs : s.startQueue = []) (hh : s.handOffs = []) (hq : s.trunk.queue = []) :
    ((s.endRun r reason next residual).run r .head).settle = s.endRun r reason next residual := by
  obtain ⟨hstart, hoffs⟩ := s.endRun_queues (r := r) (reason := reason) (next := next) (residual := residual) hq
  rw [run_head_empty (hstart.trans hs), settle_nil (hoffs.trans hh)]

/-- A run cut short: the step that would follow, and the units of its count still to run. -/
theorem State.cutShort_between (h : (s.runners.get r).current = none) : s.cutShort r reason = s.endRun r reason none 0 := by
  unfold cutShort residual
  dsimp only
  rw [h]
  rfl

theorem countUnit_eq (a : Action) : countUnit a = if a = .sound ∨ a = .strobe then 5 else if a = .announce then 10 else 1 := by
  cases a <;> rfl

theorem State.cutShort_at {k : Fin 128} (h : (s.runners.get r).current = some k.val) : s.cutShort r reason =
    s.endRun r reason (nextStep k.val (s.steps.get k) true) (s.residual (s.runners.get r)) := by
  unfold cutShort
  dsimp only
  rw [h, Option.bind_some, stepAt_val]
  rfl

theorem State.residual_counting {x : Runner} {k : Fin 128} {t : Time} (h : x.current = some k.val) (ht : x.countEnd = some t) :
    s.residual x = (t - s.now + countUnit (s.steps.get k).action - 1) / countUnit (s.steps.get k).action := by
  unfold State.residual
  rw [h, Option.bind_some, stepAt_val, ht]
  rfl

theorem State.residual_waiting {x : Runner} {k : Fin 128} (h : x.current = some k.val) (ht : x.countEnd = none) :
    s.residual x = if x.state = .slotWait then (s.steps.get k).count else 0 := by
  unfold State.residual
  rw [h, Option.bind_some, stepAt_val, ht]

/-! ### A count that ends (R160, R161) -/

theorem State.reportCallNow_runners (s : State) (id : Nat) (prev : Option CallState) (cause : CallCause) :
    (s.reportCallNow id prev cause).runners = s.runners := by
  unfold reportCallNow; cases s.callOf id <;> rfl

theorem State.csGranted_runners (s : State) (id : Nat) (c : SlotNo) : (s.csGranted id c).runners = s.runners := by
  unfold csGranted
  split
  · exact reportCallNow_runners ..
  · exact reportCallNow_runners ..
  · rfl

/-- A grant changes no check of a runner. -/
theorem State.granted_checks (h : Holder) (c : SlotNo) : ((s.granted h c).runners.get r).checks = (s.runners.get r).checks := by
  cases h with
  | call id =>
    show ((s.csGranted id c).runners.get r).checks = _
    rw [csGranted_runners]
  | burst v => rfl
  | runner q =>
    show ((s.playStart q).runners.get r).checks = _
    simp only [playStart, modRunner_runners, get_set_entry]
    split
    · next h => rw [h]
    · rfl

theorem State.releaseSlot_checks (h : Holder) : ((s.releaseSlot h).runners.get r).checks = (s.runners.get r).checks := by
  have hgrant (c : SlotNo) (l : List Waiting) : ∀ t : State, ((t.grantHead c l).runners.get r).checks = (t.runners.get r).checks := by
    induction l with
    | nil => intro t; rfl
    | cons w l ih =>
      intro t
      unfold grantHead
      split
      · exact granted_checks ..
      · exact ih t
  unfold releaseSlot
  split
  · rfl
  · unfold slotFreed
    split
    · exact hgrant ..
    · rfl

theorem State.countEnds_eq {k : Fin 128} {t : State} {w : Work} (h : (s.runners.get r).current = some k.val)
    (hgo : ((s.modRunner r fun x => { x with countEnd := none }).endAction r (s.steps.get k)).goOn r k.val (s.steps.get k) true =
      (t, w)) : s.countEnds r = (t.run r w).settle := by
  unfold countEnds
  rw [h]
  dsimp only
  rw [stepAt_val]
  dsimp only
  rw [hgo]

/-- What a step leaves when its count ends (R161). -/
theorem State.endAction_wait {st : Step} (h : st.action = .wait) : s.endAction r st = s := by unfold endAction; rw [h]

theorem State.endAction_sound {st : Step} {g : SigNo} (h : st.action = .sound) (hg : number g = st.item) :
    s.endAction r st = s.changeDrivers g (leaveRunner r) := by
  unfold endAction; rw [h, index?_eq_some_iff.mpr hg]; rfl

theorem State.endAction_strobe {st : Step} {n : StationNo} (h : st.action = .strobe) (hn : number n = st.item) :
    s.endAction r st = s.modStation n fun y => { y with strobe := y.strobe.filter fun q => q != r } := by
  unfold endAction; rw [h, index?_eq_some_iff.mpr hn]; rfl

theorem State.endAction_announce {st : Step} (h : st.action = .announce) : s.endAction r st = s.releaseSlot (.runner r) := by
  unfold endAction; rw [h]

theorem nextStep_passed (i : Nat) (st : Step) : nextStep i st true =
    if st.action = .transfer then some st.item else if st.chain = true then some (i + 1) else none := by
  have hno : ¬(st.action = .test ∧ true = false) := by simp
  rw [nextStep_eq, if_neg hno]

section counted
variable {k : Fin 128} {t : State} (h : (s.runners.get r).current = some k.val)
  (ht : (s.modRunner r fun x => { x with countEnd := none }).endAction r (s.steps.get k) = t)
include h ht

theorem State.countEnds_failed (hd : (t.runners.get r).checks.data = true) :
    s.countEnds r = ((t.endRun r .dataCheck (nextStep k.val (s.steps.get k) true) 0).run r .head).settle :=
  countEnds_eq h (by rw [ht]; exact goOn_failed hd)

theorem State.countEnds_next {j : Nat} (hd : (t.runners.get r).checks.data = false)
    (hj : nextStep k.val (s.steps.get k) true = some j) : s.countEnds r = (t.run r (.step j false)).settle :=
  countEnds_eq h (by rw [ht]; exact goOn_next hd hj)

theorem State.countEnds_last (hd : (t.runners.get r).checks.data = false)
    (hj : nextStep k.val (s.steps.get k) true = none) :
    s.countEnds r = ((t.endRun r .normal none 0).run r .head).settle :=
  countEnds_eq h (by rw [ht]; exact goOn_last hd hj)

end counted

end ends

/-- Settles O55. -/
theorem programEnds : Obligations.ProgramEnds := by
  unfold Obligations.ProgramEnds
  refine ⟨fun s r => ?heads, fun s tag hs => ⟨fun k hk => ?badRunner, fun n m hbad => ?badPair, fun r => ?cancelRunner,
    fun p z => ?cancelPair⟩, fun s r hs => ?expiries, fun s r reason => ?cut, fun s r reason next residual p z c => ?ended⟩
  case heads =>
    intro begun without
    have hbegun (u : State) (q : StartReq) (hp : u.programs = s.programs) (hn : u.nextStart = s.nextStart) :
        u.begun r q = begun u q := by
      unfold State.begun
      rw [hp, hn]
    refine ⟨fun h => ⟨State.takeHead_none h, State.run_head_empty h⟩, fun q rest h => ⟨State.takeHead_undefined h,
      State.takeHead_defined h⟩, fun gone hlen hgone => ⟨fun h => ?_, fun q rest h hd => ?_⟩, fun n w hw => State.work_succ hw n,
      fun n => State.work_rest s r n, fun w => rfl, rfl, fun i first => rfl⟩
    · have hdrop := State.work_heads (r := r) gone [] (400 - gone.length) s (by rw [h, List.append_nil]) hgone
      rw [Nat.sub_add_cancel (by omega), show 400 - gone.length = (399 - gone.length) + 1 by omega,
        State.work_succ (w := .head) nofun] at hdrop
      refine hdrop.trans ?_
      show ((s.without gone []).takeHead r).1.work r _ ((s.without gone []).takeHead r).2 = _
      rw [State.takeHead_none (State.without_keeps (fun t => t.startQueue) (fun _ _ => rfl) gone []), State.work_rest]
      rfl
    · intro x on
      have hon : (s.without gone rest).begun r q.req = on :=
        hbegun _ _ (State.without_keeps (fun t => t.programs) (fun _ _ => rfl) ..)
          (State.without_keeps (fun t => t.nextStart) (fun _ _ => rfl) ..)
      have hrun := State.run_head_starts (r := r) hlen h hgone hd
      refine ⟨⟨399 - gone.length, by omega, by rw [hrun, hon]⟩, fun k hk hwait hcount => ?_⟩
      have hsteps : (s.without gone rest).steps = s.steps := State.without_keeps (fun t => t.steps) (fun _ _ => rfl) ..
      have hnow : (s.without gone rest).now = s.now := State.without_keeps (fun t => t.now) (fun _ _ => rfl) ..
      rw [hrun, show (s.programs.get q.req.program).first = k.val from hk,
        show 399 - gone.length = (398 - gone.length) + 1 by omega,
        State.begun_wait (by rw [hsteps]; exact hwait) (by rw [hsteps]; exact hcount), hon, hsteps, hnow]
  case badRunner =>
    refine exec_refused hs (r := .cancelRunner k) (x := .badValue) rfl ?_
    show s.doCancelRunner k = _
    unfold State.doCancelRunner
    rw [index?_eq_none.mpr hk]
  case badPair =>
    refine exec_refused hs (r := .cancelPair n m) (x := .badValue) rfl ?_
    have hnone : index? 32 n = none ∨ index? 16 m = none := by
      rw [index?_eq_none, index?_eq_none]; omega
    show s.doCancelPair n m = _
    unfold State.doCancelPair
    rcases hnone with h | h <;> rw [h]
    cases index? 32 n <;> rfl
  case cancelRunner =>
    intro i
    have hdo : s.doCancelRunner (number r) =
        if (s.runners.get r).running = true then (s.cancelRun r).accept else s.refuse .notFound := by
      unfold State.doCancelRunner
      rw [index?_number]
    have hrunning : (s.runners.get r).running = true ↔ (s.runners.get r).state ≠ .idle := by simp [Runner.running]
    refine ⟨fun h => exec_refused hs (r := .cancelRunner _) (x := .notFound) rfl
      (hdo.trans (if_neg (by rw [hrunning]; exact not_not.mpr h))), fun h => ?_⟩
    have hcancel : exec i s = .next (((s.cutShort r .cancelled).run r .head).settle.answered tag [0x25, 0x00]) :=
      exec_accepted hs (r := .cancelRunner _) rfl (hdo.trans (if_pos (hrunning.mpr h)))
    refine ⟨hcancel, fun hq hh ht => ?_⟩
    rw [hcancel, State.cutShort, State.endRun_settled hq hh ht]
  case cancelPair =>
    intro i
    have hdo : s.doCancelPair (number p) (number z) = (s.runnerOf p z).elim
        (if s.queuedPair p z = true then (s.cancelQueued p z).accept else s.refuse .notFound) fun r => (s.cancelRun r).accept := by
      unfold State.doCancelPair
      rw [index?_number, index?_number]
      dsimp only
      cases s.runnerOf p z <;> rfl
    refine ⟨fun r hr => exec_accepted hs (r := .cancelPair _ _) rfl (hdo.trans (by rw [hr]; rfl)),
      fun hr before after e hsplit hp hz hothers => exec_accepted hs (r := .cancelPair _ _) rfl (hdo.trans ?_), fun hr hno =>
      exec_refused hs (r := .cancelPair _ _) (x := .notFound) rfl (hdo.trans ?_)⟩
    · rw [hr, Option.elim_none, if_pos (State.queuedPair_iff.mpr ⟨e, by simp [hsplit], hp, hz⟩)]
      have hbefore : ∀ y ∈ before, ¬(y.req.program = p ∧ y.req.zone = z) := fun y hy => hothers y (List.mem_append_left _ hy)
      have hafter : ∀ y ∈ after, ¬(y.req.program = p ∧ y.req.zone = z) := fun y hy => hothers y (List.mem_append_right _ hy)
      have hfind : (s.startQueue.find? fun q => q.req.program == p && q.req.zone == z) = some e := by
        rw [hsplit, List.find?_append, List.find?_eq_none.mpr fun y hy => by simpa using hbefore y hy]
        simp [hp, hz]
      have hkeep {l : List QueuedStart} (hl : ∀ y ∈ l, ¬(y.req.program = p ∧ y.req.zone = z)) :
          (l.filter fun q => q.req.program != p || q.req.zone != z) = l :=
        List.filter_eq_self.mpr fun y hy => by simpa [imp_iff_not_or] using hl y hy
      have hfilter : (s.startQueue.filter fun q => q.req.program != p || q.req.zone != z) = before ++ after := by
        rw [hsplit, List.filter_append, List.filter_cons_of_neg (by simp [hp, hz]), hkeep hbefore, hkeep hafter]
      unfold State.cancelQueued
      rw [hfind, hfilter]
    · rw [hr, Option.elim_none, if_neg (fun hn => ?_)]
      obtain ⟨y, hy, h⟩ := State.queuedPair_iff.mp hn
      exact hno y hy h
  case expiries =>
    intro x
    have hcount : exec (.stepCountEnd r) s = .next (s.expiry (s.runners.get r).countEnd fun s => s.countEnds r).beginSending :=
      congrArg Host.Outcome.next (State.event_operating hs _)
    have hwait : exec (.slotWaitExpiry r) s = .next (s.expiry (s.runners.get r).slotTimer fun s => s.slotCheck r).beginSending :=
      congrArg Host.Outcome.next (State.event_operating hs _)
    refine ⟨fun h => ?_, fun h => ?_, fun k hk => ?_, fun t ht => ⟨?_, fun k hk hw hc hd hq hh htr => ?_⟩, fun t hst ht => ?_⟩
    · rw [hcount, show (s.runners.get r).countEnd = none from h]; rfl
    · have htimer : (s.runners.get r).slotTimer = none := by
        unfold Runner.slotTimer
        rcases h with h | h
        · exact if_neg h
        · rw [show (s.runners.get r).slotWaitAt = none from h, ite_self]
      rw [hwait, htimer]; rfl
    · intro st spent goesOn
      have hgoes (t : State) (hend : spent.endAction r st = t) (ht : (t.runners.get r).checks = x.checks)
          (ha : st.action ≠ .transfer) : goesOn t := by
        have hnext : nextStep k.val st true = if st.chain then some (k.val + 1) else none := by
          rw [nextStep_passed, if_neg ha]
        refine ⟨fun hd => ?_, fun hd => ⟨fun hc => ?_, fun hc => ?_⟩⟩
        · rw [State.countEnds_failed hk hend (by rw [ht]; exact hd), hnext]
        · exact State.countEnds_next hk hend (by rw [ht]; exact hd) (hnext.trans (if_pos hc))
        · exact State.countEnds_last hk hend (by rw [ht]; exact hd) (hnext.trans (if_neg (by simp [hc])))
      have hspent : (spent.runners.get r).checks = x.checks := by rw [State.modRunner_get]
      refine ⟨fun ha => hgoes _ (State.endAction_wait ha) hspent (by rw [ha]; nofun), fun ha g hg =>
        hgoes _ (State.endAction_sound ha hg) hspent (by rw [ha]; nofun), fun ha n hn =>
        hgoes _ (State.endAction_strobe ha hn) hspent (by rw [ha]; nofun), fun ha =>
        hgoes _ (State.endAction_announce ha) ((State.releaseSlot_checks _).trans hspent) (by rw [ha]; nofun)⟩
    · rw [hcount, show (s.runners.get r).countEnd = some t from ht]; rfl
    · have hends : (s.reach t).countEnds r = (((((s.reach t).modRunner r fun y => { y with countEnd := none }).endRun r .normal
          none 0).run r .head).settle) := by
        refine State.countEnds_last (s := s.reach t) hk (State.endAction_wait hw) ?_ ?_
        · rw [State.modRunner_get]; exact hd
        · rw [nextStep_passed, if_neg (by rw [show ((s.reach t).steps.get k).action = _ from hw]; nofun)]
          exact if_neg (by rw [show ((s.reach t).steps.get k).chain = _ from hc]; nofun)
      have hsettled := State.endRun_settled (s := (s.reach t).modRunner r fun y => { y with countEnd := none }) (r := r)
        (reason := .normal) (next := none) (residual := 0) hq hh htr
      rw [hcount, show (s.runners.get r).countEnd = some t from ht, State.expiry_some, hends, hsettled]
    · intro flagged
      have hnext : exec (.slotWaitExpiry r) s = .next (((flagged.cutShort r .slotCheck).run r .head).settle).beginSending := by
        have htimer : (s.runners.get r).slotTimer = some t := (if_pos hst).trans ht
        rw [hwait, htimer]; rfl
      refine ⟨hnext, fun hq hh htr => ?_⟩
      have hsettled : ((flagged.cutShort r .slotCheck).run r .head).settle = flagged.cutShort r .slotCheck :=
        State.endRun_settled hq hh htr
      rw [hnext, hsettled]
  case cut =>
    intro x
    refine ⟨fun h => State.cutShort_between h, fun k hk => ?_⟩
    intro st next unit
    have hcut : s.cutShort r reason = s.endRun r reason next (s.residual x) := by
      rw [State.cutShort_at hk, nextStep_passed]
    refine ⟨fun t ht => ?_, fun ht => ?_⟩
    · rw [hcut, State.residual_counting hk ht, countUnit_eq]
    · rw [hcut, State.residual_waiting hk ht]
  case ended =>
    intro x hp hz hc hq left status
    exact State.endRun_idle hp hz hc hq

end Sys2Proof.Machine
end


section
/-! PROOFS. The statements on spurs and field devices: SET_SPUR and SET_DEVICE (R174, R175), and transactions (R168 to R173). -/

namespace Sys2Proof.Machine

/-! ## A device's state and its owner (R172, R173) -/

section devices
variable {s : State} {e : EntryNo} {r : DevRef} {new : DeviceState}

theorem State.handDevice_gasHead (h : (s.devices.get e).kind = .gasHead) :
    s.handDevice e = s.aruDevice sendStart (s.devices.get e).ref (s.devices.get e).state := by
  unfold handDevice; dsimp only; rw [h]

theorem State.handDevice_callPoint (h : (s.devices.get e).kind = .callPoint) : s.handDevice e = s := by
  unfold handDevice; dsimp only; rw [h]

theorem State.handDevice_beacon (h : (s.devices.get e).kind = .beacon) : s.handDevice e =
    (s.hlcBeacon (s.devices.get e).ref (s.devices.get e).state).tgBeacon sendStart (s.devices.get e).ref
      (s.devices.get e).state := by
  unfold handDevice; dsimp only; rw [h]

theorem State.handDevice_panel (h : (s.devices.get e).kind = .refugePanel) :
    s.handDevice e = s.rfmDevice (s.devices.get e).ref (s.devices.get e).state := by
  unfold handDevice; dsimp only; rw [h]

/-- What a junction keeps when its beacon is lost (R118). -/
def Junction.beaconLost (y : Junction) : Junction := { y with
  holder := if y.holder = .walk then .none else y.holder, go := if y.holder = .walk then none else y.go
  walkAt := if y.holder = .walk then none else y.walkAt, walkPending := false }

theorem endWalk_pending (y : Junction) : { endWalk y with walkPending := false } = y.beaconLost := by
  unfold endWalk Junction.beaconLost
  split
  · rfl
  · rfl

theorem State.hlcBeacon_none (h : s.beaconJunction r = none) : s.hlcBeacon r new = s := by
  unfold hlcBeacon; rw [h]

section named
variable {j : JuncNo} (hj : s.beaconJunction r = some j)
include hj

theorem State.hlcBeacon_same (h : new = .suspect ∨ new = .online ∧ (s.junctions.get j).state = .inService ∨
    (new = .offline ∨ new = .standby) ∧ (s.junctions.get j).state = .failed) : s.hlcBeacon r new = s := by
  unfold hlcBeacon
  rw [hj]
  dsimp only
  rcases h with h | ⟨h, hx⟩ | ⟨h | h, hx⟩
  · rw [h]
  · rw [h, hx]
  · rw [h, hx]
  · rw [h, hx]

theorem State.hlcBeacon_serves (h : new = .online) (hx : (s.junctions.get j).state = .failed) :
    s.hlcBeacon r new = s.serveJunction j := by
  unfold hlcBeacon
  rw [hj]
  dsimp only
  rw [h, hx]

theorem State.hlcBeacon_fails (h : new = .offline ∨ new = .standby) (hx : (s.junctions.get j).state = .inService) :
    s.hlcBeacon r new = s.failJunction j := by
  unfold hlcBeacon
  rw [hj]
  dsimp only
  rcases h with h | h
  · rw [h, hx]
  · rw [h, hx]

end named

/-- A junction whose beacon is lost, whether a claim holds it or not. -/
theorem State.failJunction_claimed {j : JuncNo} {v : VehNo} (h : (s.junctions.get j).holder = .claim v) : s.failJunction j =
    (((s.modJunction j fun y => { y with state := .failed }).abortWhole v .junctionFailed).modJunction j
      Junction.beaconLost).reportJunction j := by
  have hholder : ((s.modJunction j fun y => { y with state := .failed }).junctions.get j).holder = .claim v := by simpa using h
  unfold failJunction
  dsimp only
  rw [hholder]
  exact congrArg (fun t : State => t.reportJunction j) (modJunction_congr (endWalk_pending _))

theorem State.failJunction_unclaimed {j : JuncNo} (h : ∀ v, (s.junctions.get j).holder ≠ .claim v) : s.failJunction j =
    ((s.modJunction j fun y => { y with state := .failed }).modJunction j Junction.beaconLost).reportJunction j := by
  have hholder : ∀ v, ((s.modJunction j fun y => { y with state := .failed }).junctions.get j).holder ≠ .claim v := by
    simpa using h
  unfold failJunction
  dsimp only
  split
  · next v hv => exact absurd hv (hholder v)
  · exact congrArg (fun t : State => t.reportJunction j) (modJunction_congr (endWalk_pending _))

/-- The fetches through a beacon that is lost end (R141). -/
theorem State.tgBeacon_kept {st : Starter} (h : ¬(new = .offline ∨ new = .standby)) : s.tgBeacon st r new = s := if_neg h

/-- One burst of the loop at a lost beacon. -/
def State.beaconGone (r : DevRef) (t : State) (v : VehNo) : State :=
  (t.bursts.get v).elim t fun b => if b.inProgress = true ∧ b.outstanding.map Prod.snd = some r then
    (t.setBurst v (some (b.endedBy .beaconFailed))).tgSettle sendStart v else t

theorem State.tgBeacon_lost (h : new = .offline ∨ new = .standby) :
    s.tgBeacon sendStart r new = (List.finRange 12).foldl (beaconGone r) s := by
  refine (if_pos h).trans (congrArg (fun f => (List.finRange 12).foldl f s) (funext fun t => funext fun v => ?_))
  unfold beaconGone
  cases hb : t.bursts.get v with
  | none => rfl
  | some b =>
    have hiff : ((some b).any fun b => b.inProgress && (b.outstanding.map fun o => o.2) == some r) = true ↔
        b.inProgress = true ∧ b.outstanding.map Prod.snd = some r := by
      rw [Option.any_some, Bool.and_eq_true, beq_iff_eq]
    have hend : t.endGather v .beaconFailed = t.setBurst v (some (b.endedBy .beaconFailed)) := modBurst_of_some hb _
    simp only [hiff, hend, Option.elim_some]

/-- A panel's link (R148). -/
theorem State.rfmDevice_none (h : s.panelStation r = none) : s.rfmDevice r new = s := by unfold rfmDevice; rw [h]

section panel
variable {n : StationNo} (hn : s.panelStation r = some n)
include hn

theorem State.rfmDevice_online : s.rfmDevice r .online = s.modStation n fun y => { y with online := true } := by
  unfold rfmDevice; rw [hn]

theorem State.rfmDevice_suspect : s.rfmDevice r .suspect = s := by unfold rfmDevice; rw [hn]

theorem State.rfmDevice_lost (h : new = .offline ∨ new = .standby) : s.rfmDevice r new =
    if (s.stations.get n).online = false ∧ (s.stations.get n).door = .unknown then
      s.modStation n fun y => { y with online := false, door := .unknown }
    else (s.modStation n fun y => { y with online := false, door := .unknown }).reportRefuge n (s.stations.get n).latched
      .panelChange := by
  have hsame : samePanel (s.stations.get n) ((s.modStation n fun y => { y with online := false, door := .unknown }).stations.get
      n) = true ↔ (s.stations.get n).online = false ∧ (s.stations.get n).door = .unknown := by
    simp [samePanel, modStation, and_comm]
  unfold rfmDevice
  rw [hn]
  rcases h with h | h
  · rw [h]; simp only [hsame]
  · rw [h]; simp only [hsame]

end panel

end devices

/-! ## Standby (R174) -/

section standby
variable {s : State} {p : SpurNo}

/-- A device that takes a state which is not reported. -/
theorem State.deviceTo_quiet {e : EntryNo} {new : DeviceState} (h : new ≠ .online ∧ new ≠ .offline) :
    s.deviceTo e new 0 none =
      if (s.devices.get e).state = new then s.modDevice e fun d => { d with state := new, misses := 0 }
      else (s.modDevice e fun d => { d with state := new, misses := 0 }).handDevice e := by
  have hno : ¬(new = .online ∨ new = .offline) := not_or.mpr h
  unfold deviceTo
  dsimp only
  rw [if_neg hno]

theorem State.devicesTo_eq {new : DeviceState} (h : new ≠ .online ∧ new ≠ .offline) (s : State) (p : SpurNo) :
    s.devicesTo p new = (s.pollList p).foldl (fun t e =>
      if (t.devices.get e).state = new then t.modDevice e fun d => { d with state := new, misses := 0 }
      else (t.modDevice e fun d => { d with state := new, misses := 0 }).handDevice e) s :=
  congrArg (fun f => (s.pollList p).foldl f s) (funext fun _ => funext fun _ => deviceTo_quiet h)

theorem State.devicesTo_empty {new : DeviceState} (h : s.pollList p = []) : s.devicesTo p new = s := by
  unfold devicesTo; rw [h]; rfl

theorem polledIn_zero (x : DeviceState) : polledIn 0 x = true ↔ x ≠ .standby := by cases x <;> decide

/-- A round that begins with the counter at 0: its lowest device that is not in standby, or none. -/
theorem State.beginRound_first {before after : List EntryNo} {e : EntryNo} (hl : s.pollList p = before ++ e :: after)
    (hb : ∀ g ∈ before, (s.devices.get g).state = .standby) (he : (s.devices.get e).state ≠ .standby) :
    (s.modSpur p fun x => { x with counter := 0 }).beginRound p = s.modSpur p fun u => { u with
      counter := 0, passed := number (s.devices.get e).ref.addr, underWay := some (.poll e (s.buildPoll e)) } := by
  have hnext : ((s.modSpur p fun x => { x with counter := 0 }).modSpur p fun x => { x with passed := 0 }).nextPoll p = some e := by
    unfold nextPoll
    rw [show ((s.modSpur p fun x => { x with counter := 0 }).modSpur p fun x => { x with passed := 0 }).pollList p =
      before ++ e :: after from hl, List.find?_append, List.find?_eq_none.mpr fun g hg => ?_]
    · have hpos : 0 < number (s.devices.get e).ref.addr := Nat.pos_of_ne_zero (number_ne_zero _)
      simp [modSpur, hpos, (polledIn_zero _).mpr he]
    · have := mt (polledIn_zero (s.devices.get g).state).mp (not_not.mpr (hb g hg))
      simp [modSpur, this]
  unfold beginRound
  dsimp only
  rw [hnext]
  dsimp only [beginPoll]
  rw [modSpur_modSpur, modSpur_modSpur]
  rfl

theorem State.beginRound_nobody (hb : ∀ g ∈ s.pollList p, (s.devices.get g).state = .standby) :
    (s.modSpur p fun x => { x with counter := 0 }).beginRound p = s.modSpur p fun u => { u with
      counter := 0, passed := 31, underWay := none } := by
  have hnext : ((s.modSpur p fun x => { x with counter := 0 }).modSpur p fun x => { x with passed := 0 }).nextPoll p = none := by
    refine List.find?_eq_none.mpr fun g hg => ?_
    have := mt (polledIn_zero (s.devices.get g).state).mp (not_not.mpr (hb g hg))
    simp [modSpur, this]
  unfold beginRound
  dsimp only
  rw [hnext]
  dsimp only
  rw [modSpur_modSpur, modSpur_modSpur]

end standby

/-! ## SET_DEVICE (R175) -/

section setDevice
variable {s : State} {e : EntryNo} {old new : Device}

theorem samePlace_iff (a b : Device) : samePlace a b = true ↔ a.kind = b.kind ∧ a.ref = b.ref := by simp [samePlace]

/-- What a call point that leaves its entry leaves behind (R76, R98). -/
theorem State.pointChanged_eq (hc : old.configured = true) : s.pointChanged e old new =
    if old.kind = .callPoint then
      if new.configured = true ∧ samePlace old new = true then
        (if old.zone ≠ new.zone ∨ old.exitGate ≠ new.exitGate then s.ttPointCleared old.ref else s)
      else (s.csPointRemoved e).ttPointCleared old.ref
    else s := by
  unfold pointChanged
  rw [hc, Bool.true_and]
  by_cases hk : old.kind = .callPoint
  · rw [if_pos (by simp [hk]), if_pos hk]
    by_cases hs : new.configured = true ∧ samePlace old new = true
    · rw [if_neg (by simp [hs]), if_pos hs]
      simp only [Bool.or_eq_true, bne_iff_ne]
    · rw [if_pos (by simpa [imp_iff_not_or] using hs), if_neg hs]
  · rw [if_neg (by simp [hk]), if_neg hk]

theorem State.pointChanged_vacant (hc : old.configured = false) : s.pointChanged e old new = s := if_neg (by simp [hc])

/-- The record written, once the point of the entry has been cleared. -/
def State.entryWritten (s : State) (e : EntryNo) (old new : Device) : State :=
  (s.pointChanged e old new).modDevice e fun _ => (s.pointChanged e old new).deviceWritten old new

def State.entryMoved (s : State) (e : EntryNo) (old new : Device) : State :=
  if new.configured = true then
    { s.entryWritten e old new with voice := (s.entryWritten e old new).voice.set e (Vector.replicate 4 none) }
  else s.entryWritten e old new

/-- A device that keeps its kind, spur and address. -/
theorem State.writeDevice_stays (hc : (s.devices.get e).configured = true) (hn : new.configured = true)
    (hs : samePlace (s.devices.get e) new = true) : s.writeDevice e new = s.entryWritten e (s.devices.get e) new := by
  unfold writeDevice
  dsimp only
  rw [hc, hn, hs]
  rfl

/-- A device that is removed or changes them, and the transaction under way with it. -/
theorem State.writeDevice_moves (hc : (s.devices.get e).configured = true)
    (hs : ¬(new.configured = true ∧ samePlace (s.devices.get e) new = true)) : s.writeDevice e new =
      if (s.entryMoved e (s.devices.get e) new).busyWith (s.devices.get e).ref.spur e = true then
        ((s.entryMoved e (s.devices.get e) new).dropTransaction (s.devices.get e).ref.spur).spurNext (s.devices.get e).ref.spur
          (((s.entryMoved e (s.devices.get e) new).spurs.get (s.devices.get e).ref.spur).underWay.any Transaction.isPoll)
      else s.entryMoved e (s.devices.get e) new := by
  have hmoved : ((s.devices.get e).configured && (!new.configured || !samePlace (s.devices.get e) new)) = true := by
    rw [hc]; simpa [imp_iff_not_or] using hs
  have hvoice : (new.configured && !((s.devices.get e).configured && samePlace (s.devices.get e) new)) = true ↔
      new.configured = true := by
    rw [hc, Bool.and_eq_true]
    refine and_iff_left_of_imp fun hn => ?_
    simpa [hn] using hs
  unfold writeDevice
  dsimp only
  rw [hmoved, Bool.true_and]
  simp only [hvoice]
  rfl

theorem State.writeDevice_free (hc : (s.devices.get e).configured = false) (hn : new.configured = true) : s.writeDevice e new =
    { s.modDevice e fun _ => { new with
        state := if (s.spurs.get new.ref.spur).standby then .standby else .suspect, misses := 0, lastMiss := none, held := none }
      with voice := s.voice.set e (Vector.replicate 4 none) } := by
  have hwritten : s.deviceWritten (s.devices.get e) new = { new with
      state := if (s.spurs.get new.ref.spur).standby then .standby else .suspect, misses := 0, lastMiss := none, held := none } := by
    unfold deviceWritten
    rw [hc, hn]
    rfl
  unfold writeDevice
  dsimp only
  rw [pointChanged_vacant hc, hwritten]
  simp only [hc, hn, Bool.false_and, Bool.not_false, Bool.and_true, if_true, Bool.false_eq_true, if_false]
  rfl

theorem State.dropTransaction_poll {p : SpurNo} {c : PollCommands} (h : (s.spurs.get p).underWay = some (.poll e c)) :
    s.dropTransaction p = s.modSpur p fun u => { u with underWay := none } := by
  unfold dropTransaction; rw [h]

theorem State.dropTransaction_fetch {p : SpurNo} {f : Fetch} (h : (s.spurs.get p).underWay = some (.fetch e f)) :
    s.dropTransaction p = (s.modSpur p fun u => { u with underWay := none }).tgAnswer sendStart f .miss := by
  unfold dropTransaction; rw [h]

theorem State.dropTransaction_none {p : SpurNo} (h : (s.spurs.get p).underWay = none) : s.dropTransaction p = s := by
  unfold dropTransaction; rw [h]

theorem deviceKinds_get (k : DeviceKind) : deviceKinds[deviceKinds.idxOf k]? = some k := by cases k <;> rfl

theorem deviceWritten?_range {f : DeviceFields} {x : EntryNo × Device} (h : deviceWritten? f = some x) :
    (1 ≤ f.entry ∧ f.entry ≤ 96) ∧ f.state < 2 ∧ ((1 ≤ f.spur ∧ f.spur ≤ 8) ∧ 1 ≤ f.address ∧ f.address ≤ 31) ∧ f.kind < 4 ∧
      (f.kind = deviceKinds.idxOf .callPoint → (1 ≤ f.zone ∧ f.zone ≤ 16) ∧ f.exitGate < 2) := by
  simp only [deviceWritten?, Option.bind_eq_bind, Option.bind_eq_some_iff] at h
  obtain ⟨e, he, b, hb, k, hk, r, hr, h⟩ := h
  refine ⟨index?_range he, named_range hb, devRef?_range hr, named_range hk, fun hpoint => ?_⟩
  rw [hpoint, deviceKinds_get] at hk
  obtain rfl := Option.some.inj hk
  rw [if_pos rfl] at h
  simp only [Option.bind_eq_some_iff] at h
  obtain ⟨z, hz, g, hg, -⟩ := h
  exact ⟨index?_range hz, named_range hg⟩

theorem deviceWritten?_numbers (e : EntryNo) (cfg : Bool) (r : DevRef) (k : DeviceKind) (z : ZoneNo) (gate : Bool) :
    deviceWritten? ⟨number e, if cfg then 0 else 1, number r.spur, number r.addr, deviceKinds.idxOf k, number z,
      if gate then 0 else 1⟩ = some (e, { configured := cfg, ref := r, kind := k, zone := if k = .callPoint then some z else none
                                          exitGate := if k = .callPoint then gate else false }) := by
  simp only [deviceWritten?, index?_number, configuredStates_get, deviceKinds_get, devRef?_number, setClear_get,
    Option.bind_eq_bind, Option.bind_some, Option.pure_def]
  by_cases hk : k = .callPoint
  · simp only [if_pos hk]
  · simp only [if_neg hk]

theorem State.placeTaken_iff {r : DevRef} : s.placeTaken e r = true ↔
    ∃ a : EntryNo, a ≠ e ∧ (s.devices.get a).configured = true ∧ (s.devices.get a).ref = r := by
  simp [placeTaken, allOf, and_assoc]

end setDevice

/-- Settles O57. -/
theorem setSpurAndDevice : Obligations.SetSpurAndDevice := by
  unfold Obligations.SetSpurAndDevice
  intro devicesTo
  have hto (s : State) (p : SpurNo) {new : DeviceState} (h : new ≠ .online ∧ new ≠ .offline) :
      s.devicesTo p new = devicesTo s p new := State.devicesTo_eq h s p
  refine ⟨fun s e => ?owner, fun s r new => ?blocks, fun s e new hcfg => ?write, fun s tag f hs hbad => ?badDevice,
    fun s tag hs => ⟨fun k hk => ?badSpur, fun p => ?spur⟩, fun s tag e cfg r k z gate hs => ?device⟩
  case owner =>
    intro d faults
    refine ⟨fun hk => ⟨fun h => ?_, fun h => ?_, fun h => ?_⟩, fun hk => State.handDevice_callPoint hk,
      fun hk => State.handDevice_beacon hk, fun hk => State.handDevice_panel hk⟩
    · rw [State.handDevice_gasHead hk, show (s.devices.get e).state = .offline from h]; rfl
    · rw [State.handDevice_gasHead hk, show (s.devices.get e).state = .standby from h]; rfl
    · rw [State.handDevice_gasHead hk]
      rcases h with h | h
      · rw [show (s.devices.get e).state = .online from h]; rfl
      · rw [show (s.devices.get e).state = .suspect from h]; rfl
  case blocks =>
    intro lost names ends
    refine ⟨fun h => State.hlcBeacon_none (State.beaconJunction_eq_none h), fun j hj hfirst => ?_,
      fun h => State.tgBeacon_kept h, fun h => ?_, fun h => ?_, fun n hn => ?_⟩
    · intro x failed serves
      have hnamed := State.beaconJunction_eq_some hj hfirst
      refine ⟨fun h => State.hlcBeacon_same hnamed h, fun h hx => State.hlcBeacon_serves hnamed h hx, fun h hx =>
        ⟨fun v hv => ?_, fun hv => ?_⟩⟩
      · rw [State.hlcBeacon_fails hnamed h hx, State.failJunction_claimed hv]
        rfl
      · rw [State.hlcBeacon_fails hnamed h hx, State.failJunction_unclaimed hv]
        rfl
    · rw [State.tgBeacon_lost h]
      refine congrArg (fun f => (List.finRange 12).foldl f s) (funext fun t => funext fun v => ?_)
      unfold State.beaconGone
      cases t.bursts.get v <;> rfl
    · rcases h with h | h
      · exact State.rfmDevice_none (Option.eq_none_iff_forall_ne_some.mpr h)
      · rw [h]
        cases hn : s.panelStation r with
        | none => exact State.rfmDevice_none hn
        | some n => exact State.rfmDevice_suspect hn
    · intro x off
      refine ⟨fun h => by rw [h]; exact State.rfmDevice_online hn, fun h ho hd =>
        (State.rfmDevice_lost hn h).trans (if_pos ⟨ho, hd⟩), fun h hx => (State.rfmDevice_lost hn h).trans (if_neg fun hno => ?_)⟩
      rcases hx with hx | hx
      · rw [hno.1] at hx; cases hx
      · exact hx hno.2
  case write =>
    intro old p same cleared ids ended freed point written moved idle work
    have hsame : same = true ↔ new.configured = true ∧ samePlace old new = true := by
      simp only [same, samePlace_iff, Bool.and_eq_true, beq_iff_eq, and_assoc]
    have hpoint : s.pointChanged e old new = point := by
      rw [State.pointChanged_eq hcfg]
      have hplace : (new.configured = true ∧ samePlace (s.devices.get e) new = true) = (same = true) := propext hsame.symm
      simp only [hplace]
      rfl
    have hrecord : point.deviceWritten old new = if new.configured = false then {}
        else if same then { old with zone := new.zone, exitGate := new.exitGate }
        else { new with
          state := if (point.spurs.get new.ref.spur).standby then .standby else .suspect
          misses := 0, lastMiss := none, held := none } := by
      unfold State.deviceWritten
      by_cases hn : new.configured = false
      · rw [if_pos (by simp [hn]), if_pos hn]
      · have hn' : new.configured = true := Bool.not_eq_false _ |>.mp hn
        have hplace : (old.configured && samePlace old new) = true ↔ same = true := by
          rw [hsame, show old.configured = true from hcfg, Bool.true_and]
          exact (and_iff_right hn').symm
        rw [if_neg (by simp [hn']), if_neg hn]
        simp only [hplace]
    have hwritten : s.entryWritten e old new = written := by
      unfold State.entryWritten
      rw [hpoint, hrecord]
    have hmoved : s.entryMoved e old new = moved := by
      unfold State.entryMoved
      rw [hwritten]
    refine ⟨fun h => ?_, fun h => ?_⟩
    · obtain ⟨hn, hs⟩ := hsame.mp h
      exact (State.writeDevice_stays hcfg hn hs).trans hwritten
    · have hwrite : s.writeDevice e new = if moved.busyWith p e = true then
          (moved.dropTransaction p).spurNext p (work.any Transaction.isPoll) else moved := by
        rw [State.writeDevice_moves hcfg (fun hn => by rw [hsame.mpr hn] at h; cases h)]
        show (if (s.entryMoved e old new).busyWith p e = true then ((s.entryMoved e old new).dropTransaction p).spurNext p
          (((s.entryMoved e old new).spurs.get p).underWay.any Transaction.isPoll) else s.entryMoved e old new) = _
        rw [hmoved]
      refine ⟨fun hpoll hfetch => hwrite.trans (if_neg fun hb => ?_), fun c hc => ?_, fun f hf => ?_⟩
      · obtain ⟨t, ht, hentry⟩ := (Option.any_eq_true _ _).mp hb
        cases t with
        | poll a c => exact hpoll c (by rw [show work = _ from ht, show a = e by simpa [Transaction.entry] using hentry])
        | fetch a f => exact hfetch f (by rw [show work = _ from ht, show a = e by simpa [Transaction.entry] using hentry])
      · have hbusy : moved.busyWith p e = true := by
          unfold State.busyWith
          rw [show (moved.spurs.get p).underWay = _ from hc]
          simp [Transaction.entry]
        rw [hwrite, if_pos hbusy, State.dropTransaction_poll hc, hc]
        rfl
      · have hbusy : moved.busyWith p e = true := by
          unfold State.busyWith
          rw [show (moved.spurs.get p).underWay = _ from hf]
          simp [Transaction.entry]
        rw [hwrite, if_pos hbusy, State.dropTransaction_fetch hf, hf]
        rfl
  case badDevice =>
    have hnone : deviceWritten? f = none := Option.eq_none_iff_forall_ne_some.mpr fun x hx => by
      have := deviceWritten?_range hx; omega
    exact exec_refused hs (r := .setDevice f) (x := .badValue) rfl (by simp [State.handle, State.doSetDevice, hnone])
  case badSpur =>
    have hnone (n : Nat) : s.doSetSpur k n = s.refuse .badValue := by
      unfold State.doSetSpur
      rw [index?_eq_none.mpr hk]
    exact ⟨exec_refused hs (r := .setSpur k 0) (x := .badValue) rfl (hnone 0),
      exec_refused hs (r := .setSpur k 1) (x := .badValue) rfl (hnone 1)⟩
  case spur =>
    intro x standby active
    have hstandby : s.doSetSpur (number p) 0 = if x.standby = true then s.accept else (s.enterStandby p).accept := by
      unfold State.doSetSpur
      rw [index?_number]
      rfl
    have hactive : s.doSetSpur (number p) 1 = if x.standby = false then s.accept else (s.leaveStandby p).accept := by
      unfold State.doSetSpur
      rw [index?_number]
      rfl
    have hquiet : DeviceState.suspect ≠ .online ∧ DeviceState.suspect ≠ .offline := by decide
    have hquiet' : DeviceState.standby ≠ .online ∧ DeviceState.standby ≠ .offline := by decide
    refine ⟨fun hx => ⟨exec_accepted hs (r := .setSpur _ 0) rfl (hstandby.trans (if_pos hx)), ?_, fun hl => ?_⟩, fun hx =>
      ⟨exec_accepted hs (r := .setSpur _ 1) rfl (hactive.trans (if_pos hx)), ?_, fun hl => ?_⟩⟩
    · intro t waits
      have hleave : s.leaveStandby p = (t.modSpur p fun x => { x with counter := 0 }).beginRound p := by
        unfold State.leaveStandby
        rw [hto _ p hquiet]
      have hexec {u : State} (h : s.leaveStandby p = u) : exec active s = .next (u.answered tag [0x29, 0x00]) :=
        exec_accepted hs (r := .setSpur _ 1) rfl (hactive.trans ((if_neg (by rw [hx]; nofun)).trans (by rw [h])))
      refine ⟨fun hall => hexec (hleave.trans (State.beginRound_nobody hall)), fun before e after hl hb he =>
        hexec (hleave.trans (State.beginRound_first hl hb he))⟩
    · have hleave : s.leaveStandby p = s.modSpur p fun u => { u with
          standby := false, counter := 0, passed := 31, underWay := none } := by
        unfold State.leaveStandby
        rw [State.devicesTo_empty (by exact hl), State.beginRound_nobody (by
          rw [show (s.modSpur p _).pollList p = s.pollList p from rfl, hl]; nofun), State.modSpur_modSpur]
      exact exec_accepted hs (r := .setSpur _ 1) rfl (hactive.trans ((if_neg (by rw [hx]; nofun)).trans (by rw [hleave])))
    · refine exec_accepted hs (r := .setSpur _ 0) rfl (hstandby.trans ((if_neg (by rw [hx]; nofun)).trans ?_))
      unfold State.enterStandby
      rw [hto _ p hquiet']
    · refine exec_accepted hs (r := .setSpur _ 0) rfl (hstandby.trans ((if_neg (by rw [hx]; nofun)).trans ?_))
      unfold State.enterStandby
      rw [State.devicesTo_empty (by exact hl)]
  case device =>
    intro old i new live free taken bound homeless
    have hwritten : deviceWritten? _ = some (e, new) := deviceWritten?_numbers e cfg r k z gate
    have hlive : (s.slp.mode = .run ∧ ((old.configured && s.spurActive old.ref.spur) || s.spurActive new.ref.spur) = true) ↔
        live := by
      simp [live, State.spurActive, new]
    have htaken : (new.configured = true ∧ s.placeTaken e new.ref = true) ↔ taken := and_congr_right fun _ => State.placeTaken_iff
    have hbound : (old.configured && s.deviceNamed old && (!new.configured || !samePlace old new)) = true ↔ bound := by
      rw [Bool.and_eq_true, Bool.and_eq_true, and_assoc]
      refine and_congr_right fun _ => and_congr_right fun _ => ?_
      rw [Bool.or_eq_true, Bool.not_eq_true', Bool.not_eq_true', ← Bool.not_eq_true (samePlace old new), samePlace_iff, not_and_or]
    have hhomeless : (new.configured = true ∧ (new.zone.any fun z => !(s.zones.get z).configured) = true) ↔ homeless := by
      refine and_congr_right fun _ => ?_
      by_cases hk : k = .callPoint
      · simp [new, hk]
      · simp [new, hk]
    have hdo : s.doSetDevice ⟨number e, if cfg then 0 else 1, number r.spur, number r.addr, deviceKinds.idxOf k, number z,
        if gate then 0 else 1⟩ = if live then s.refuse .wrongMode else if free then s.refuse .notFound
        else if taken then s.refuse .badValue else if bound then s.refuse .busy else if homeless then s.refuse .notFound
        else (s.writeDevice e new).accept := by
      unfold State.doSetDevice
      rw [hwritten]
      simp only [← hlive, ← htaken, ← hbound, ← hhomeless]
      rfl
    have refused {x : Status} (hx : s.doSetDevice ⟨number e, if cfg then 0 else 1, number r.spur, number r.addr,
        deviceKinds.idxOf k, number z, if gate then 0 else 1⟩ = s.refuse x) :
        exec i s = .next (s.answered tag [0x2A, statusByte x]) := exec_refused hs (r := .setDevice _) rfl hx
    refine ⟨fun h1 => refused (x := .wrongMode) (hdo.trans (if_pos h1)), fun h1 h2 => refused (x := .notFound) (hdo.trans ?_),
      fun h1 h2 h3 => refused (x := .badValue) (hdo.trans ?_), fun h1 h2 h3 h4 => refused (x := .busy) (hdo.trans ?_),
      fun h1 h2 h3 h4 h5 => refused (x := .notFound) (hdo.trans ?_), fun h1 h2 h3 h4 h5 => ?_⟩
    · rw [if_neg h1, if_pos h2]
    · rw [if_neg h1, if_neg h2, if_pos h3]
    · rw [if_neg h1, if_neg h2, if_neg h3, if_pos h4]
    · rw [if_neg h1, if_neg h2, if_neg h3, if_neg h4, if_pos h5]
    · have hwrite : exec i s = .next ((s.writeDevice e new).answered tag [0x2A, 0x00]) :=
        exec_accepted hs (r := .setDevice _) rfl (hdo.trans (by
          rw [if_neg h1, if_neg h2, if_neg h3, if_neg h4, if_neg h5]))
      refine ⟨hwrite, fun hold => ?_⟩
      have hcfg : new.configured = true := Bool.not_eq_false _ |>.mp fun hn => h2 ⟨hold, hn⟩
      rw [hwrite, State.writeDevice_free hold hcfg]
      rfl

end Sys2Proof.Machine
end


section
/-! PROOFS. The transactions of a spur (R168 to R173): the next poll or fetch, what a poll carries, and how a transaction ends. -/

namespace Sys2Proof.Machine

/-! ## The message of a call point (R170) -/

section message
variable {s : State} {z : ZoneNo} {r : RunnerNo} {m : Nat}

/-- A runner plays a message in a zone. -/
def State.plays (s : State) (z : ZoneNo) (r : RunnerNo) (m : Nat) : Prop :=
  (s.runners.get r).state = .stepping ∧ (s.runners.get r).countEnd ≠ none ∧
    ∃ (k : Fin 128) (own : ZoneNo), (s.runners.get r).current = some k.val ∧ (s.runners.get r).zone = some own ∧
      (s.steps.get k).action = .announce ∧ (s.steps.get k).item = m ∧
      (if (s.steps.get k).zone = 0 then own else resolveZone own (s.steps.get k).zone) = z

theorem resolveZone_if (own : ZoneNo) (n : Nat) : (if n = 0 then own else resolveZone own n) = resolveZone own n := by
  split
  · next h => subst h; rfl
  · rfl

theorem stepAt_eq_some {i : Nat} {st : Step} : s.stepAt i = some st ↔ ∃ k : Fin 128, i = k.val ∧ s.steps.get k = st := by
  unfold State.stepAt
  constructor
  · intro h
    split at h
    · next hi => exact ⟨⟨i, hi⟩, rfl, Option.some.inj h⟩
    · cases h
  · rintro ⟨k, rfl, rfl⟩
    exact dif_pos k.isLt

theorem State.playing_iff : s.playing r = some (z, m) ↔ s.plays z r m := by
  unfold playing plays
  dsimp only
  constructor
  · intro h
    split at h
    · next hrun =>
      rw [Bool.and_eq_true, beq_iff_eq, Option.isSome_iff_ne_none] at hrun
      split at h
      · next st own hst hown =>
        split at h
        · next ha =>
          obtain ⟨i, hi, hat⟩ := Option.bind_eq_some_iff.mp hst
          obtain ⟨k, rfl, rfl⟩ := stepAt_eq_some.mp hat
          injection h with h; injection h with hz hm
          exact ⟨hrun.1, hrun.2, k, own, hi, hown, beq_iff_eq.mp ha, hm, (resolveZone_if _ _).trans hz⟩
        · cases h
      · cases h
    · cases h
  · rintro ⟨hst, hc, k, own, hk, hown, ha, hm, hz⟩
    rw [resolveZone_if] at hz
    have hrun : ((s.runners.get r).state == .stepping && (s.runners.get r).countEnd.isSome) = true := by
      rw [Bool.and_eq_true, beq_iff_eq, Option.isSome_iff_ne_none]; exact ⟨hst, hc⟩
    have hat : (s.runners.get r).current.bind s.stepAt = some (s.steps.get k) := by
      rw [hk]; exact stepAt_eq_some.mpr ⟨k, rfl, rfl⟩
    rw [if_pos hrun, hat, hown]
    dsimp only
    rw [if_pos (beq_iff_eq.mpr ha), hz, hm]

/-- The urgency and the start number by which the runners that play are compared. -/
def State.loudness (s : State) (r : RunnerNo) : Nat × Nat := ((s.runners.get r).urgency.getD 0, (s.runners.get r).startNo.getD 0)

abbrev louder (a b : Nat × Nat) : Prop := b.1 < a.1 ∨ b.1 = a.1 ∧ a.2 < b.2

/-- One runner of the loop that finds the loudest. -/
def State.loudest (s : State) (z : ZoneNo) (b : Option (Nat × Nat × Nat)) (r : RunnerNo) : Option (Nat × Nat × Nat) :=
  match s.playing r with
  | some (w, m) =>
    if w = z then
      match b with
      | none => some ((s.loudness r).1, (s.loudness r).2, m)
      | some (u, n, k) => if u < (s.loudness r).1 || (u == (s.loudness r).1 && (s.loudness r).2 < n)
          then some ((s.loudness r).1, (s.loudness r).2, m) else some (u, n, k)
    else b
  | none => b

theorem State.messageFor_eq : s.messageFor z =
    if (s.zones.get z).configured then ((List.finRange 4).foldl (s.loudest z) none).map fun b => b.2.2 else none := rfl

theorem State.loudest_silent {b} (h : ∀ m, ¬s.plays z r m) : s.loudest z b r = b := by
  unfold loudest
  cases hp : s.playing r with
  | none => rfl
  | some x =>
    obtain ⟨w, m⟩ := x
    exact if_neg fun hw : w = z => h m (playing_iff.mp (hw ▸ hp))

theorem State.loudest_plays {b} (h : s.plays z r m) : s.loudest z b r = match b with
    | none => some ((s.loudness r).1, (s.loudness r).2, m)
    | some (u, n, k) => if louder (s.loudness r) (u, n) then some ((s.loudness r).1, (s.loudness r).2, m) else some (u, n, k) := by
  unfold loudest
  rw [playing_iff.mpr h]
  dsimp only
  rw [if_pos rfl]
  cases b with
  | none => rfl
  | some x =>
    obtain ⟨u, n, k⟩ := x
    simp only [louder, Bool.or_eq_true, Bool.and_eq_true, beq_iff_eq, decide_eq_true_eq]

theorem State.loudest_beats {b : Option (Nat × Nat × Nat)} (h : s.plays z r m)
    (hb : ∀ u n k, b = some (u, n, k) → louder (s.loudness r) (u, n)) :
    s.loudest z b r = some ((s.loudness r).1, (s.loudness r).2, m) := by
  rw [loudest_plays h]
  cases b with
  | none => rfl
  | some x => exact if_pos (hb x.1 x.2.1 x.2.2 rfl)

theorem State.loudest_stays {u n k : Nat} (h : ∀ m, s.plays z r m → ¬louder (s.loudness r) (u, n)) :
    s.loudest z (some (u, n, k)) r = some (u, n, k) := by
  by_cases hp : ∃ m, s.plays z r m
  · obtain ⟨m, hm⟩ := hp
    rw [loudest_plays hm]
    exact if_neg (h m hm)
  · exact loudest_silent (not_exists.mp hp)

/-- What the loop has found is the loudness of a runner that plays. -/
theorem State.loudest_from {b : Option (Nat × Nat × Nat)} {x : Nat × Nat × Nat} (h : s.loudest z b r = some x) :
    b = some x ∨ ∃ m, s.plays z r m ∧ (x.1, x.2.1) = s.loudness r := by
  by_cases hp : ∃ m, s.plays z r m
  · obtain ⟨m, hm⟩ := hp
    rw [loudest_plays hm] at h
    cases b with
    | none => exact .inr ⟨m, hm, by cases h; rfl⟩
    | some y =>
      dsimp only at h
      split at h
      · exact .inr ⟨m, hm, by cases h; rfl⟩
      · exact .inl h
  · rw [loudest_silent (not_exists.mp hp)] at h
    exact .inl h

theorem State.loudestOf_from {l : List RunnerNo} {x : Nat × Nat × Nat} (h : l.foldl (s.loudest z) none = some x) :
    ∃ q ∈ l, ∃ m, s.plays z q m ∧ (x.1, x.2.1) = s.loudness q := by
  induction l using List.reverseRecOn with
  | nil => cases h
  | append_singleton l q ih =>
    rw [List.foldl_append, List.foldl_cons, List.foldl_nil] at h
    rcases loudest_from h with h | ⟨m, hm, hx⟩
    · obtain ⟨q, hq, hm⟩ := ih h
      exact ⟨q, List.mem_append_left _ hq, hm⟩
    · exact ⟨q, by simp, m, hm, hx⟩

theorem State.loudestOf_stays {l : List RunnerNo} {u n k : Nat}
    (h : ∀ q ∈ l, ∀ m, s.plays z q m → ¬louder (s.loudness q) (u, n)) :
    l.foldl (s.loudest z) (some (u, n, k)) = some (u, n, k) := by
  induction l with
  | nil => rfl
  | cons q l ih =>
    rw [List.foldl_cons, loudest_stays (h q (List.mem_cons_self ..))]
    exact ih fun q hq => h q (List.mem_cons_of_mem _ hq)

theorem State.messageFor_none (h : (s.zones.get z).configured = false ∨ ∀ r m, ¬s.plays z r m) : s.messageFor z = none := by
  rw [messageFor_eq]
  rcases h with h | h
  · exact if_neg (by simp [h])
  · cases hl : (List.finRange 4).foldl (s.loudest z) none with
    | none => simp
    | some x =>
      obtain ⟨q, _, m, hm, _⟩ := loudestOf_from hl
      exact absurd hm (h q m)

/-- The runner of highest urgency, and among equals of the lowest start number, is heard. -/
theorem State.messageFor_some (hz : (s.zones.get z).configured = true) (hr : s.plays z r m)
    (h : ∀ q n, q ≠ r → s.plays z q n → louder (s.loudness r) (s.loudness q)) : s.messageFor z = some m := by
  obtain ⟨before, after, hl⟩ := List.append_of_mem (List.mem_finRange r)
  have hnd : (before ++ r :: after).Nodup := hl ▸ List.nodup_finRange 4
  obtain ⟨-, hafter, hdisj⟩ := List.nodup_append.mp hnd
  have hfirst : s.loudest z (before.foldl (s.loudest z) none) r = some ((s.loudness r).1, (s.loudness r).2, m) := by
    refine loudest_beats hr fun u n k hb => ?_
    obtain ⟨q, hq, n', hn, hx⟩ := loudestOf_from hb
    rw [show (u, n) = s.loudness q from hx]
    exact h q n' (hdisj q hq r (List.mem_cons_self ..)) hn
  have hlater : after.foldl (s.loudest z) (some ((s.loudness r).1, (s.loudness r).2, m)) =
      some ((s.loudness r).1, (s.loudness r).2, m) := by
    refine loudestOf_stays fun q hq n hn => ?_
    have hne : q ≠ r := fun hqr => (List.nodup_cons.mp hafter).1 (hqr ▸ hq)
    have := h q n hne hn
    unfold louder at this ⊢
    dsimp only
    omega
  rw [messageFor_eq, hz, hl, List.foldl_append, List.foldl_cons, hfirst, hlater]
  rfl

end message

/-! ## Rounds and fetches (R169) -/

section rounds
variable {s : State} {p : SpurNo}

theorem State.modSpur_congr {f g : Spur → Spur} (h : f (s.spurs.get p) = g (s.spurs.get p)) : s.modSpur p f = s.modSpur p g := by
  simp only [modSpur, h]

theorem State.modSpur_get {f : Spur → Spur} : (s.modSpur p f).spurs.get p = f (s.spurs.get p) := by simp [modSpur]

theorem State.deviceAt_ref {r : DevRef} {e : EntryNo} (h : s.deviceAt r = some e) : (s.devices.get e).ref = r := by
  have := (firstOf_eq_some.mp h).1
  rw [Bool.and_eq_true, beq_iff_eq] at this
  exact this.2

theorem polledIn_iff {k : Nat} {x : DeviceState} :
    polledIn k x = true ↔ x = .suspect ∨ x = .online ∨ x = .offline ∧ k = 0 := by
  cases x <;> simp [polledIn]

/-- A device that a spur polls in round `k` once address `n` has been passed. -/
def State.due (s : State) (p : SpurNo) (k n : Nat) (a : Fin 31) (e : EntryNo) : Prop :=
  s.deviceAt ⟨p, a⟩ = some e ∧ n < number a ∧
    ((s.devices.get e).state = .suspect ∨ (s.devices.get e).state = .online ∨ (s.devices.get e).state = .offline ∧ k = 0)

theorem State.nextPoll_eq : s.nextPoll p = (firstOf 31 fun a => (s.deviceAt ⟨p, a⟩).any fun e =>
    decide ((s.spurs.get p).passed < number (s.devices.get e).ref.addr)
      && polledIn (s.spurs.get p).counter (s.devices.get e).state).bind fun a => s.deviceAt ⟨p, a⟩ := by
  unfold nextPoll pollList firstOf allOf
  exact List.find?_filterMap ..

theorem State.any_due {a : Fin 31} : (s.deviceAt ⟨p, a⟩).any (fun e =>
    decide ((s.spurs.get p).passed < number (s.devices.get e).ref.addr)
      && polledIn (s.spurs.get p).counter (s.devices.get e).state) = true ↔
    ∃ e, s.due p (s.spurs.get p).counter (s.spurs.get p).passed a e := by
  unfold due
  cases hd : s.deviceAt ⟨p, a⟩ with
  | none => simp
  | some e =>
    have href : (s.devices.get e).ref = ⟨p, a⟩ := deviceAt_ref hd
    simp [href, polledIn_iff]

theorem State.nextPoll_some {a : Fin 31} {e : EntryNo} (h : s.due p (s.spurs.get p).counter (s.spurs.get p).passed a e)
    (hl : ∀ b < a, ∀ g, ¬s.due p (s.spurs.get p).counter (s.spurs.get p).passed b g) : s.nextPoll p = some e := by
  rw [nextPoll_eq, firstOf_eq_some.mpr ⟨any_due.mpr ⟨e, h⟩, fun b hb => ?_⟩]
  · exact h.1
  · exact Bool.eq_false_iff.mpr fun hany => (any_due.mp hany).elim fun g hg => hl b hb g hg

theorem State.nextPoll_none (h : ∀ a e, ¬s.due p (s.spurs.get p).counter (s.spurs.get p).passed a e) : s.nextPoll p = none := by
  rw [nextPoll_eq, firstOf_eq_none fun a => Bool.eq_false_iff.mpr fun hany => (any_due.mp hany).elim fun e he => h a e he]
  rfl

theorem State.beginPoll_eq {a : Fin 31} {e : EntryNo} (h : s.deviceAt ⟨p, a⟩ = some e) : s.beginPoll p e =
    s.modSpur p fun u => { u with passed := number a, underWay := some (.poll e (s.buildPoll e)) } := by
  unfold beginPoll; rw [deviceAt_ref h]

theorem State.beginRound_due {a : Fin 31} {e : EntryNo} (h : s.due p (s.spurs.get p).counter 0 a e)
    (hl : ∀ b < a, ∀ g, ¬s.due p (s.spurs.get p).counter 0 b g) : s.beginRound p =
      s.modSpur p fun u => { u with passed := number a, underWay := some (.poll e (s.buildPoll e)) } := by
  have hx : (s.modSpur p fun x => { x with passed := 0 }).spurs.get p = { s.spurs.get p with passed := 0 } := modSpur_get
  have hnext : (s.modSpur p fun x => { x with passed := 0 }).nextPoll p = some e :=
    nextPoll_some (a := a) (by rw [hx]; exact h) (by rw [hx]; exact hl)
  unfold beginRound
  dsimp only
  rw [hnext]
  dsimp only
  rw [beginPoll_eq (s := s.modSpur p fun x => { x with passed := 0 }) (a := a) h.1, modSpur_modSpur]
  rfl

theorem State.beginRound_rests (h : ∀ a e, ¬s.due p (s.spurs.get p).counter 0 a e) : s.beginRound p =
    s.modSpur p fun u => { u with passed := 31, underWay := none } := by
  have hx : (s.modSpur p fun x => { x with passed := 0 }).spurs.get p = { s.spurs.get p with passed := 0 } := modSpur_get
  have hnext : (s.modSpur p fun x => { x with passed := 0 }).nextPoll p = none := nextPoll_none (by rw [hx]; exact h)
  unfold beginRound
  dsimp only
  rw [hnext]
  exact modSpur_modSpur ..

theorem State.pollOn_due {a : Fin 31} {e : EntryNo} (h : s.due p (s.spurs.get p).counter (s.spurs.get p).passed a e)
    (hl : ∀ b < a, ∀ g, ¬s.due p (s.spurs.get p).counter (s.spurs.get p).passed b g) : s.pollOn p =
      s.modSpur p fun u => { u with passed := number a, underWay := some (.poll e (s.buildPoll e)) } := by
  unfold pollOn
  rw [nextPoll_some h hl]
  exact beginPoll_eq h.1

theorem State.pollOn_rests (h : ∀ a e, ¬s.due p (s.spurs.get p).counter (s.spurs.get p).passed a e)
    (hp : (s.spurs.get p).passed = 0) : s.pollOn p = s.modSpur p fun u => { u with passed := 31, underWay := none } := by
  unfold pollOn
  rw [nextPoll_none h]
  dsimp only
  rw [if_pos hp]
  exact beginRound_rests (by rw [hp] at h; exact h)

theorem State.pollOn_turns (h : ∀ a e, ¬s.due p (s.spurs.get p).counter (s.spurs.get p).passed a e)
    (hp : (s.spurs.get p).passed ≠ 0) : s.pollOn p = (s.endRound p).beginRound p := by
  unfold pollOn
  rw [nextPoll_none h]
  exact if_neg hp

theorem State.endRound_counter : ((s.endRound p).spurs.get p).counter = ((s.spurs.get p).counter + 1) % 8 := by
  simp [endRound, modSpur]

/-- The round after the one that has ended, which polls its lowest device. -/
theorem State.endRound_due {a : Fin 31} {e : EntryNo} (h : s.due p (((s.spurs.get p).counter + 1) % 8) 0 a e)
    (hl : ∀ b < a, ∀ g, ¬s.due p (((s.spurs.get p).counter + 1) % 8) 0 b g) : (s.endRound p).beginRound p =
      s.modSpur p fun u => { u with
        counter := ((s.spurs.get p).counter + 1) % 8, passed := number a, underWay := some (.poll e (s.buildPoll e)) } := by
  rw [beginRound_due (a := a) (e := e) (by rw [endRound_counter]; exact h) (by rw [endRound_counter]; exact hl)]
  exact (modSpur_modSpur ..).trans (modSpur_congr rfl)

theorem State.endRound_rests (h : ∀ a e, ¬s.due p (((s.spurs.get p).counter + 1) % 8) 0 a e) : (s.endRound p).beginRound p =
    s.modSpur p fun u => { u with counter := ((s.spurs.get p).counter + 1) % 8, passed := 31, underWay := none } := by
  rw [beginRound_rests (by rw [endRound_counter]; exact h)]
  exact (modSpur_modSpur ..).trans (modSpur_congr rfl)

theorem State.takeFetch_empty (h : (s.spurs.get p).fetches = []) (n : Nat) : s.takeFetch p n = (s, false) := by
  cases n with
  | zero => rfl
  | succ n => unfold takeFetch; rw [h]

section oldest
variable {f : Fetch} {rest : List Fetch} (hf : (s.spurs.get p).fetches = f :: rest)
include hf

theorem State.takeFetch_up {e : EntryNo} (h : s.deviceOfKind .beacon f.beacon = some e)
    (hs : (s.devices.get e).state = .suspect ∨ (s.devices.get e).state = .online) (n : Nat) : s.takeFetch p (n + 1) =
      (s.modSpur p fun x => { x with fetches := rest, underWay := some (.fetch e f) }, true) := by
  have hno : ¬((s.devices.get e).state = .offline ∨ (s.devices.get e).state = .standby) := by
    rcases hs with hs | hs <;> simp [hs]
  unfold takeFetch
  rw [hf]
  dsimp only
  rw [h]
  dsimp only
  rw [if_neg hno, modSpur_modSpur]

theorem State.takeFetch_down {e : EntryNo} (h : s.deviceOfKind .beacon f.beacon = some e)
    (hs : (s.devices.get e).state = .offline ∨ (s.devices.get e).state = .standby) (n : Nat) :
    s.takeFetch p (n + 1) = (s.modSpur p fun x => { x with fetches := rest }).takeFetch p n := by
  conv_lhs => unfold takeFetch
  rw [hf]
  dsimp only
  rw [h]
  exact if_pos hs

theorem State.takeFetch_gone (h : s.deviceOfKind .beacon f.beacon = none) (n : Nat) : s.takeFetch p (n + 1) =
    ((s.modSpur p fun x => { x with fetches := rest }).tgAnswer sendStart f .miss).takeFetch p n := by
  conv_lhs => unfold takeFetch
  rw [hf]
  dsimp only
  rw [h]

end oldest

theorem State.spurNext_standby (h : (s.spurs.get p).standby = true) (m : Bool) : s.spurNext p m = s := if_pos h

section active
variable (hs : (s.spurs.get p).standby = false)
include hs

theorem State.spurNext_polls {m : Bool} (h : m = false ∨ (s.spurs.get p).fetches = []) : s.spurNext p m = s.pollOn p := by
  unfold spurNext
  rw [if_neg (by simp [hs])]
  rcases h with h | h
  · rw [h]; rfl
  · cases m
    · rfl
    · rw [if_pos rfl, takeFetch_empty h]; rfl

theorem State.spurNext_taken {t : State} (h : s.takeFetch p 64 = (t, true)) : s.spurNext p true = t := by
  unfold spurNext
  rw [if_neg (by simp [hs]), if_pos rfl, h]
  rfl

theorem State.spurNext_left {t : State} (h : s.takeFetch p 64 = (t, false)) : s.spurNext p true = t.pollOn p := by
  unfold spurNext
  rw [if_neg (by simp [hs]), if_pos rfl, h]
  rfl

end active

end rounds

/-! ## The interface checks (R171) -/

section checks

theorem fitsEntry_iff (h : HeardEntry) : fitsEntry h = true ↔
    h.tagId < 16777216 ∧ h.strength ≤ 15 ∧ ∀ dial, h.button = .call dial → dial ≤ 255 := by
  unfold fitsEntry
  cases h.button <;> simp [and_assoc]

theorem fitsLeg_iff (l : RawLeg) : fitsLeg l = true ↔ l.junction ≤ 255 ∧ l.entry ≤ 15 ∧ l.exit ≤ 15 := by
  simp [fitsLeg, and_assoc]

theorem fitsRead_iff (x : Read) : fitsRead x = true ↔ (∀ n, x = .clear n → n < 16777216) ∧
    ∀ n legs, x = .approach n legs → n < 16777216 ∧ (1 ≤ legs.length ∧ legs.length ≤ 3) ∧
      ∀ k ∈ legs, k.junction ≤ 255 ∧ k.entry ≤ 15 ∧ k.exit ≤ 15 := by
  cases x with
  | approach n legs => simp [fitsRead, fitsLeg_iff, and_assoc]
  | clear n => simp [fitsRead]
  | walk => simp [fitsRead]

/-- What the contents of a quarter may hold (section 8.2). -/
def SoundQuarter (q : Quarter) : Prop := match q with
  | .q0 spur address speed _ => (1 ≤ spur ∧ spur ≤ 8) ∧ (1 ≤ address ∧ address ≤ 31) ∧ speed ≤ 250
  | .q1 raw _ => raw ≤ 4095
  | .q2 _ _ level => level ≤ 100
  | .q3 codes operator => codes.length ≤ 4 ∧ (∀ c ∈ codes, 1 ≤ c ∧ c ≤ 255) ∧ ∀ n, operator = some n → n < 16777216

theorem fitsQuarter_iff (q : Quarter) : fitsQuarter q = true ↔ SoundQuarter q := by
  cases q with
  | q0 spur address speed direction => simp [fitsQuarter, SoundQuarter, and_assoc]
  | q1 raw status => simp [fitsQuarter, SoundQuarter]
  | q2 drive brake level => simp [fitsQuarter, SoundQuarter]
  | q3 codes operator => cases operator <;> simp [fitsQuarter, SoundQuarter, and_assoc]

theorem fitsFetch_iff (f : QuarterNo) (y : Contents) : fitsFetch f y = true ↔
    y = .notHeard ∨ ∃ q, y = .quarter q ∧ quarterNo q = f ∧ SoundQuarter q := by
  cases y with
  | quarter q => simp [fitsFetch, fitsQuarter_iff]
  | _ => simp [fitsFetch]

/-- What the contents of a poll's reply may hold (section 11.4). -/
def FitsKind (k : DeviceKind) (y : Contents) : Prop := match k, y with
  | .gasHead, .gasHead _ n1 n2 n3 n4 => n1 ≤ 4095 ∧ n2 ≤ 4095 ∧ n3 ≤ 4095 ∧ n4 ≤ 4095
  | .callPoint, .callPoint l => l.length ≤ 16 ∧ ∀ h ∈ l, h.tagId < 16777216 ∧ h.strength ≤ 15 ∧
      ∀ dial, h.button = .call dial → dial ≤ 255
  | .beacon, .beacon l => l.length ≤ 4 ∧ ∀ x ∈ l, (∀ n, x = .clear n → n < 16777216) ∧
      ∀ n legs, x = .approach n legs → n < 16777216 ∧ (1 ≤ legs.length ∧ legs.length ≤ 3) ∧
        ∀ k ∈ legs, k.junction ≤ 255 ∧ k.entry ≤ 15 ∧ k.exit ≤ 15
  | .refugePanel, .panel _ count _ => count ≤ 60
  | _, _ => False

theorem fitsPoll_iff (k : DeviceKind) (y : Contents) : fitsPoll k y = true ↔ FitsKind k y := by
  unfold fitsPoll
  split
  · simp [FitsKind, and_assoc]
  · simp [FitsKind, fitsEntry_iff]
  · simp [FitsKind, fitsRead_iff]
  · simp [FitsKind]
  · next hgas hpoint hbeacon hpanel =>
    unfold FitsKind
    split
    · exact absurd rfl (hgas _ _ _ _ _ rfl)
    · exact absurd rfl (hpoint _ rfl)
    · exact absurd rfl (hbeacon _ rfl)
    · exact absurd rfl (hpanel _ _ _ rfl)
    · simp

variable {s : State} {t : Transaction} {y : DeviceReply} {p : SpurNo} {busy : Bool}

theorem State.replyFault_badCheck (h : y.checkGood = false) : s.replyFault t false y = some .badCheck := by
  unfold replyFault; simp [h]

section checkGood
variable (hc : y.checkGood = true)
include hc

theorem State.replyFault_address (h : y.address ≠ number (s.devices.get t.entry).ref.addr) :
    s.replyFault t false y = some .wrongAddress := by
  unfold replyFault; simp [hc, h]

theorem State.replyFault_kind (h : y.address = number (s.devices.get t.entry).ref.addr)
    (hk : y.kind ≠ (s.devices.get t.entry).kind ∨ s.fitsTransaction t y.contents = false) :
    s.replyFault t false y = some .wrongKind := by
  unfold replyFault; simp [hc, h, hk]

theorem State.replyFault_none (h : y.address = number (s.devices.get t.entry).ref.addr)
    (hk : ¬(y.kind ≠ (s.devices.get t.entry).kind ∨ s.fitsTransaction t y.contents = false)) : s.replyFault t false y = none := by
  unfold replyFault; simp [hc, h, hk]

end checkGood

theorem State.spurReply_late (h : (s.spurs.get p).underWay = none ∨ y.late = true) : s.spurReply p busy y = s := by
  unfold spurReply
  rcases h with h | h
  · rw [h]
  · rw [h]; cases (s.spurs.get p).underWay <;> rfl

section awaited
variable (hu : (s.spurs.get p).underWay = some t) (hl : y.late = false)
include hu hl

theorem State.spurReply_fault {c : MissCause} (h : s.replyFault t busy y = some c) : s.spurReply p busy y = s.endMiss p t c := by
  unfold spurReply; rw [hu, hl]; dsimp only; rw [h]

theorem State.spurReply_good (h : s.replyFault t busy y = none) : s.spurReply p busy y = s.endGood p t y.contents := by
  unfold spurReply; rw [hu, hl]; dsimp only; rw [h]

end awaited

theorem State.spurNoReply_idle (h : (s.spurs.get p).underWay = none) : s.spurNoReply p busy = s := by
  unfold spurNoReply; rw [h]

theorem State.spurNoReply_miss (h : (s.spurs.get p).underWay = some t) :
    s.spurNoReply p busy = s.endMiss p t (if busy then .lineBusy else .noReply) := by
  unfold spurNoReply; rw [h]

end checks

/-! ## What a poll carries (R170) -/

section polls
variable {s : State} {e : EntryNo}

/-- The tags that a call point rings, call by call. -/
theorem State.ringList_eq : s.ringList e = s.calls.filterMap fun c => match c.b with
    | .tag r => if c.state = .ringing ∧ c.chanB.map VoiceRef.entry = some e then (s.tags.get r).map fun t => t.id else none
    | _ => none := by
  unfold ringList
  rw [List.filterMap_filter]
  refine List.filterMap_congr fun c _ => ?_
  have hrings : (c.state == .ringing && c.chanB.any fun v => v.entry == e) = true ↔
      c.state = .ringing ∧ c.chanB.map VoiceRef.entry = some e := by
    cases c.chanB <;> simp
  simp only [hrings, partyTag]
  cases c.b <;> simp

theorem State.voiceTag_free {k : Fin 4} (h : (s.voice.get e).get k = none) : s.voiceTag e k = none := by
  unfold voiceTag; rw [h]; rfl

theorem State.voiceTag_carries {k : Fin 4} {id : Nat} {c : Call} (h : (s.voice.get e).get k = some id)
    (hc : s.callOf id = some c) : s.voiceTag e k = s.partyTag (if c.chanA = some ⟨e, k⟩ then c.a else c.b) := by
  unfold voiceTag; rw [h, Option.bind_some, hc, Option.bind_some]

theorem State.strobeOn_configured {n : StationNo} (h : (s.stations.get n).configured = true) : s.strobeOn n =
    (!(s.stations.get n).strobe.isEmpty || (s.stations.get n).served.any fun z => (s.zones.get z).evac != .none) := by
  unfold strobeOn
  rw [h, Bool.true_and, Bool.or_comm]
  rfl

theorem State.buildPoll_gasHead (h : (s.devices.get e).kind = .gasHead) : s.buildPoll e = .gasHead := by
  unfold buildPoll; dsimp only; rw [h]

theorem State.buildPoll_callPoint (h : (s.devices.get e).kind = .callPoint) : s.buildPoll e =
    .callPoint ((List.finRange 4).map (s.voiceTag e)) (s.ringList e) (s.pagesFor (s.devices.get e).ref)
      ((s.devices.get e).zone.bind s.messageFor) := by
  unfold buildPoll; dsimp only; rw [h]; rfl

theorem State.buildPoll_beacon (h : (s.devices.get e).kind = .beacon) : s.buildPoll e =
    .beacon ((s.beaconJunction (s.devices.get e).ref).elim (List.replicate 4 false) fun j => (s.junctions.get j).lamps) := by
  unfold buildPoll; dsimp only; rw [h]

theorem State.buildPoll_panel (h : (s.devices.get e).kind = .refugePanel) : s.buildPoll e =
    .panel ((s.panelStation (s.devices.get e).ref).any s.strobeOn) := by
  unfold buildPoll; dsimp only; rw [h]

theorem State.deviceShows_eq {c : PollCommands} {t : Time} (h : (s.devices.get e).held = some (c, t)) :
    s.deviceShows e = some (if s.now < t + 20 then c else c.fallenBack) := by
  unfold deviceShows; rw [h]; rfl

end polls

/-! ## Misses and good replies (R172) -/

section states
variable {s : State} {e : EntryNo} {new : DeviceState} {n : Nat} {c : Option MissCause}

theorem State.modDevice_modDevice (s : State) (e : EntryNo) (f g : Device → Device) :
    (s.modDevice e f).modDevice e g = s.modDevice e fun d => g (f d) := by
  simp [modDevice]

theorem State.modDevice_congr {f g : Device → Device} (h : f (s.devices.get e) = g (s.devices.get e)) :
    s.modDevice e f = s.modDevice e g := by
  simp only [modDevice, h]

theorem State.deviceTo_same (h : (s.devices.get e).state = new) :
    s.deviceTo e new n c = s.modDevice e fun d => { d with state := new, misses := n } := if_pos h

theorem State.deviceTo_reported (h : (s.devices.get e).state ≠ new) (hn : new = .online ∨ new = .offline) :
    s.deviceTo e new n c =
      ((s.modDevice e fun d => { d with state := new, misses := n }).reportDevice e (s.devices.get e).state c).handDevice e :=
  (if_neg h).trans (congrArg (fun t : State => t.handDevice e) (if_pos hn))

theorem State.deviceTo_handed (h : (s.devices.get e).state ≠ new) (hn : ¬(new = .online ∨ new = .offline)) :
    s.deviceTo e new n c = (s.modDevice e fun d => { d with state := new, misses := n }).handDevice e :=
  (if_neg h).trans (congrArg (fun t : State => t.handDevice e) (if_neg hn))

/-- A device that has missed, with its state, its count and the cause. -/
def State.missed (s : State) (e : EntryNo) (cause : MissCause) (new : DeviceState) (n : Nat) : State :=
  s.modDevice e fun x => { x with state := new, misses := n, lastMiss := some cause }

theorem State.noted_missed {cause : MissCause} :
    ((s.modDevice e fun d => { d with lastMiss := some cause }).modDevice e fun d => { d with state := new, misses := n }) =
      s.missed e cause new n := modDevice_modDevice ..

theorem State.noted_state {cause : MissCause} :
    ((s.modDevice e fun d => { d with lastMiss := some cause }).devices.get e).state = (s.devices.get e).state := by
  simp [modDevice]

theorem State.deviceMiss_counts {cause : MissCause} (h : (s.devices.get e).state = .suspect) (hn : (s.devices.get e).misses < 2) :
    s.deviceMiss e cause = s.missed e cause .suspect ((s.devices.get e).misses + 1) := by
  unfold deviceMiss
  dsimp only
  rw [h]
  dsimp only
  rw [if_pos (Nat.add_lt_add_right hn 1), deviceTo_same (noted_state.trans h), noted_missed]

theorem State.deviceMiss_third {cause : MissCause} (h : (s.devices.get e).state = .suspect)
    (hn : 2 ≤ (s.devices.get e).misses) : s.deviceMiss e cause =
      ((s.missed e cause .offline 3).reportDevice e .suspect (some cause)).handDevice e := by
  unfold deviceMiss
  dsimp only
  rw [h]
  dsimp only
  rw [if_neg (by omega), deviceTo_reported (by rw [noted_state, h]; decide) (.inr rfl), noted_missed, noted_state, h]

theorem State.deviceMiss_online {cause : MissCause} (h : (s.devices.get e).state = .online) :
    s.deviceMiss e cause = (s.missed e cause .suspect 1).handDevice e := by
  unfold deviceMiss
  dsimp only
  rw [h]
  dsimp only
  rw [deviceTo_handed (by rw [noted_state, h]; decide) (by decide), noted_missed]

theorem State.deviceMiss_offline {cause : MissCause} (h : (s.devices.get e).state = .offline) :
    s.deviceMiss e cause = s.missed e cause .offline 3 := by
  unfold deviceMiss
  dsimp only
  rw [h]
  dsimp only
  rw [deviceTo_same (noted_state.trans h), noted_missed]

theorem State.deviceMiss_standby {cause : MissCause} (h : (s.devices.get e).state = .standby) :
    s.deviceMiss e cause = s.missed e cause .standby (s.devices.get e).misses := by
  unfold deviceMiss
  dsimp only
  rw [h]
  exact modDevice_congr (by rw [← h])

theorem State.deviceGood_online (h : (s.devices.get e).state = .online) :
    s.deviceGood e = s.modDevice e fun x => { x with misses := 0 } :=
  (deviceTo_same h).trans (modDevice_congr (by rw [← h]))

theorem State.deviceGood_other (h : (s.devices.get e).state ≠ .online) : s.deviceGood e =
    ((s.modDevice e fun x => { x with state := .online, misses := 0 }).reportDevice e (s.devices.get e).state none).handDevice e :=
  deviceTo_reported h (.inl rfl)

end states

/-! ## The end of a transaction (R171) -/

section ends
variable {s : State} {p : SpurNo} {e : EntryNo} {sent : PollCommands} {f : Fetch}

theorem State.emptyRoundEnds_none (h : (s.spurs.get p).standby = true ∨ (s.spurs.get p).underWay ≠ none) :
    s.emptyRoundEnds p = s := by
  refine if_neg fun hn => ?_
  rcases h with h | h
  · rw [hn.1] at h; cases h
  · exact h hn.2

theorem State.emptyRoundEnds_turns (hs : (s.spurs.get p).standby = false) (hu : (s.spurs.get p).underWay = none) :
    s.emptyRoundEnds p =
      (s.modSpur p fun u => { u with counter := ((s.spurs.get p).counter + 1) % 8, passed := 0 }).spurNext p true := by
  refine (if_pos ⟨hs, hu⟩).trans (congrArg (fun t : State => t.spurNext p true) ?_)
  exact (modSpur_modSpur ..).trans (modSpur_congr rfl)

/-- A poll that ends in a miss; one of a busy line has not reached its device (log entry 22). -/
theorem State.endMiss_poll {c : MissCause} : s.endMiss p (.poll e sent) c =
    ((if c = .lineBusy then s.modSpur p fun u => { u with underWay := none }
      else (s.modSpur p fun u => { u with underWay := none }).modDevice e fun d => { d with held := some (sent, s.now) }).deviceMiss
        e c).spurNext p true := rfl

theorem State.endMiss_fetch {c : MissCause} : s.endMiss p (.fetch e f) c =
    (((s.modSpur p fun u => { u with underWay := none }).deviceMiss e c).tgAnswer sendStart f .miss).spurNext p false := by
  unfold endMiss
  dsimp only
  rw [show (s.modSpur p fun u => { u with underWay := none }).pollSent (.fetch e f) =
    s.modSpur p fun u => { u with underWay := none } from rfl, ite_self]
  rfl

/-- A poll that has reached its device. -/
def State.pollReached (s : State) (p : SpurNo) (e : EntryNo) (sent : PollCommands) : State :=
  (s.modSpur p fun u => { u with underWay := none }).modDevice e fun d => { d with held := some (sent, s.now) }

theorem State.endGood_poll {y : Contents} : s.endGood p (.poll e sent) y =
    (((s.pollReached p e sent).deviceGood e).handContents (.poll e sent)
      ((s.panelStation (s.devices.get e).ref).map fun n => (n, s.stations.get n)) y).spurNext p true := rfl

theorem State.settings_of_standing {t : State} (h : t.standing = s.standing) (e : EntryNo) :
    (t.devices.get e).settings = (s.devices.get e).settings := by
  have hdevices : t.devices.map Device.settings = s.devices.map Device.settings :=
    congrArg (fun x : Standing => x.configuration.devices) h
  simpa using congrArg (fun x : Vector Device 96 => x.get e) hdevices

/-- The good reply leaves the entry's place. -/
theorem State.sent_device : (((s.pollReached p e sent).deviceGood e).devices.get e).ref = (s.devices.get e).ref ∧
    (((s.pollReached p e sent).deviceGood e).devices.get e).zone = (s.devices.get e).zone ∧
    (((s.pollReached p e sent).deviceGood e).devices.get e).exitGate = (s.devices.get e).exitGate := by
  have hkept : (((s.pollReached p e sent).deviceGood e).devices.get e).settings = (s.devices.get e).settings := by
    rw [settings_of_standing (deviceGood_standing _)]
    simp [pollReached, modDevice, Device.settings]
  simp only [Device.settings, Device.mk.injEq] at hkept
  obtain ⟨-, href, -, hzone, hgate, -⟩ := hkept
  exact ⟨href, hzone, hgate⟩

/-- A command whose event the spur takes outside a reset. -/
theorem exec_spurEvent {s t : State} {i : Instr} {g : State → State} (hs : s.slp.inReset = none)
    (hi : exec i s = .next (s.event g)) (hg : g s = t) : exec i s = .next t.beginSending := by
  rw [hi, State.event_operating hs, hg]

end ends

/-- Settles O56. -/
theorem spurTransactions : Obligations.SpurTransactions := by
  refine ⟨?fits, ?message, ?ends, ?next, ?carries, ?events, ?states⟩
  case fits =>
    intro s e sent f y fits sound
    exact ⟨fitsPoll_iff (s.devices.get e).kind y, fitsFetch_iff f.quarter y⟩
  case message =>
    intro s z plays urgency startNo
    exact ⟨State.messageFor_none, fun hz r m hr h => State.messageFor_some hz hr h⟩
  case ends =>
    intro s p e sent f c idle left
    refine ⟨State.endMiss_poll, State.endMiss_fetch, ?_⟩
    · intro d good ends
      obtain ⟨href, hzone, hgate⟩ : (good.devices.get e).ref = d.ref ∧ (good.devices.get e).zone = d.zone ∧
          (good.devices.get e).exitGate = d.exitGate := State.sent_device
      refine ⟨fun _ _ _ _ _ => ?_, fun heard z hz => ?_, fun _ => ?_, fun doorOpen count pressed n hn => ?_,
        fun doorOpen count pressed hn => ?_, fun _ => rfl, rfl⟩
      · rw [← href]; exact State.endGood_poll
      · refine State.endGood_poll.trans (congrArg (fun t : State => t.spurNext p true) ?_)
        show (Option.elim (good.devices.get e).zone good fun z =>
          good.heardList ⟨(good.devices.get e).ref, z, (good.devices.get e).exitGate⟩ heard) = _
        rw [href, hzone, hgate, hz]
        rfl
      · rw [← href]; exact State.endGood_poll
      · refine State.endGood_poll.trans (congrArg (fun t : State => t.spurNext p true) ?_)
        rw [hn]
        rfl
      · refine State.endGood_poll.trans (congrArg (fun t : State => t.spurNext p true) ?_)
        rw [hn]
        rfl
  case next =>
    intro s p mayFetch x after due lowest nobody polls rests next
    refine ⟨fun hs => State.spurNext_standby hs _, fun hs h => ⟨fun a e hl => ?_, fun hn hp => ?_, fun hn hp => ?_⟩,
      fun hs hm f rest hf => ?_⟩
    · exact (State.spurNext_polls hs h).trans ((State.pollOn_due hl.1 hl.2).trans (State.modSpur_congr rfl))
    · exact (State.spurNext_polls hs h).trans ((State.pollOn_rests hn hp).trans (State.modSpur_congr rfl))
    · have hturn := (State.spurNext_polls hs h).trans (State.pollOn_turns hn hp)
      exact ⟨fun a e hl => hturn.trans (State.endRound_due hl.1 hl.2), fun hn => hturn.trans (State.endRound_rests hn)⟩
    · intro up takes left told
      subst hm
      have hbeacon {u : State} {g : Fetch} {e : EntryNo} (h : u.deviceAt g.beacon = some e) (hk : (u.devices.get e).kind = .beacon) :
          u.deviceOfKind .beacon g.beacon = some e := State.deviceOfKind_eq_some.mpr ⟨h, hk⟩
      have hleft : (left.spurs.get p).fetches = rest ∧ (left.spurs.get p).standby = false := by
        rw [show left.spurs.get p = { s.spurs.get p with fetches := rest } from State.modSpur_get]; exact ⟨rfl, hs⟩
      refine ⟨fun e ⟨he, hk, hst⟩ => State.spurNext_taken hs (State.takeFetch_up hf (hbeacon he hk) hst 63),
        fun e he hk hst => ?_, fun hgone => ?_⟩
      · have hdown : s.takeFetch p 64 = left.takeFetch p 63 := State.takeFetch_down hf (hbeacon he hk) hst 63
        refine ⟨fun hrest => ?_, fun g more d hrest ⟨hd, hk, hst⟩ => ?_⟩
        · have hempty : (left.spurs.get p).fetches = [] := hleft.1.trans hrest
          exact (State.spurNext_left hs (hdown.trans (State.takeFetch_empty hempty 63))).trans
            (State.spurNext_polls hleft.2 (.inl rfl)).symm
        · have htaken := State.takeFetch_up (s := left) (hleft.1.trans hrest) (hbeacon hd hk) hst 62
          refine (State.spurNext_taken hs (hdown.trans htaken)).trans ?_
          exact State.modSpur_modSpur ..
      · have hno : s.deviceOfKind .beacon f.beacon = none :=
          State.deviceOfKind_eq_none.mpr fun ⟨e, he, hk⟩ => hgone e he hk
        have htold : s.takeFetch p 64 = told.takeFetch p 63 := State.takeFetch_gone hf hno 63
        refine ⟨fun hempty hst => ?_, fun g more e hrest ⟨he, hk, hst⟩ => ?_⟩
        · exact (State.spurNext_left hs (htold.trans (State.takeFetch_empty hempty 63))).trans
            (State.spurNext_polls hst (.inl rfl)).symm
        · exact State.spurNext_taken hs (htold.trans (State.takeFetch_up hrest (hbeacon he hk) hst 62))
  case carries =>
    intro s e d built
    refine ⟨State.buildPoll_gasHead, fun hk => ?_, fun hk => ?_, fun hk => ?_, fun hh => ?_, fun c t hh => ?_⟩
    · intro rings pages
      refine ⟨?_, fun k => ⟨State.voiceTag_free, fun id c h hc => ?_⟩⟩
      · rw [show rings = s.ringList e from State.ringList_eq.symm]
        exact State.buildPoll_callPoint hk
      · refine (State.voiceTag_carries h hc).trans ?_
        cases (if c.chanA = some ⟨e, k⟩ then c.a else c.b) <;> rfl
    · refine ⟨fun j hj => (State.buildPoll_beacon hk).trans ?_, fun hj => (State.buildPoll_beacon hk).trans ?_⟩
      · rw [hj]; rfl
      · rw [hj]; rfl
    · refine ⟨fun n hn hc => (State.buildPoll_panel hk).trans ?_, fun hn => (State.buildPoll_panel hk).trans ?_⟩
      · rw [hn]; exact congrArg PollCommands.panel (State.strobeOn_configured hc)
      · rw [hn]; rfl
    · unfold State.deviceShows
      rw [show (s.devices.get e).held = none from hh]; rfl
    · refine ⟨fun ht => (State.deviceShows_eq hh).trans (by rw [if_pos ht]), fun ht => (State.deviceShows_eq hh).trans ?_⟩
      rw [if_neg (Nat.not_lt.mpr ht)]
      cases c <;> rfl
  case events =>
    intro s p busy y hs i limit round x
    refine ⟨fun h => exec_spurEvent hs rfl (State.spurReply_late h), fun h => exec_spurEvent hs rfl (State.spurNoReply_idle h),
      fun t h => exec_spurEvent hs rfl (State.spurNoReply_miss h), fun t hu hl => ?_,
      fun h => exec_spurEvent hs rfl (State.emptyRoundEnds_none h), fun hst hu => ?_⟩
    · intro d miss unfit
      have hfault {c : MissCause} (h : s.replyFault t busy y = some c) : miss c :=
        exec_spurEvent hs rfl (State.spurReply_fault hu hl h)
      refine ⟨fun hb => hfault (by rw [hb]; rfl), fun hb => ?_⟩
      subst hb
      exact ⟨fun hc => hfault (State.replyFault_badCheck hc), fun hc ha => hfault (State.replyFault_address hc ha),
        fun hc ha hk => hfault (State.replyFault_kind hc ha hk),
        fun hc ha hk => exec_spurEvent hs rfl (State.spurReply_good hu hl (State.replyFault_none hc ha hk))⟩
    · intro turned due
      have hturned : (turned.spurs.get p) = { x with counter := (x.counter + 1) % 8, passed := 0 } := State.modSpur_get
      have hround {u : State} (h : turned.spurNext p true = u) : exec round s = .next u.beginSending :=
        exec_spurEvent hs rfl ((State.emptyRoundEnds_turns hst hu).trans h)
      have hactive : (turned.spurs.get p).standby = false := by rw [hturned]; exact hst
      have hdue {a e} : turned.due p (turned.spurs.get p).counter (turned.spurs.get p).passed a e ↔ due a e := by
        rw [hturned]
        exact and_congr_right fun _ => and_iff_right (Nat.pos_of_ne_zero (number_ne_zero _))
      refine ⟨hround rfl, fun hf => ?_, fun f rest e hf he hk hd => ?_⟩
      · have hfetches : (turned.spurs.get p).fetches = [] := by rw [hturned]; exact hf
        have hpolls := State.spurNext_polls hactive (m := true) (.inr hfetches)
        refine ⟨fun a e ha hl => hround (hpolls.trans ?_), fun hn => hround (hpolls.trans ?_)⟩
        · exact State.pollOn_due (hdue.mpr ha) fun b hb g hg => hl b hb g (hdue.mp hg)
        · refine (State.pollOn_rests (fun a e ha => hn a e (hdue.mp ha)) (by rw [hturned])).trans ?_
          exact State.modSpur_congr (by rw [hturned]; simp [x, hu])
      · have hfetches : (turned.spurs.get p).fetches = f :: rest := by rw [hturned]; exact hf
        exact hround (State.spurNext_taken hactive
          (State.takeFetch_up hfetches (State.deviceOfKind_eq_some.mpr ⟨he, hk⟩) hd 63))
  case states =>
    intro s e c d missed
    exact ⟨State.deviceMiss_counts, State.deviceMiss_third, State.deviceMiss_online, State.deviceMiss_offline,
      State.deviceMiss_standby, State.deviceGood_online, State.deviceGood_other⟩

end Sys2Proof.Machine
end


section
/-! PROOFS. The modes: START_RUN, ENTER_LOADING and RESET (R59, R133, R166, R176, R185 to R187). -/

namespace Sys2Proof.Machine

/-! ## The trip outputs at START_RUN (R59) -/

section starts
variable {s t : State} {o : OutNo}

theorem Trip.powerOff_iff (x : Trip) : x.powerOff = true ↔ x.feedbackHigh = (x.sense == .offWhenHigh) := by
  unfold powerOff; exact beq_iff_eq

/-- A change to a state other than OPENING and WAITING sends no start. -/
theorem State.moveTrip_handOffs {new : TripState} {cause : TripCause} (hw : new ≠ .waiting) (ho : new ≠ .opening) :
    (s.moveTrip o new cause).handOffs = s.handOffs := by
  have hquiet : ((s.tripMoved o new cause).warn o false).handOffs = s.handOffs := by
    unfold warn; split
    · rfl
    · dsimp only; split
      · rfl
      · split <;> rfl
  have hzones : ((s.tripMoved o new cause).warn o false).zones = s.zones := by
    unfold warn; split
    · rfl
    · dsimp only; split
      · rfl
      · split <;> rfl
  have hstate : (((s.tripMoved o new cause).warn o false).trips.get o).state = new := by
    rw [warn_trips]
    simp [tripMoved, reportTrip, Trip.entered, hw]
  have hview : ∀ y ∈ s.boundZones o, ((s.tripMoved o new cause).warn o false).viewOf y ≠ some .opening := fun y hy => by
    have hbound : y ∈ ((s.tripMoved o new cause).warn o false).boundZones o := by
      rw [mem_boundZones, hzones]; exact mem_boundZones.mp hy
    rw [viewOf_bound hbound, hstate]
    simpa using ho
  rw [moveTrip_eq s o cause hw]
  show (forEach _ (s.boundZones o) followOutput).handOffs = _
  rw [forEach_followOutput hview, (forEach_updateView _ _).2.2.2.1, hquiet]

theorem State.startTrip_other (h : (s.trips.get o).state ≠ .held) : s.startTrip o = s := if_neg h

theorem State.startTrip_off (h : (s.trips.get o).state = .held) (hp : (s.trips.get o).powerOff = true) :
    s.startTrip o = s.moveTrip o .opened .start := by
  unfold startTrip; rw [if_pos h]; dsimp only; rw [if_pos (by rw [moveTrip_powerOff]; exact hp)]

theorem State.startTrip_on (h : (s.trips.get o).state = .held) (hp : ¬(s.trips.get o).powerOff = true) :
    s.startTrip o = (s.moveTrip o .opened .start).unconfirm o .feedbackOn := by
  unfold startTrip; rw [if_pos h]; dsimp only; rw [if_neg (by rw [moveTrip_powerOff]; exact hp)]

/-- No output stands CLOSED or WAITING. -/
def State.NoneClosed (s : State) : Prop := ∀ o : OutNo, (s.trips.get o).state ≠ .closed ∧ (s.trips.get o).state ≠ .waiting

/-- What START_RUN makes of a HELD output. -/
def Trip.Started (x y : Trip) : Prop :=
  (x.powerOff = true → y.state = .opened ∧ y.lastCause = some .start) ∧
  (¬x.powerOff = true → y.state = .unconfirmed ∧ y.lastCause = some .feedbackOn)

theorem State.moveTrip_lastCause {new : TripState} {cause : TripCause} :
    ((s.moveTrip o new cause).trips.get o).lastCause = some cause := by
  rw [moveTrip_trips, get_set_entry, if_pos rfl]
  dsimp only; split <;> rfl

/-- Without a CLOSED or WAITING output a backup is left alone. -/
theorem State.unconfirm_noneClosed {cause : TripCause} (h : s.NoneClosed) : s.unconfirm o cause = s.moveTrip o .unconfirmed cause := by
  have hmoved : (s.moveTrip o .unconfirmed cause).NoneClosed := fun p => by
    by_cases hp : p = o
    · subst hp; rw [moveTrip_state]; decide
    · rw [moveTrip_other hp]; exact h p
  unfold unconfirm
  dsimp only
  cases ((s.moveTrip o .unconfirmed cause).trips.get o).backup with
  | none => rfl
  | some b => exact tripNow_other (hmoved b).1 (hmoved b).2

/-- One HELD output at START_RUN: it alone changes, and no start is sent. -/
theorem State.startTrip_held (h : s.NoneClosed) (ho : (s.trips.get o).state = .held) :
    (s.startTrip o).NoneClosed ∧ (s.startTrip o).handOffs = s.handOffs ∧
      (∀ p, p ≠ o → (s.startTrip o).trips.get p = s.trips.get p) ∧
      (s.trips.get o).Started ((s.startTrip o).trips.get o) := by
  have hopened : (s.moveTrip o .opened .start).NoneClosed := fun p => by
    by_cases hp : p = o
    · subst hp; rw [moveTrip_state]; decide
    · rw [moveTrip_other hp]; exact h p
  by_cases hp : (s.trips.get o).powerOff = true
  · rw [startTrip_off ho hp]
    exact ⟨hopened, moveTrip_handOffs (by decide) (by decide), fun p hpo => moveTrip_other hpo .opened .start,
      fun _ => ⟨moveTrip_state .., moveTrip_lastCause⟩, fun hno => absurd hp hno⟩
  · rw [startTrip_on ho hp, unconfirm_noneClosed hopened]
    refine ⟨fun p => ?_, (moveTrip_handOffs (by decide) (by decide)).trans (moveTrip_handOffs (by decide) (by decide)),
      fun p hpo => (moveTrip_other hpo ..).trans (moveTrip_other hpo ..), fun hoff => absurd hoff hp,
      fun _ => ⟨moveTrip_state .., moveTrip_lastCause⟩⟩
    by_cases hpo : p = o
    · subst hpo; rw [moveTrip_state]; decide
    · rw [moveTrip_other hpo]; exact hopened p

theorem State.startTrips_held {l : List OutNo} (hl : l.Nodup) (h : s.NoneClosed) (hheld : ∀ o ∈ l, (s.trips.get o).state = .held) :
    (l.foldl startTrip s).handOffs = s.handOffs ∧ (∀ p ∉ l, (l.foldl startTrip s).trips.get p = s.trips.get p) ∧
      ∀ o ∈ l, (s.trips.get o).Started ((l.foldl startTrip s).trips.get o) := by
  induction l generalizing s with
  | nil => exact ⟨rfl, fun _ _ => rfl, by simp⟩
  | cons o l ih =>
    obtain ⟨ho, hl⟩ := List.nodup_cons.mp hl
    obtain ⟨hfirst, hrest⟩ := List.forall_mem_cons.mp hheld
    obtain ⟨hnone, hoffs, hothers, hstarted⟩ := startTrip_held h hfirst
    have hne : ∀ p ∈ l, p ≠ o := fun p hp e => ho (e ▸ hp)
    obtain ⟨hoffs', hkept, hall⟩ := ih hl hnone fun p hp => by rw [hothers p (hne p hp)]; exact hrest p hp
    refine ⟨hoffs'.trans hoffs, fun p hp => ?_, List.forall_mem_cons.mpr ⟨?_, fun p hp => ?_⟩⟩
    · obtain ⟨hpo, hpl⟩ := not_or.mp (mt List.mem_cons.mpr hp)
      exact (hkept p hpl).trans (hothers p hpo)
    · rw [List.foldl_cons, hkept o ho]; exact hstarted
    · rw [← hothers p (hne p hp)]; exact hall p hp

/-- START_RUN with every output HELD. -/
theorem State.startRun_held (hoffs : s.handOffs = []) (hheld : ∀ o : OutNo, (s.trips.get o).state = .held) (o : OutNo) :
    (s.trips.get o).Started (s.startRun.trips.get o) := by
  obtain ⟨hquiet, -, hstarted⟩ := startTrips_held (s := s.setMode .run) (List.nodup_finRange 6)
    (fun o => by rw [show ((s.setMode .run).trips.get o).state = .held from hheld o]; decide) fun o _ => hheld o
  have hsettle : s.startRun = (List.finRange 6).foldl startTrip (s.setMode .run) := settle_nil (hquiet.trans hoffs)
  rw [hsettle]
  exact hstarted o (List.mem_finRange o)

theorem State.mode_of_standing {x : Standing} (h : t.standing = x) : t.slp.mode = x.link.mode := by
  subst h; rfl

theorem State.startRun_mode (s : State) : s.startRun.slp.mode = .run := mode_of_standing s.startRun_standing

end starts

/-! ## The bindings that START_RUN checks (R185) -/

section bindings

/-- A table's failing items: each by its tests, a field with each. -/
def TableFails {n : Nat} (tests : Fin n → List (Nat × Bool)) (m f : Nat) : Prop := ∃ i, m = number i ∧ (f, true) ∈ tests i

theorem firstField_none {l : List (Nat × Bool)} (h : firstField l = none) (f : Nat) : (f, true) ∉ l := fun hf => by
  have := List.find?_eq_none.mp (Option.map_eq_none_iff.mp h) (f, true) hf
  exact this rfl

/-- The first test that fails is the one whose field comes first. -/
theorem firstField_least {place : Nat → Nat} {l : List (Nat × Bool)} {f : Nat}
    (hl : (l.map Prod.fst).Pairwise fun a b => place a < place b) (h : firstField l = some f) :
    (f, true) ∈ l ∧ ∀ g, (g, true) ∈ l → place f ≤ place g := by
  induction l with
  | nil => cases h
  | cons x l ih =>
    obtain ⟨k, b⟩ := x
    obtain ⟨hk, htail⟩ := List.pairwise_cons.mp hl
    cases b with
    | true =>
      obtain rfl : k = f := Option.some.inj h
      refine ⟨List.mem_cons_self .., fun g hg => ?_⟩
      rcases List.mem_cons.mp hg with hg | hg
      · rw [show g = k from congrArg Prod.fst hg]
      · exact Nat.le_of_lt (hk g (List.mem_map_of_mem (f := Prod.fst) hg))
    | false =>
      obtain ⟨hmem, hleast⟩ := ih htail h
      refine ⟨List.mem_cons_of_mem _ hmem, fun g hg => hleast g ?_⟩
      rcases List.mem_cons.mp hg with hg | hg
      · cases hg
      · exact hg

/-- The order in which START_RUN names a failing item: kind, number, and the place of the field within the kind. -/
def bindingBefore (place : Nat → Nat → Nat) (a b : Nat × Nat × Nat) : Prop :=
  a.1 < b.1 ∨ a.1 = b.1 ∧ (a.2.1 < b.2.1 ∨ a.2.1 = b.2.1 ∧ place a.1 a.2.2 < place b.1 b.2.2)

/-- What is found is the first of the failing items, and nothing is found when none fails. -/
structure FindsFirst (place : Nat → Nat → Nat) (F : Nat → Nat → Nat → Prop) (found : Option BadBinding) : Prop where
  fails : ∀ b, found = some b → F b.kind b.number b.field
  first : ∀ b, found = some b → ∀ k m f, F k m f → ¬bindingBefore place (k, m, f) (b.kind, b.number, b.field)
  none : found = none → ∀ k m f, ¬F k m f

variable {place : Nat → Nat → Nat}

theorem findsFirst_table {kind n : Nat} {tests : Fin n → List (Nat × Bool)}
    (hl : ∀ i, ((tests i).map Prod.fst).Pairwise fun a b => place kind a < place kind b) :
    FindsFirst place (fun k m f => k = kind ∧ TableFails tests m f) (failureIn kind fun i => firstField (tests i)) := by
  have hfound : ∀ b, (failureIn kind fun i => firstField (tests i)) = some b →
      ∃ i f, b = ⟨kind, number i, f⟩ ∧ firstField (tests i) = some f ∧ ∀ j < i, firstField (tests j) = none := fun b hb => by
    obtain ⟨before, i, after, hsplit, hi, hnone⟩ := List.findSome?_eq_some_iff.mp hb
    obtain ⟨f, hf, rfl⟩ := Option.map_eq_some_iff.mp hi
    refine ⟨i, f, rfl, hf, fun j hj => Option.map_eq_none_iff.mp (hnone j ?_)⟩
    have hsorted : (before ++ i :: after).Pairwise (· < ·) := hsplit ▸ List.pairwise_lt_finRange n
    have hmem : j ∈ before ++ i :: after := hsplit ▸ List.mem_finRange j
    rcases List.mem_append.mp hmem with hmem | hmem
    · exact hmem
    · rcases List.mem_cons.mp hmem with rfl | hmem
      · exact absurd hj (lt_irrefl _)
      · exact absurd hj (lt_asymm ((List.pairwise_cons.mp (List.pairwise_append.mp hsorted).2.1).1 j hmem))
  refine ⟨fun b hb => ?_, fun b hb k m f hfails => ?_, fun hnone k m f hfails => ?_⟩
  · obtain ⟨i, f, rfl, hf, -⟩ := hfound b hb
    exact ⟨rfl, i, rfl, (firstField_least (hl i) hf).1⟩
  · obtain ⟨i, g, rfl, hg, hbefore⟩ := hfound b hb
    obtain ⟨rfl, j, rfl, hf⟩ := hfails
    rintro (h | ⟨-, h | ⟨h, hplace⟩⟩)
    · exact lt_irrefl _ h
    · exact firstField_none (hbefore j (by simpa [number] using h)) f hf
    · obtain rfl : j = i := number_injective h
      exact Nat.not_lt.mpr ((firstField_least (hl j) hg).2 f hf) hplace
  · obtain ⟨-, i, rfl, hf⟩ := hfails
    have := List.findSome?_eq_none_iff.mp hnone i (List.mem_finRange i)
    exact firstField_none (Option.map_eq_none_iff.mp this) f hf

/-- Tables of lower kind come first. -/
theorem FindsFirst.or {F G : Nat → Nat → Nat → Prop} {x y : Option BadBinding} (hx : FindsFirst place F x)
    (hy : FindsFirst place G y) (hk : ∀ k m f k' m' f', F k m f → G k' m' f' → k < k') :
    FindsFirst place (fun k m f => F k m f ∨ G k m f) (x.or y) := by
  cases hfound : x with
  | none =>
    rw [Option.none_or]
    have hno := hx.none hfound
    refine ⟨fun b hb => .inr (hy.fails b hb), fun b hb k m f hf => ?_, fun hn k m f hf => ?_⟩
    · exact hy.first b hb k m f (hf.resolve_left (hno k m f))
    · exact hf.elim (hno k m f) (hy.none hn k m f)
  | some b =>
    rw [Option.some_or]
    refine ⟨fun b' hb => ?_, fun b' hb k m f hf => ?_, fun hn => nomatch hn⟩
    · cases hb; exact .inl (hx.fails b hfound)
    · cases hb
      rcases hf with hf | hf
      · exact hx.first b hfound k m f hf
      · have hlt := hk _ _ _ _ _ _ (hx.fails b hfound) hf
        rintro (h | ⟨h, -⟩)
        · exact Nat.lt_asymm h hlt
        · exact Nat.ne_of_lt hlt h.symm

/-! ### The tests of each table -/

variable {s : State}

theorem firstField_if {c : Bool} {l : List (Nat × Bool)} : (if c then firstField l else none) = firstField (if c then l else []) := by
  cases c <;> rfl

def State.zoneTests (s : State) (z : ZoneNo) : List (Nat × Bool) :=
  let x := s.zones.get z
  if x.configured then [(5, s.undefinedBinding x.onAlarm), (6, s.undefinedBinding x.onFault), (7, s.undefinedBinding x.onTrip),
    (8, s.undefinedBinding x.onEmergency)] else []

def State.stationTests (s : State) (n : StationNo) : List (Nat × Bool) :=
  let x := s.stations.get n
  if x.configured then [(9, s.undefinedBinding x.onActivated), (10, s.undefinedBinding x.onDistress), (3, s.deadZone x.zone),
    (4, x.served.any fun z => s.deadZone (some z)), (5, (x.panel.bind (s.deviceOfKind .refugePanel)).isNone),
    (7, x.insideO2.any fun c => !(s.channels.get c).configured),
    (8, x.insideCo.any fun c => !(s.channels.get c).configured)] else []

def State.channelTests (s : State) (c : ChanNo) : List (Nat × Bool) :=
  let x := s.channels.get c
  if x.configured then [(4, !s.sourceExists x), (5, !x.onVehicle && s.deadZone x.zone)] else []

def State.junctionTests (s : State) (j : JuncNo) : List (Nat × Bool) :=
  let x := s.junctions.get j
  if x.configured then [(3, s.deadZone x.zone), (4, (x.beacon.bind (s.deviceOfKind .beacon)).isNone)] else []

def State.pointTests (s : State) (e : EntryNo) : List (Nat × Bool) :=
  let d := s.devices.get e
  if d.configured && d.kind == .callPoint then [(6, s.deadZone d.zone)] else []

/-- The place of a field among those of its kind: a station's programs are tested first. -/
def fieldPlace (k f : Nat) : Nat := if k = 1 then [9, 10, 3, 4, 5, 7, 8].idxOf f else f

/-- The failing items, by kind, number and field. -/
def State.bindingFails (s : State) (k m f : Nat) : Prop :=
  k = 0 ∧ TableFails s.zoneTests m f ∨ k = 1 ∧ TableFails s.stationTests m f ∨ k = 2 ∧ TableFails s.channelTests m f ∨
    k = 3 ∧ TableFails s.junctionTests m f ∨ k = 4 ∧ TableFails s.pointTests m f

theorem pairwise_fields {c : Bool} {l : List (Nat × Bool)} {R : Nat → Nat → Prop} (ks : List Nat)
    (hl : l.map Prod.fst = ks) (h : ks.Pairwise R) : ((if c then l else []).map Prod.fst).Pairwise R := by
  cases c
  · exact List.Pairwise.nil
  · exact hl ▸ h

theorem State.badBinding_findsFirst : FindsFirst fieldPlace s.bindingFails s.badBinding := by
  have hzone : s.zoneFailure = fun z => firstField (s.zoneTests z) := funext fun _ => firstField_if
  have hstation : s.stationFailure = fun n => firstField (s.stationTests n) := funext fun _ => firstField_if
  have hchannel : s.channelFailure = fun c => firstField (s.channelTests c) := funext fun _ => firstField_if
  have hjunction : s.junctionFailure = fun j => firstField (s.junctionTests j) := funext fun _ => firstField_if
  have hpoint : s.pointFailure = fun e => firstField (s.pointTests e) := funext fun _ => firstField_if
  unfold badBinding
  rw [hzone, hstation, hchannel, hjunction, hpoint]
  have h4 := findsFirst_table (place := fieldPlace) (kind := 4) (tests := s.pointTests) fun _ => pairwise_fields [6] rfl (by decide)
  have h3 := (findsFirst_table (place := fieldPlace) (kind := 3) (tests := s.junctionTests)
    fun _ => pairwise_fields [3, 4] rfl (by decide)).or h4 (by rintro k m f k' m' f' ⟨rfl, -⟩ ⟨rfl, -⟩; decide)
  have h2 := (findsFirst_table (place := fieldPlace) (kind := 2) (tests := s.channelTests)
    fun _ => pairwise_fields [4, 5] rfl (by decide)).or h3 (by rintro k m f k' m' f' ⟨rfl, -⟩ (⟨rfl, -⟩ | ⟨rfl, -⟩) <;> decide)
  have h1 := (findsFirst_table (place := fieldPlace) (kind := 1) (tests := s.stationTests)
    fun _ => pairwise_fields [9, 10, 3, 4, 5, 7, 8] rfl (by decide)).or h2 (by rintro k m f k' m' f' ⟨rfl, -⟩ (⟨rfl, -⟩ | ⟨rfl, -⟩ | ⟨rfl, -⟩) <;> decide)
  exact (findsFirst_table (place := fieldPlace) (kind := 0) (tests := s.zoneTests)
    fun _ => pairwise_fields [5, 6, 7, 8] rfl (by decide)).or h1
      (by rintro k m f k' m' f' ⟨rfl, -⟩ (⟨rfl, -⟩ | ⟨rfl, -⟩ | ⟨rfl, -⟩ | ⟨rfl, -⟩) <;> decide)

/-- A field that is tested has a place of its own. -/
theorem fieldPlace_injective {k m f g : Nat} (hf : s.bindingFails k m f)
    (h : fieldPlace k f = fieldPlace k g) : f = g := by
  by_cases hk : k = 1
  · have hmem : ∀ {m f}, s.bindingFails k m f → f ∈ [9, 10, 3, 4, 5, 7, 8] := fun {m f} hf => by
      obtain ⟨i, -, hi⟩ : TableFails s.stationTests m f := by
        simpa [State.bindingFails, hk] using hf
      unfold State.stationTests at hi
      dsimp only at hi
      split at hi
      · exact List.mem_map_of_mem (f := Prod.fst) hi
      · cases hi
    simp only [fieldPlace, if_pos hk] at h
    exact (List.idxOf_inj (hmem hf)).mp h
  · simpa only [fieldPlace, if_neg hk] using h

/-- The first failing item is found. -/
theorem State.badBinding_some {k m f : Nat} (hf : s.bindingFails k m f)
    (hl : ∀ a b c, s.bindingFails a b c → ¬bindingBefore fieldPlace (a, b, c) (k, m, f)) : s.badBinding = some ⟨k, m, f⟩ := by
  cases hb : s.badBinding with
  | none => exact absurd hf (badBinding_findsFirst.none hb k m f)
  | some b =>
    have hfails := badBinding_findsFirst.fails b hb
    have hfirst := badBinding_findsFirst.first b hb k m f hf
    have hleast := hl _ _ _ hfails
    unfold bindingBefore at hfirst hleast
    dsimp only at hfirst hleast
    obtain ⟨bk, bm, bf⟩ := b
    dsimp only at *
    have hk : bk = k := by omega
    subst hk
    have hm : bm = m := by omega
    subst hm
    obtain rfl : bf = f := fieldPlace_injective hfails (by omega)
    rfl

theorem State.badBinding_none (h : ∀ k m f, ¬s.bindingFails k m f) : s.badBinding = none := by
  cases hb : s.badBinding with
  | none => rfl
  | some b => exact absurd (badBinding_findsFirst.fails b hb) (h _ _ _)

theorem State.doStartRun_accepts (hm : s.slp.mode = .loading) (h : s.badBinding = none) : s.doStartRun = s.startRun.accept := by
  unfold doStartRun; rw [hm, h]; rfl

theorem State.doStartRun_refuses {b : BadBinding} (hm : s.slp.mode = .loading) (h : s.badBinding = some b) : s.doStartRun =
    ⟨s, .badValue, byteField b.kind ++ byteField b.number ++ [Config.bindingField b.field]⟩ := by
  unfold doStartRun; rw [hm, h]; rfl

/-! ### What each test says -/

theorem State.undefinedBinding_iff {p : Option ProgNo} :
    s.undefinedBinding p = true ↔ ∃ q, p = some q ∧ (s.programs.get q).defined = false := by
  unfold undefinedBinding; cases p <;> simp

theorem State.deadZone_iff {z : Option ZoneNo} : s.deadZone z = true ↔ ∀ y, z = some y → (s.zones.get y).configured = false := by
  unfold deadZone; cases z <;> simp

theorem State.missing_iff {k : DeviceKind} {r : Option DevRef} : (r.bind (s.deviceOfKind k)).isNone = true ↔
    ∀ d e, r = some d → s.deviceAt d = some e → (s.devices.get e).kind ≠ k := by
  cases r with
  | none => simp
  | some d =>
    rw [Option.bind_some, Option.isNone_iff_eq_none, deviceOfKind_eq_none]
    exact ⟨fun h d' e hd hat hk => h ⟨e, Option.some.inj hd ▸ hat, hk⟩, fun h ⟨e, hat, hk⟩ => h d e rfl hat hk⟩

theorem State.closed_iff {c : Option ChanNo} : (c.any fun k => !(s.channels.get k).configured) = true ↔
    ∃ k, c = some k ∧ (s.channels.get k).configured = false := by
  cases c <;> simp

theorem State.sourceMissing_iff {x : Channel} : (!s.sourceExists x) = true ↔
    (∀ r k, x.source = some (.head r k) → ∀ d e, some r = some d → s.deviceAt d = some e → (s.devices.get e).kind ≠ .gasHead) ∧
      ∀ v, x.source = some (.vehicle v) → (s.vehicles.get v).configured = false := by
  rw [Bool.not_eq_true', ← Bool.not_eq_true]
  cases hx : x.source with
  | none => simp [sourceExists, hx]
  | some source =>
    rw [sourceExists_iff hx]
    cases source with
    | head r k =>
      refine ⟨fun h => ⟨fun r' k' he d e hd hat hk => h ⟨e, ?_, hk⟩, fun v hv => nomatch hv⟩,
        fun h ⟨e, hat, hk⟩ => h.1 r k rfl r e rfl hat hk⟩
      cases he; cases hd; exact hat
    | vehicle v => simp [HasSource]

theorem Channel.onVehicle_iff {x : Channel} : x.onVehicle = true ↔ ∃ v, x.source = some (.vehicle v) := by
  unfold onVehicle
  cases x.source with
  | none => simp
  | some source => cases source <;> simp

theorem mem_tests {c : Bool} {l : List (Nat × Bool)} {x : Nat × Bool} : x ∈ (if c then l else []) ↔ c = true ∧ x ∈ l := by
  cases c <;> simp

theorem mem_test {f g : Nat} {b : Bool} {l : List (Nat × Bool)} : (f, true) ∈ (g, b) :: l ↔ f = g ∧ b = true ∨ (f, true) ∈ l := by
  rw [List.mem_cons, Prod.mk.injEq, eq_comm (a := true)]

theorem no_test {f : Nat} : (f, true) ∈ ([] : List (Nat × Bool)) ↔ False := by simp

theorem State.zoneTests_iff {z : ZoneNo} {f : Nat} : (f, true) ∈ s.zoneTests z ↔ (s.zones.get z).configured = true ∧
    (f = 5 ∧ s.undefinedBinding (s.zones.get z).onAlarm = true ∨ f = 6 ∧ s.undefinedBinding (s.zones.get z).onFault = true ∨
      f = 7 ∧ s.undefinedBinding (s.zones.get z).onTrip = true ∨
      f = 8 ∧ s.undefinedBinding (s.zones.get z).onEmergency = true) := by
  unfold zoneTests
  simp only [mem_tests, mem_test, no_test, or_false]

theorem State.stationTests_iff {n : StationNo} {f : Nat} : (f, true) ∈ s.stationTests n ↔
    (s.stations.get n).configured = true ∧
      (f = 9 ∧ s.undefinedBinding (s.stations.get n).onActivated = true ∨
        f = 10 ∧ s.undefinedBinding (s.stations.get n).onDistress = true ∨ f = 3 ∧ s.deadZone (s.stations.get n).zone = true ∨
        f = 4 ∧ (∃ z ∈ (s.stations.get n).served, s.deadZone (some z) = true) ∨
        f = 5 ∧ ((s.stations.get n).panel.bind (s.deviceOfKind .refugePanel)).isNone = true ∨
        f = 7 ∧ ((s.stations.get n).insideO2.any fun c => !(s.channels.get c).configured) = true ∨
        f = 8 ∧ ((s.stations.get n).insideCo.any fun c => !(s.channels.get c).configured) = true) := by
  unfold stationTests
  simp only [mem_tests, mem_test, no_test, or_false, List.any_eq_true]

theorem State.channelTests_iff {c : ChanNo} {f : Nat} : (f, true) ∈ s.channelTests c ↔ (s.channels.get c).configured = true ∧
    (f = 4 ∧ (!s.sourceExists (s.channels.get c)) = true ∨
      f = 5 ∧ ¬(s.channels.get c).onVehicle = true ∧ s.deadZone (s.channels.get c).zone = true) := by
  unfold channelTests
  simp only [mem_tests, mem_test, no_test, or_false, Bool.and_eq_true, Bool.not_eq_true', Bool.not_eq_true]

theorem State.junctionTests_iff {j : JuncNo} {f : Nat} : (f, true) ∈ s.junctionTests j ↔ (s.junctions.get j).configured = true ∧
    (f = 3 ∧ s.deadZone (s.junctions.get j).zone = true ∨
      f = 4 ∧ ((s.junctions.get j).beacon.bind (s.deviceOfKind .beacon)).isNone = true) := by
  unfold junctionTests
  simp only [mem_tests, mem_test, no_test, or_false]

theorem State.pointTests_iff {e : EntryNo} {f : Nat} : (f, true) ∈ s.pointTests e ↔
    (s.devices.get e).configured = true ∧ (s.devices.get e).kind = .callPoint ∧ f = 6 ∧
      s.deadZone (s.devices.get e).zone = true := by
  unfold pointTests
  dsimp only
  rw [mem_tests]
  simp only [mem_test, no_test, or_false, Bool.and_eq_true, beq_iff_eq, and_assoc]

end bindings

/-! ## The broadcast reset (R176) -/

theorem State.broadcast_active {s : State} {p : SpurNo} (h : (s.spurs.get p).standby = false) : s.broadcast p =
    (s.spurs.get p).underWay.elim
      ((((s.dropTransaction p).modSpur p fun x => { x with counter := 0, broadcasts := x.broadcasts + 1 }).fallBack p).devicesTo p
        .suspect)
      fun t => ((((s.dropTransaction p).modSpur p fun x => { x with
        counter := 0, broadcasts := x.broadcasts + 1 }).fallBack p).devicesTo p .suspect).spurNext p t.isPoll :=
  if_neg (by simp [h])

/-! ## What the blocks leave alone while the part is in LOADING

In LOADING every start is dropped and every output is HELD, so that a change of a device and the answer of a fetch reach no
program, no claim and no route wait. -/

section loading
variable {s t u : State}

/-- The part is in LOADING with every output HELD. -/
def State.Loading (s : State) : Prop := s.slp.mode = .loading ∧ ∀ o : OutNo, (s.trips.get o).state = .held

/-- No vehicle waits for a route and none has one. -/
def State.NoClaims (s : State) : Prop := s.waits = [] ∧ ∀ v : VehNo, (s.vehicles.get v).claim = none

/-- A device has just fallen back: SUSPECT with no miss. -/
def State.Rested (s : State) (e : EntryNo) : Prop := (s.devices.get e).state = .suspect ∧ (s.devices.get e).misses = 0

/-- What stays from one state to another: the standing state, the start queue, freedom from claims, the devices at rest, and,
with nothing waiting at the trunk, the runners. -/
structure State.Calm (s t : State) : Prop where
  standing : t.standing = s.standing
  startQueue : t.startQueue = s.startQueue
  roads : s.NoClaims → t.NoClaims
  rested : ∀ e, s.Rested e → t.Rested e
  idle : s.trunk.queue = [] → t.trunk.queue = [] ∧ t.runners = s.runners

theorem State.Calm.refl (s : State) : s.Calm s := ⟨rfl, rfl, id, fun _ => id, fun h => ⟨h, rfl⟩⟩

theorem State.Calm.trans (h : s.Calm t) (g : t.Calm u) : s.Calm u where
  standing := g.standing.trans h.standing
  startQueue := g.startQueue.trans h.startQueue
  roads := fun hn => g.roads (h.roads hn)
  rested := fun e he => g.rested e (h.rested e he)
  idle := fun hq =>
    have ⟨hqueue, hrunners⟩ := h.idle hq
    have ⟨hqueue', hrunners'⟩ := g.idle hqueue
    ⟨hqueue', hrunners'.trans hrunners⟩

/-- Besides, which spurs are in standby, and their counted broadcasts. -/
structure State.Follows (s t : State) : Prop where
  calm : s.Calm t
  spurs : ∀ p : SpurNo, (t.spurs.get p).standby = (s.spurs.get p).standby ∧
    (t.spurs.get p).broadcasts = (s.spurs.get p).broadcasts

theorem State.Follows.refl (s : State) : s.Follows s := ⟨.refl s, fun _ => ⟨rfl, rfl⟩⟩

theorem State.Follows.trans (h : s.Follows t) (g : t.Follows u) : s.Follows u where
  calm := h.calm.trans g.calm
  spurs := fun p => ⟨(g.spurs p).1.trans (h.spurs p).1, (g.spurs p).2.trans (h.spurs p).2⟩

/-- The tables that no start, report or grant of a slot touches. -/
def State.apart (s : State) : List QueuedStart × List WaitEntry × Vector Vehicle 12 × Vector Spur 8 × Vector Device 96 :=
  (s.startQueue, s.waits, s.vehicles, s.spurs, s.devices)

theorem State.follows_of_apart (hs : t.standing = s.standing) (ha : t.apart = s.apart)
    (hidle : s.trunk.queue = [] → t.trunk.queue = [] ∧ t.runners = s.runners) : s.Follows t := by
  simp only [apart, Prod.mk.injEq] at ha
  obtain ⟨hstart, hwaits, hveh, hspurs, hdev⟩ := ha
  refine ⟨⟨hs, hstart, fun h => ⟨hwaits.trans h.1, fun v => by rw [hveh]; exact h.2 v⟩, fun e he => ?_, hidle⟩,
    fun p => by rw [hspurs]; exact ⟨rfl, rfl⟩⟩
  unfold Rested; rw [hdev]; exact he

/-- A change of other tables alone. -/
theorem State.follows_of_eq (hs : t.standing = s.standing) (ha : t.apart = s.apart) (hqueue : t.trunk.queue = s.trunk.queue)
    (hrun : t.runners = s.runners) : s.Follows t := follows_of_apart hs ha fun h => ⟨hqueue.trans h, hrun⟩

theorem State.outputHeld_of_standing (h : t.standing = s.standing) (o : OutNo) (hs : (s.trips.get o).state = .held) :
    (t.trips.get o).state = .held := by
  have hheld : (t.trips.map fun x => x.state == .held) = s.trips.map fun x => x.state == .held := congrArg Standing.held h
  have := congrArg (fun x : Vector Bool 6 => x.get o) hheld
  simpa [hs] using this

theorem State.Loading.of_standing (hl : s.Loading) (h : t.standing = s.standing) : t.Loading :=
  ⟨(mode_of_standing h).trans hl.1, fun o => outputHeld_of_standing h o (hl.2 o)⟩

theorem State.Follows.loading (h : s.Follows t) (hl : s.Loading) : t.Loading := hl.of_standing h.calm.standing

/-- A step that follows whenever the part is in LOADING, item after item. -/
theorem State.follows_forEach {α : Type} {f : State → α → State} (h : ∀ (t : State) a, t.Loading → t.Follows (f t a))
    (l : List α) (hl : s.Loading) : s.Follows (s.forEach l f) := by
  induction l generalizing s with
  | nil => exact .refl s
  | cons a l ih => exact (h s a hl).trans (ih ((h s a hl).loading hl))

theorem State.follows_report (s : State) (r : Report) : s.Follows (s.report r) :=
  follows_of_eq (report_standing ..) rfl rfl rfl

theorem State.follows_modChannel (s : State) (c : ChanNo) {f : Channel → Channel}
    (hf : (f (s.channels.get c)).afterReset = (s.channels.get c).afterReset) : s.Follows (s.modChannel c f) :=
  follows_of_eq (modChannel_standing _ hf) rfl rfl rfl

/-! ### Starts (R156) -/

theorem State.follows_drain (n : Nat) (h : s.Loading) : s.Follows (State.drain n s) := by
  induction n generalizing s with
  | zero => exact .refl s
  | succ n ih =>
    unfold drain
    split
    · exact .refl s
    · next q rest _ =>
      have htake : (({ s with handOffs := rest } : State).apuTake q).1 = ({ s with handOffs := rest } : State).reportDropped q .loading := by
        unfold apuTake; rw [if_pos (show ({ s with handOffs := rest } : State).slp.mode = .loading from h.1)]
      rw [htake]
      have hdrop : s.Follows (({ s with handOffs := rest } : State).reportDropped q .loading) :=
        State.Follows.trans (t := { s with handOffs := rest }) (follows_of_eq rfl rfl rfl rfl) (follows_report _ _)
      exact hdrop.trans (ih (hdrop.loading h))

theorem State.follows_settle (h : s.Loading) : s.Follows s.settle := follows_drain _ h

theorem follows_sendStart (q : List StartReq) (h : s.Loading) : s.Follows (sendStart q s) :=
  State.Follows.trans (t := { s with handOffs := s.handOffs ++ q }) (State.follows_of_eq rfl rfl rfl rfl)
    (State.follows_settle h)

theorem State.follows_startBound (p : Option ProgNo) (z : ZoneNo) (c : StartCause) (h : s.Loading) :
    s.Follows (s.startBound sendStart p z c) := by
  cases p with
  | none => exact .refl s
  | some p => exact follows_sendStart _ h

/-! ### Channels and zones (R6, R7, R38, R41, R43, R149) -/

theorem State.follows_startSummary (z : ZoneNo) (prev new : Summary) (h : s.Loading) :
    s.Follows (s.startSummary sendStart z prev new) := by
  unfold startSummary
  split
  · split
    · exact .refl s
    · exact follows_startBound _ _ _ h
  · split
    · exact follows_startBound _ _ _ h
    · exact .refl s
  · exact .refl s

theorem State.follows_recompute (z : ZoneNo) (h : s.Loading) : s.Follows (s.recompute sendStart z) := by
  unfold recompute
  dsimp only
  split
  · have hreported : s.Follows ((s.modZone z fun x => { x with summary := s.gradeOf z }).reportZone z (s.zones.get z).summary
        (s.zones.get z).view) :=
      State.Follows.trans (t := s.modZone z fun x => { x with summary := s.gradeOf z })
        (follows_of_eq (modZone_standing _ rfl) rfl rfl rfl) (follows_report _ _)
    exact hreported.trans (follows_startSummary _ _ _ (hreported.loading h))
  · exact .refl s

theorem State.follows_raiseDemand (c : ChanNo) (h : s.Loading) : s.Follows (s.raiseDemand sendStart c) := by
  unfold raiseDemand
  split
  · exact .refl s
  · next z _ =>
    cases s.zoneOutput z with
    | none => exact .refl s
    | some o =>
      have hdemand : s.demand o z c = s := if_neg (by rw [h.2 o]; decide)
      show s.Follows (sendStart [] (s.demand o z c))
      rw [hdemand]
      exact follows_sendStart [] h

theorem State.follows_distress (n : StationNo) (c : RefugeCause) (h : s.Loading) : s.Follows (s.distress sendStart n c) := by
  have hreported : s.Follows ((s.modStation n fun x => { x with latched := .distress }).reportRefuge n (s.stations.get n).latched c) :=
    State.Follows.trans (t := s.modStation n fun x => { x with latched := .distress })
      (follows_of_eq (modStation_standing _ rfl) rfl rfl rfl) (follows_report _ _)
  unfold distress
  dsimp only
  split
  · exact hreported
  · refine hreported.trans ?_
    unfold startStation
    cases ((State.reportRefuge _ n (s.stations.get n).latched c).stations.get n).zone with
    | none => exact .refl _
    | some z => exact follows_startBound _ _ _ (hreported.loading h)

theorem State.follows_rfmChannel (c : ChanNo) (prev new : Level) (h : s.Loading) :
    s.Follows (s.rfmChannel sendStart c prev new) := by
  unfold rfmChannel
  split
  · exact follows_forEach (fun t n ht => follows_distress n _ ht) _ h
  · exact .refl s

theorem State.follows_handOn (c : ChanNo) (before : Channel) (h : s.Loading) : s.Follows (s.handOn sendStart c before) := by
  have hreport := follows_report s ⟨.safety, 0x84, num c ++ optNum (s.channelZone c) ++ named levels before.level
    ++ named levels (s.channels.get c).level ++ optNamed faultCauses (s.channels.get c).cause ++ wordField (s.channels.get c).f
    ++ named setClear (s.channels.get c).riseSet ++ named setClear (s.channels.get c).saturated⟩
  have hsum : s.Follows (((s.reportChannel c before.level).channelZone c).elim (s.reportChannel c before.level) fun z =>
      (s.reportChannel c before.level).recompute sendStart z) := by
    cases (s.reportChannel c before.level).channelZone c with
    | none => exact hreport
    | some z => exact hreport.trans (follows_recompute z (hreport.loading h))
  unfold handOn
  dsimp only
  split
  · have hdemand := hsum.trans (follows_raiseDemand c (hsum.loading h))
    exact hdemand.trans (follows_rfmChannel _ _ _ (hdemand.loading h))
  · exact hsum.trans (follows_rfmChannel _ _ _ (hsum.loading h))

theorem State.follows_faultEvent (c : ChanNo) (f : FaultCause) (h : s.Loading) : s.Follows (s.faultEvent sendStart c f) := by
  have hmod : s.Follows (s.modChannel c (Channel.toFault f)) := follows_modChannel s c rfl
  unfold faultEvent
  dsimp only
  split
  · exact .refl s
  · split
    · split
      · exact .refl s
      · exact hmod.trans (follows_report _ _)
    · exact hmod.trans (follows_handOn c _ (hmod.loading h))

theorem State.follows_sample (c : ChanNo) (status : HeadStatus) (raw : Nat) (h : s.Loading) :
    s.Follows (s.sample sendStart c status raw) := by
  have hvalid (v : Nat) (sat : Bool) : s.Follows (s.validSample sendStart c v sat) := by
    have hmod : s.Follows (s.modChannel c fun y => y.enter s.now v sat) := follows_modChannel s c (Channel.enter_afterReset ..)
    unfold validSample
    dsimp only
    split
    · exact hmod
    · exact hmod.trans (follows_handOn c _ (hmod.loading h))
  unfold sample
  dsimp only
  split
  · exact .refl s
  · split
    · exact follows_faultEvent c _ h
    · split
      · exact follows_faultEvent c _ h
      · exact hvalid _ _

theorem State.follows_aruDevice (r : DevRef) (new : DeviceState) (h : s.Loading) : s.Follows (s.aruDevice sendStart r new) := by
  unfold aruDevice
  cases deviceFault new with
  | none => exact .refl s
  | some f => exact follows_forEach (fun t c ht => follows_faultEvent c f ht) _ h

/-- A panel's link (R148). -/
theorem State.follows_rfmDevice (r : DevRef) (new : DeviceState) : s.Follows (s.rfmDevice r new) := by
  have hlink (n : StationNo) : s.Follows (s.modStation n fun y => { y with online := true }) :=
    follows_of_eq (modStation_standing _ rfl) rfl rfl rfl
  have hlost (n : StationNo) : s.Follows (s.modStation n fun y => { y with online := false, door := .unknown }) :=
    follows_of_eq (modStation_standing _ rfl) rfl rfl rfl
  unfold rfmDevice
  split
  · exact .refl s
  · next n _ =>
    dsimp only
    split
    · exact .refl s
    · exact hlink n
    · split
      · exact hlost n
      · exact (hlost n).trans (follows_report _ _)

/-! ### The trunk (R108, R109) -/

theorem State.reportCallNow_apart (s : State) (id : Nat) (prev : Option CallState) (c : CallCause) :
    (s.reportCallNow id prev c).apart = s.apart := by
  unfold reportCallNow; cases s.callOf id <;> rfl

theorem State.granted_apart (s : State) (h : Holder) (k : SlotNo) : (s.granted h k).apart = s.apart := by
  cases h with
  | call id =>
    show (s.csGranted id k).apart = s.apart
    unfold csGranted
    split
    · exact reportCallNow_apart ..
    · exact reportCallNow_apart ..
    · rfl
  | burst v => rfl
  | runner r => rfl

theorem State.grantHead_apart (s : State) (k : SlotNo) (q : List Waiting) : (s.grantHead k q).apart = s.apart := by
  induction q with
  | nil => rfl
  | cons w q ih =>
    unfold grantHead
    split
    · exact granted_apart ..
    · exact ih

theorem State.giveUp_apart (s : State) (h : Holder) : (s.giveUp h).apart = s.apart := by
  show (s.releaseSlot h).apart = s.apart
  unfold releaseSlot
  split
  · rfl
  · unfold slotFreed
    split
    · exact grantHead_apart ..
    · rfl

theorem State.follows_giveUp (s : State) (h : Holder) : s.Follows (s.giveUp h) :=
  follows_of_apart (giveUp_standing s) (giveUp_apart s h) fun hq => by rw [giveUp_idle hq]; exact ⟨hq, rfl⟩

/-! ### Bursts (R141, R144) -/

theorem State.follows_setBurst (s : State) (v : VehNo) (b : Option Burst) : s.Follows (s.setBurst v b) :=
  follows_of_eq (setBurst_standing s) rfl rfl rfl

theorem State.follows_onboardSample (v : VehNo) (raw : Nat) (status : HeadStatus) (h : s.Loading) :
    s.Follows (s.onboardSample sendStart v raw status) := by
  unfold onboardSample
  cases s.onboardChannel v with
  | none => exact .refl s
  | some c => exact follows_sample c status raw h

theorem State.follows_tgComplete (v : VehNo) (b : Burst) (h : s.Loading) : s.Follows (s.tgComplete sendStart v b) := by
  have hgiven := s.follows_giveUp (.burst v)
  have hdone (x : Burst) : s.Follows (((s.giveUp (.burst v)).setBurst v (some x)).reportBurst v x) :=
    (hgiven.trans (follows_setBurst _ v (some x))).trans (follows_report _ _)
  have hrecord (x : Burst) : s.Follows (if ((((s.giveUp (.burst v)).setBurst v (some x)).reportBurst v x).vehicles.get v).configured
      then ((s.giveUp (.burst v)).setBurst v (some x)).reportBurst v x
      else (((s.giveUp (.burst v)).setBurst v (some x)).reportBurst v x).setBurst v none) := by
    split
    · exact hdone x
    · exact (hdone x).trans (follows_setBurst _ v none)
  have hdrop := hrecord { b with
    slot := none, state := .done, outstanding := none, outcome := some ((s.giveUp (.burst v)).q1Outcome v b) }
  unfold tgComplete
  dsimp only
  split
  · exact hdrop.trans (follows_onboardSample v _ _ (hdrop.loading h))
  · exact hdrop

theorem State.follows_tgSettle (v : VehNo) (h : s.Loading) : s.Follows (s.tgSettle sendStart v) := by
  unfold tgSettle
  split
  · exact .refl s
  · next b _ =>
    dsimp only
    generalize (if b.allForwarded = true then { b with forwarding := .forwarded } else b) = b'
    split
    · split
      · have hset := s.follows_setBurst v (some b')
        exact hset.trans (follows_tgComplete v b' (hset.loading h))
      · exact .refl s
    · exact .refl s

theorem State.follows_modSpur (s : State) (p : SpurNo) {f : Spur → Spur} (hs : (f (s.spurs.get p)).standby = (s.spurs.get p).standby)
    (hb : (f (s.spurs.get p)).broadcasts = (s.spurs.get p).broadcasts) : s.Follows (s.modSpur p f) := by
  refine ⟨⟨rfl, rfl, id, fun _ => id, fun hq => ⟨hq, rfl⟩⟩, fun q => ?_⟩
  rw [modSpur_spurs, get_set_entry]
  split
  · next hp => subst hp; exact ⟨hs, hb⟩
  · exact ⟨rfl, rfl⟩

theorem State.follows_queueFetch (s : State) (f : Fetch) : s.Follows (s.queueFetch f) := follows_modSpur s _ rfl rfl

theorem State.follows_fetchNext (s : State) (v : VehNo) : s.Follows (s.fetchNext v) := by
  unfold fetchNext
  split
  · next b r _ _ =>
    exact (follows_setBurst s v _).trans (follows_queueFetch _ _)
  · exact follows_setBurst s v _

theorem State.follows_takeMiss (s : State) (v : VehNo) : s.Follows (s.takeMiss v) := by
  have hmissed : s.Follows (s.modBurst v fun b => { b with misses := b.misses + 1, outstanding := none }) := follows_setBurst s v _
  unfold takeMiss
  dsimp only
  split
  · exact hmissed.trans (follows_setBurst _ v _)
  · exact hmissed.trans (follows_fetchNext _ v)

/-- The answer MISS of a fetch. -/
theorem State.follows_answerMiss (f : Fetch) (h : s.Loading) : s.Follows (s.tgAnswer sendStart f .miss) := by
  unfold tgAnswer
  split
  · have hmissed := s.follows_takeMiss f.vehicle
    exact hmissed.trans (follows_tgSettle _ (hmissed.loading h))
  · exact .refl s

theorem State.follows_tgBeacon (r : DevRef) (new : DeviceState) (h : s.Loading) : s.Follows (s.tgBeacon sendStart r new) := by
  unfold tgBeacon
  split
  · refine follows_forEach (fun t v ht => ?_) _ h
    split
    · have hended := t.follows_setBurst v ((t.bursts.get v).map fun b => { b with gatherEnd := some .beaconFailed, outstanding := none })
      exact hended.trans (follows_tgSettle v (hended.loading ht))
    · exact .refl t
  · exact .refl s

/-! ### The haulage (R118, R126, R129) -/

theorem State.follows_of_offRoad (hs : t.standing = s.standing) (ho : t.offRoad = s.offRoad) (hn : s.NoClaims → t.NoClaims) :
    s.Follows t := by
  have hkept : (t.startQueue, t.spurs, t.devices, t.trunk, t.runners) = (s.startQueue, s.spurs, s.devices, s.trunk, s.runners) :=
    (congrArg (fun x : State => (x.startQueue, x.spurs, x.devices, x.trunk, x.runners)) ho :)
  simp only [Prod.mk.injEq] at hkept
  obtain ⟨hstart, hspurs, hdev, htrunk, hrun⟩ := hkept
  refine ⟨⟨hs, hstart, hn, fun e he => ?_, fun hq => ⟨by rw [htrunk]; exact hq, hrun⟩⟩, fun p => by rw [hspurs]; exact ⟨rfl, rfl⟩⟩
  unfold Rested; rw [hdev]; exact he

theorem State.releaseAll_noClaims (l : List JuncNo) (h : s.NoClaims) : (s.releaseAll l).NoClaims := by
  have hwalked : (s.forEach l releaseWalk).waits = s.waits ∧ (s.forEach l releaseWalk).vehicles = s.vehicles := by
    have hone (t : State) (j : JuncNo) : ((t.releaseWalk j).waits, (t.releaseWalk j).vehicles) = (t.waits, t.vehicles) := by
      unfold releaseWalk; dsimp only; split <;> rfl
    have := forEach_keeps (fun t : State => (t.waits, t.vehicles)) hone l s
    exact ⟨congrArg Prod.fst this, congrArg Prod.snd this⟩
  unfold releaseAll
  split
  · exact h
  · dsimp only
    rw [hwalked.1, h.1]
    exact ⟨hwalked.1.trans h.1, fun v => by
      rw [show (State.forEach (s.forEach l releaseWalk) [] scanEntry).vehicles = s.vehicles from hwalked.2]; exact h.2 v⟩

theorem State.follows_releaseAll (s : State) (l : List JuncNo) : s.Follows (s.releaseAll l) :=
  follows_of_offRoad (by simp) (releaseAll_offRoad s l) (releaseAll_noClaims l)

theorem State.abort_waits (s : State) (v : VehNo) (c : AbortCause) : (s.abort v c).1.waits = s.waits.filter fun w => w.vehicle != v := by
  rw [abort_eq]; dsimp only; split <;> rfl

theorem State.abort_vehicles (s : State) (v : VehNo) (c : AbortCause) :
    (s.abort v c).1.vehicles = s.vehicles.set v (s.vehicles.get v).released := by
  have hfold : ∀ l : List JuncNo, (l.foldl (fun (t : State) j => t.modJunction j dropHolder) s).vehicles = s.vehicles :=
    fun l => forEach_keeps State.vehicles (f := fun t j => t.modJunction j dropHolder) (fun _ _ => rfl) l s
  have hgiven : (s.givenUp v).vehicles = s.vehicles.set v (s.vehicles.get v).released := by unfold givenUp; simp [hfold]
  rw [abort_eq]; dsimp only; split <;> exact hgiven

/-- An abort leaves a vehicle without a claim, and no other with one. -/
theorem State.abort_claim (s : State) (v w : VehNo) (c : AbortCause) : ((s.abort v c).1.vehicles.get w).claim =
    if v = w then none else (s.vehicles.get w).claim := by
  rw [abort_vehicles, get_set_entry]
  split
  · rfl
  · rfl

theorem State.abort_noClaims (v : VehNo) (c : AbortCause) (h : s.NoClaims) : (s.abort v c).1.NoClaims :=
  ⟨by rw [abort_waits, h.1]; rfl, fun w => by rw [abort_claim]; split; · rfl
                                              · exact h.2 w⟩

theorem State.follows_abort (s : State) (v : VehNo) (c : AbortCause) : s.Follows (s.abort v c).1 :=
  follows_of_offRoad (by simp) (abort_offRoad s v c) (abort_noClaims v c)

theorem State.follows_abortWhole (s : State) (v : VehNo) (c : AbortCause) : s.Follows (s.abortWhole v c) :=
  (s.follows_abort v c).trans (follows_releaseAll ..)

theorem State.follows_modJunction (s : State) (j : JuncNo) {f : Junction → Junction}
    (hf : (f (s.junctions.get j)).afterReset = (s.junctions.get j).afterReset) : s.Follows (s.modJunction j f) :=
  follows_of_eq (modJunction_standing _ hf) rfl rfl rfl

theorem State.follows_failJunction (s : State) (j : JuncNo) : s.Follows (s.failJunction j) := by
  have hfailed : s.Follows (s.modJunction j fun x => { x with state := .failed }) := follows_modJunction s j (by simp [Junction.afterReset])
  have hlost (t : State) : t.Follows ((t.modJunction j Junction.beaconLost).reportJunction j) :=
    (follows_modJunction t j rfl).trans (follows_report _ _)
  by_cases h : ∃ v, (s.junctions.get j).holder = .claim v
  · obtain ⟨v, hv⟩ := h
    rw [failJunction_claimed hv]
    exact (hfailed.trans (follows_abortWhole ..)).trans (hlost _)
  · rw [failJunction_unclaimed (not_exists.mp h)]
    exact hfailed.trans (hlost _)

theorem State.follows_serveJunction (s : State) (j : JuncNo) : s.Follows (s.serveJunction j) := by
  have hserved : s.Follows (s.modJunction j fun x => { x with state := .inService, fresh := false }) :=
    follows_modJunction s j rfl
  unfold serveJunction
  dsimp only
  split
  · exact hserved.trans (follows_releaseAll ..)
  · exact (hserved.trans (follows_report _ _)).trans (follows_releaseAll ..)

theorem State.follows_hlcBeacon (s : State) (r : DevRef) (new : DeviceState) : s.Follows (s.hlcBeacon r new) := by
  unfold hlcBeacon
  split
  · exact .refl s
  · split
    · exact follows_serveJunction ..
    · exact follows_failJunction ..
    · exact follows_failJunction ..
    · exact .refl s

/-! ### Devices and spurs (R169, R172, R173, R176) -/

theorem State.follows_handDevice (e : EntryNo) (h : s.Loading) : s.Follows (s.handDevice e) := by
  unfold handDevice
  dsimp only
  split
  · exact follows_aruDevice _ _ h
  · exact .refl s
  · have hjunction := s.follows_hlcBeacon (s.devices.get e).ref (s.devices.get e).state
    exact hjunction.trans (follows_tgBeacon _ _ (hjunction.loading h))
  · exact follows_rfmDevice ..

theorem State.follows_beginPoll (s : State) (p : SpurNo) (e : EntryNo) : s.Follows (s.beginPoll p e) := follows_modSpur s p rfl rfl

theorem State.follows_beginRound (s : State) (p : SpurNo) : s.Follows (s.beginRound p) := by
  have hzero : s.Follows (s.modSpur p fun x => { x with passed := 0 }) := follows_modSpur s p rfl rfl
  unfold beginRound
  dsimp only
  split
  · exact hzero.trans (follows_beginPoll ..)
  · exact hzero.trans (follows_modSpur _ p rfl rfl)

theorem State.follows_pollOn (s : State) (p : SpurNo) : s.Follows (s.pollOn p) := by
  unfold pollOn
  split
  · exact follows_beginPoll ..
  · split
    · exact follows_beginRound ..
    · exact State.Follows.trans (t := s.endRound p) (follows_modSpur s p rfl rfl) (follows_beginRound ..)

theorem State.follows_takeFetch (p : SpurNo) (n : Nat) (h : s.Loading) : s.Follows (s.takeFetch p n).1 := by
  induction n generalizing s with
  | zero => exact .refl s
  | succ n ih =>
    unfold takeFetch
    split
    · exact .refl s
    · next f rest _ =>
      have hleft : s.Follows (s.modSpur p fun x => { x with fetches := rest }) := follows_modSpur s p rfl rfl
      dsimp only
      split
      · have hmiss := hleft.trans (follows_answerMiss f (hleft.loading h))
        exact hmiss.trans (ih (hmiss.loading h))
      · split
        · exact hleft.trans (ih (hleft.loading h))
        · refine hleft.trans ?_
          dsimp only
          exact follows_modSpur _ p rfl rfl

theorem State.follows_spurNext (p : SpurNo) (m : Bool) (h : s.Loading) : s.Follows (s.spurNext p m) := by
  have htaken : s.Follows (if m then s.takeFetch p 64 else (s, false)).1 := by
    split
    · exact follows_takeFetch p 64 h
    · exact .refl s
  unfold spurNext
  split
  · exact .refl s
  · generalize (if m then s.takeFetch p 64 else (s, false)) = found at htaken
    obtain ⟨t, taken⟩ := found
    dsimp only at htaken ⊢
    split
    · exact htaken
    · exact htaken.trans (follows_pollOn ..)

theorem State.follows_dropTransaction (p : SpurNo) (h : s.Loading) : s.Follows (s.dropTransaction p) := by
  have hidle : s.Follows (s.modSpur p fun x => { x with underWay := none }) := follows_modSpur s p rfl rfl
  unfold dropTransaction
  split
  · exact .refl s
  · dsimp only
    split
    · exact hidle.trans (follows_answerMiss _ (hidle.loading h))
    · exact hidle

/-! ### The broadcast reset (R176) -/

theorem State.pollList_of_standing (h : t.standing = s.standing) (p : SpurNo) : t.pollList p = s.pollList p := by
  have hplace (e : EntryNo) : (t.devices.get e).configured = (s.devices.get e).configured ∧
      (t.devices.get e).ref = (s.devices.get e).ref := by
    have := settings_of_standing h e
    simp only [Device.settings, Device.mk.injEq] at this
    exact ⟨this.1, this.2.1⟩
  unfold pollList deviceAt
  simp only [hplace]

theorem State.follows_modDevice (s : State) (e : EntryNo) {f : Device → Device}
    (hf : (f (s.devices.get e)).settings = (s.devices.get e).settings)
    (hr : s.Rested e → (f (s.devices.get e)).state = .suspect ∧ (f (s.devices.get e)).misses = 0) : s.Follows (s.modDevice e f) := by
  refine ⟨⟨modDevice_standing _ hf, rfl, id, fun g hg => ?_, fun hq => ⟨hq, rfl⟩⟩, fun _ => ⟨rfl, rfl⟩⟩
  unfold Rested
  rw [modDevice_devices, get_set_entry]
  split
  · next h => subst h; exact hr hg
  · exact hg

theorem State.follows_fallBack (p : SpurNo) (h : s.Loading) : s.Follows (s.fallBack p) :=
  follows_forEach (fun t e _ => follows_modDevice t e rfl id) _ h

/-- A device falls back, and its owner is told. -/
theorem State.follows_suspected (e : EntryNo) (h : s.Loading) :
    s.Follows (s.deviceTo e .suspect 0 none) ∧ (s.deviceTo e .suspect 0 none).Rested e := by
  have hmod : s.Follows (s.modDevice e fun d => { d with state := .suspect, misses := 0 }) :=
    follows_modDevice s e rfl fun _ => ⟨rfl, rfl⟩
  have hrested : (s.modDevice e fun d => { d with state := .suspect, misses := 0 }).Rested e := by
    unfold Rested; rw [modDevice_devices, get_set_entry, if_pos rfl]; exact ⟨rfl, rfl⟩
  rw [deviceTo_quiet (by decide)]
  split
  · exact ⟨hmod, hrested⟩
  · have hand := follows_handDevice e (hmod.loading h)
    exact ⟨hmod.trans hand, hand.calm.rested e hrested⟩

theorem State.devicesTo_suspected (p : SpurNo) (h : s.Loading) :
    s.Follows (s.devicesTo p .suspect) ∧ ∀ e ∈ s.pollList p, (s.devicesTo p .suspect).Rested e := by
  have hlist (l : List EntryNo) (t : State) (ht : t.Loading) :
      t.Follows (t.forEach l fun u e => u.deviceTo e .suspect 0 none) ∧
        ∀ e ∈ l, (t.forEach l fun u e => u.deviceTo e .suspect 0 none).Rested e := by
    induction l generalizing t with
    | nil => exact ⟨.refl t, by simp⟩
    | cons e l ih =>
      obtain ⟨hfirst, hrested⟩ := follows_suspected e ht
      obtain ⟨hrest, hall⟩ := ih _ (hfirst.loading ht)
      exact ⟨hfirst.trans hrest, List.forall_mem_cons.mpr ⟨hrest.calm.rested e hrested, hall⟩⟩
  exact hlist _ s h

/-- What the broadcast reset of a spur makes of the part. -/
structure State.HasBroadcast (s t : State) (l : List SpurNo) : Prop where
  calm : s.Calm t
  standby : ∀ p : SpurNo, (t.spurs.get p).standby = (s.spurs.get p).standby
  counted : ∀ p ∈ l, (s.spurs.get p).standby = false → (t.spurs.get p).broadcasts = (s.spurs.get p).broadcasts + 1
  others : ∀ p ∉ l, (t.spurs.get p).broadcasts = (s.spurs.get p).broadcasts
  rested : ∀ p ∈ l, (s.spurs.get p).standby = false → ∀ e ∈ s.pollList p, t.Rested e

theorem State.broadcast_hasBroadcast (p : SpurNo) (h : s.Loading) : s.HasBroadcast (s.broadcast p) [p] := by
  cases hst : (s.spurs.get p).standby with
  | true =>
    have hsame : s.broadcast p = s := if_pos hst
    rw [hsame]
    refine ⟨.refl s, fun _ => rfl, fun q hq hno => ?_, fun _ _ => rfl, fun q hq hno => ?_⟩
    · rw [List.mem_singleton.mp hq, hst] at hno; cases hno
    · rw [List.mem_singleton.mp hq, hst] at hno; cases hno
  | false =>
    have hdrop := follows_dropTransaction p h
    have hcount : (s.dropTransaction p).Calm ((s.dropTransaction p).modSpur p fun x => { x with
        counter := 0, broadcasts := x.broadcasts + 1 }) := ⟨rfl, rfl, id, fun _ => id, fun hq => ⟨hq, rfl⟩⟩
    have hsent := hdrop.calm.trans hcount
    have hfall := follows_fallBack p (h.of_standing hsent.standing)
    have hfallen := hsent.trans hfall.calm
    obtain ⟨hsusp, hall⟩ := devicesTo_suspected p (h.of_standing hfallen.standing)
    have hlast : ∀ t : State, t.Loading → t.Follows ((s.spurs.get p).underWay.elim t fun x => t.spurNext p x.isPoll) := fun t ht => by
      cases (s.spurs.get p).underWay with
      | none => exact .refl t
      | some x => exact follows_spurNext p _ ht
    have hnext := hlast _ (h.of_standing (hfallen.trans hsusp.calm).standing)
    have hafter := (hfall.trans hsusp).trans hnext
    have hresult : s.broadcast p = (s.spurs.get p).underWay.elim
        ((((s.dropTransaction p).modSpur p fun x => { x with counter := 0, broadcasts := x.broadcasts + 1 }).fallBack p).devicesTo p
          .suspect)
        fun x => ((((s.dropTransaction p).modSpur p fun x => { x with
          counter := 0, broadcasts := x.broadcasts + 1 }).fallBack p).devicesTo p .suspect).spurNext p x.isPoll := broadcast_active hst
    rw [hresult]
    refine ⟨hsent.trans hafter.calm, fun q => ?_, fun q hq _ => ?_, fun q hq => ?_, fun q hq _ e he => ?_⟩
    · rw [(hafter.spurs q).1, ← (hdrop.spurs q).1, modSpur_spurs, get_set_entry]
      split
      · next hpq => subst hpq; rfl
      · rfl
    · rw [List.mem_singleton.mp hq, (hafter.spurs p).2, modSpur_get, (hdrop.spurs p).2]
    · rw [(hafter.spurs q).2, ← (hdrop.spurs q).2, modSpur_spurs, get_set_entry, if_neg fun hpq => hq (by simp [hpq])]
    · rw [List.mem_singleton.mp hq] at he
      exact hnext.calm.rested e (hall e (by rw [pollList_of_standing hfallen.standing]; exact he))

theorem State.broadcasts_hasBroadcast {l : List SpurNo} (hl : l.Nodup) (h : s.Loading) :
    s.HasBroadcast (l.foldl State.broadcast s) l := by
  induction l generalizing s with
  | nil => exact ⟨.refl s, fun _ => rfl, by simp, fun _ _ => rfl, by simp⟩
  | cons p l ih =>
    obtain ⟨hp, hl⟩ := List.nodup_cons.mp hl
    have hone := broadcast_hasBroadcast p h
    have hrest := ih hl (h.of_standing hone.calm.standing)
    refine ⟨hone.calm.trans hrest.calm, fun q => (hrest.standby q).trans (hone.standby q), fun q hq hst => ?_, fun q hq => ?_,
      fun q hq hst e he => ?_⟩
    · rcases List.mem_cons.mp hq with rfl | hq
      · exact (hrest.others q hp).trans (hone.counted q (by simp) hst)
      · have hne : q ∉ [p] := fun h => hp (List.mem_singleton.mp h ▸ hq)
        rw [List.foldl_cons, hrest.counted q hq ((hone.standby q).trans hst), hone.others q hne]
    · obtain ⟨hqp, hql⟩ := not_or.mp (mt List.mem_cons.mpr hq)
      exact (hrest.others q hql).trans (hone.others q (by simpa using hqp))
    · rcases List.mem_cons.mp hq with rfl | hq
      · exact hrest.calm.rested e (hone.rested q (by simp) hst e he)
      · exact hrest.rested q hq ((hone.standby q).trans hst) e (by rw [pollList_of_standing hone.calm.standing]; exact he)

end loading

/-! ## The phases of ENTER_LOADING before the broadcasts (R59, R133, R166) -/

section phases
variable {s t : State}

/-! ### The trip outputs -/

/-- What a change of an output leaves alone besides the standing state. -/
def State.beside (s : State) : Vector Spur 8 × Trunk × Vector Runner 4 := (s.spurs, s.trunk, s.runners)

theorem State.warn_beside (s : State) (o : OutNo) (b : Bool) : (s.warn o b).beside = s.beside := by
  unfold warn; split
  · rfl
  · dsimp only; split
    · rfl
    · split <;> rfl

theorem State.followOutput_beside (s : State) (z : ZoneNo) : (s.followOutput z).beside = s.beside := by
  obtain ⟨q, h⟩ := s.followOutput_frame z
  rw [h]
  exact (congrArg State.beside (updateView_offRoad s z) :)

theorem State.moveTrip_beside (s : State) (o : OutNo) (new : TripState) (cause : TripCause) :
    (s.moveTrip o new cause).beside = s.beside :=
  (forEach_keeps State.beside followOutput_beside _ _).trans (warn_beside ..)

theorem State.tcuLoading_beside (s : State) : s.tcuLoading.beside = s.beside := by
  refine forEach_keeps State.beside (fun t o => ?_) _ s
  split
  · rfl
  · exact moveTrip_beside ..

/-- Every output is HELD once the mode is LOADING. -/
theorem State.tcuLoading_loading (s : State) : ((s.setMode .loading).tcuLoading).Loading := by
  have h := (s.setMode .loading).tcuLoading_standing
  refine ⟨(mode_of_standing h).trans rfl, fun o => ?_⟩
  have hheld : ((s.setMode .loading).tcuLoading.trips.map fun x => x.state == .held) = Vector.replicate 6 true := congrArg Standing.held h
  have := congrArg (fun x : Vector Bool 6 => x.get o) hheld
  simpa using this

/-! ### The programs -/

theorem State.leaves_beside (s : State) (r : RunnerNo) :
    (((s.leaveDrivers r).forEach (allOf 4) fun t n => t.leaveStrobe n r).apart,
      ((s.leaveDrivers r).forEach (allOf 4) fun t n => t.leaveStrobe n r).beside) = (s.apart, s.beside) :=
  leaves_keeps (fun t => (t.apart, t.beside)) (fun _ _ _ => rfl) fun _ _ _ => rfl

theorem State.report_apart (s : State) (r : Report) : (s.report r).apart = s.apart := rfl

theorem State.report_beside (s : State) (r : Report) : (s.report r).beside = s.beside := rfl

theorem State.modRunner_apart (s : State) (r : RunnerNo) (f : Runner → Runner) : (s.modRunner r f).apart = s.apart := rfl

theorem State.endRun_apart (s : State) (r : RunnerNo) (reason : EndReason) (next : Option Nat) (n : Nat) :
    (s.endRun r reason next n).apart = s.apart := by
  unfold endRun
  dsimp only
  split
  · unfold reportProgramEnd
    rw [report_apart, modRunner_apart, giveUp_apart]
    exact (Prod.mk.inj (leaves_beside s r)).1
  · rfl

theorem State.cutShort_apart (s : State) (r : RunnerNo) (reason : EndReason) : (s.cutShort r reason).apart = s.apart :=
  endRun_apart ..

/-- With nothing waiting at the trunk a run cut short ends, and no other runner is touched. -/
theorem State.cutShort_idles {r : RunnerNo} {reason : EndReason} (hq : s.trunk.queue = [])
    (hf : (s.runners.get r).program ≠ none ∧ (s.runners.get r).zone ≠ none ∧ (s.runners.get r).cause ≠ none) :
    (s.cutShort r reason).trunk.queue = [] ∧ ((s.cutShort r reason).runners.get r).state = .idle ∧
      ∀ q, q ≠ r → (s.cutShort r reason).runners.get q = s.runners.get q := by
  obtain ⟨⟨p, hp⟩, ⟨z, hz⟩, c, hc⟩ := And.imp Option.ne_none_iff_exists'.mp (And.imp Option.ne_none_iff_exists'.mp
    Option.ne_none_iff_exists'.mp) hf
  have hrunners : ((s.leaveDrivers r).forEach (allOf 4) fun t n => t.leaveStrobe n r).runners = s.runners :=
    congrArg (fun x => x.2.2.2) (leaves_beside s r)
  have hend := endRun_idle (reason := reason) (next := (s.runners.get r).current.bind fun i =>
    (s.stepAt i).bind fun st => nextStep i st true) (residual := s.residual (s.runners.get r)) hp hz hc hq
  have hcut : s.cutShort r reason = _ := hend
  rw [hcut]
  refine ⟨hq, ?_, fun q hqr => ?_⟩
  · simp [reportProgramEnd]
  · simp [reportProgramEnd, hrunners, Ne.symm hqr]

/-- The runs that end at ENTER_LOADING, one runner after another. -/
def State.cutRun (t : State) (r : RunnerNo) : State := if (t.runners.get r).running then t.cutShort r .loading else t

/-- The start queue cleared, each entry with its report. -/
def State.dropQueued (s : State) : State := { (s.startQueue.foldl (fun t q => t.reportDropped q.req .loading) s) with startQueue := [] }

theorem State.dropQueued_apart (s : State) : s.dropQueued.apart = ([], s.waits, s.vehicles, s.spurs, s.devices) := by
  have hreports := forEach_keeps State.apart (f := fun t q => t.reportDropped q.req .loading) (fun t _ => report_apart t _)
    s.startQueue s
  simp only [apart, forEach, dropQueued, Prod.mk.injEq] at hreports ⊢
  exact ⟨trivial, hreports.2⟩

theorem State.dropQueued_beside (s : State) : s.dropQueued.beside = s.beside := by
  have hreports := forEach_keeps State.beside (f := fun t q => t.reportDropped q.req .loading) (fun t _ => report_beside t _)
    s.startQueue s
  simp only [beside, forEach, dropQueued] at hreports ⊢
  exact hreports

theorem State.apuLoading_eq (s : State) : s.apuLoading = (List.finRange 4).foldl cutRun s.dropQueued := rfl

theorem State.cutRun_apart (t : State) (r : RunnerNo) : (t.cutRun r).apart = t.apart := by
  unfold cutRun; split
  · exact cutShort_apart ..
  · rfl

theorem State.apuLoading_apart (s : State) :
    s.apuLoading.apart = ([], s.waits, s.vehicles, s.spurs, s.devices) := by
  rw [apuLoading_eq]
  exact (forEach_keeps State.apart cutRun_apart (List.finRange 4) s.dropQueued).trans s.dropQueued_apart

theorem Runner.running_iff (x : Runner) : x.running = true ↔ x.state ≠ .idle := by unfold running; exact bne_iff_ne

/-- The runs end when each has its program, its zone and its cause. -/
theorem State.cutRuns_idle {l : List RunnerNo} (hl : l.Nodup) (hq : s.trunk.queue = [])
    (hf : ∀ r, (s.runners.get r).state ≠ .idle →
      (s.runners.get r).program ≠ none ∧ (s.runners.get r).zone ≠ none ∧ (s.runners.get r).cause ≠ none) :
    (l.foldl cutRun s).trunk.queue = [] ∧ (∀ r ∈ l, ((l.foldl cutRun s).runners.get r).state = .idle) ∧
      ∀ r ∉ l, (l.foldl cutRun s).runners.get r = s.runners.get r := by
  induction l generalizing s with
  | nil => exact ⟨hq, by simp, fun _ _ => rfl⟩
  | cons r l ih =>
    obtain ⟨hr, hl⟩ := List.nodup_cons.mp hl
    have hone : (s.cutRun r).trunk.queue = [] ∧ ((s.cutRun r).runners.get r).state = .idle ∧
        ∀ q, q ≠ r → (s.cutRun r).runners.get q = s.runners.get q := by
      unfold cutRun
      by_cases hrun : (s.runners.get r).running = true
      · rw [if_pos hrun]
        exact cutShort_idles hq (hf r ((Runner.running_iff _).mp hrun))
      · rw [if_neg hrun]
        exact ⟨hq, not_not.mp (mt (Runner.running_iff _).mpr hrun), fun _ _ => rfl⟩
    obtain ⟨hqueue, hidle, hothers⟩ := hone
    obtain ⟨hqueue', hall, hkept⟩ := ih hl hqueue fun q hqi => by
      by_cases hqr : q = r
      · subst hqr; exact absurd hidle hqi
      · rw [hothers q hqr] at hqi ⊢; exact hf q hqi
    refine ⟨hqueue', List.forall_mem_cons.mpr ⟨?_, hall⟩, fun q hq => ?_⟩
    · rw [List.foldl_cons, hkept r hr]; exact hidle
    · obtain ⟨hqr, hql⟩ := not_or.mp (mt List.mem_cons.mpr hq)
      exact (hkept q hql).trans (hothers q hqr)

theorem State.apuLoading_idle (hq : s.trunk.queue = []) (hf : ∀ r, (s.runners.get r).state ≠ .idle →
    (s.runners.get r).program ≠ none ∧ (s.runners.get r).zone ≠ none ∧ (s.runners.get r).cause ≠ none) :
    s.apuLoading.trunk.queue = [] ∧ ∀ r, (s.apuLoading.runners.get r).state = .idle := by
  have hbeside := s.dropQueued_beside
  simp only [beside, Prod.mk.injEq] at hbeside
  obtain ⟨-, htrunk, hrunners⟩ := hbeside
  obtain ⟨hqueue, hidle, -⟩ := cutRuns_idle (s := s.dropQueued) (List.nodup_finRange 4) (by rw [htrunk]; exact hq)
    (by rw [hrunners]; exact hf)
  rw [apuLoading_eq]
  exact ⟨hqueue, fun r => hidle r (List.mem_finRange r)⟩

/-! ### The haulage -/

theorem State.aborts_waits (l : List VehNo) (s : State) :
    (s.forEach l fun t v => (t.abort v .loading).1).waits = s.waits.filter fun w => w.vehicle ∉ l := by
  induction l generalizing s with
  | nil => simp [forEach]
  | cons v l ih =>
    refine (ih _).trans ?_
    rw [abort_waits, List.filter_filter]
    refine List.filter_congr fun w _ => ?_
    rw [Bool.eq_iff_iff]
    simp [and_comm]

/-- A claim is aborted with the junctions it gives up. -/
def State.abortClaim (acc : State × List JuncNo) (v : VehNo) : State × List JuncNo :=
  ((acc.1.abort v .loading).1, acc.2 ++ (acc.1.abort v .loading).2)

theorem State.abortClaims_eq (s : State) : s.abortClaims =
    ((List.finRange 12).filter fun v => (s.vehicles.get v).claim.isSome).foldl abortClaim (s, []) := rfl

theorem State.abortClaims_offRoad (l : List VehNo) (acc : State × List JuncNo) :
    (l.foldl abortClaim acc).1.offRoad = acc.1.offRoad ∧ (l.foldl abortClaim acc).1.standing = acc.1.standing := by
  induction l generalizing acc with
  | nil => exact ⟨rfl, rfl⟩
  | cons v l ih =>
    obtain ⟨hroad, hstanding⟩ := ih (abortClaim acc v)
    exact ⟨hroad.trans (abort_offRoad ..), hstanding.trans (abort_standing ..)⟩

theorem State.abortClaims_free (l : List VehNo) (acc : State × List JuncNo) (hw : acc.1.waits = [])
    (hc : ∀ v ∉ l, (acc.1.vehicles.get v).claim = none) : (l.foldl abortClaim acc).1.NoClaims := by
  induction l generalizing acc with
  | nil => exact ⟨hw, fun v => hc v (by simp)⟩
  | cons v l ih =>
    refine ih _ ?_ fun w hwl => ?_
    · show ((acc.1.abort v .loading).1).waits = []
      rw [abort_waits, hw]; rfl
    · show (((acc.1.abort v .loading).1).vehicles.get w).claim = none
      rw [abort_claim]
      split
      · rfl
      · next hvw => exact hc w (by simp [hwl, Ne.symm hvw])

/-- Nobody waits for a route and nobody has one once the haulage has taken ENTER_LOADING. -/
theorem State.hlcLoading_noClaims (s : State) : s.hlcLoading.NoClaims := by
  have hwaits : (s.forEach (s.waits.map fun w => w.vehicle) fun t v => (t.abort v .loading).1).waits = [] := by
    rw [aborts_waits]
    refine List.filter_eq_nil_iff.mpr fun w hw => ?_
    simpa using ⟨w, hw, rfl⟩
  refine releaseAll_noClaims _ ?_
  show (State.abortClaims _).1.NoClaims
  rw [abortClaims_eq]
  refine abortClaims_free _ _ hwaits fun v hv => ?_
  by_contra hsome
  exact hv (List.mem_filter.mpr ⟨List.mem_finRange v, Option.isSome_iff_ne_none.mpr hsome⟩)

theorem State.hlcLoading_offRoad (s : State) : s.hlcLoading.offRoad = s.offRoad := by
  refine (releaseAll_offRoad _ _).trans ((abortClaims_offRoad _ _).1.trans ?_)
  exact forEach_keeps State.offRoad (fun t v => abort_offRoad t v .loading) _ s

/-! ### All of ENTER_LOADING -/

/-- The part before the first broadcast reset. -/
def State.beforeBroadcasts (s : State) : State := (s.setMode .loading).tcuLoading.apuLoading.hlcLoading

theorem State.before_standing (s : State) : s.beforeBroadcasts.standing = ((s.setMode .loading).tcuLoading).standing :=
  (hlcLoading_standing _).trans (apuLoading_standing _)

theorem State.before_loading (s : State) : s.beforeBroadcasts.Loading := s.tcuLoading_loading.of_standing s.before_standing

theorem State.before_configuration (s : State) : s.beforeBroadcasts.configuration = s.configuration := by
  have htrips : ((s.setMode .loading).tcuLoading).standing.configuration = s.configuration :=
    congrArg Standing.configuration (s.setMode .loading).tcuLoading_standing
  exact (congrArg Standing.configuration s.before_standing).trans htrips

theorem State.pollList_of_configuration (h : t.configuration = s.configuration) (p : SpurNo) : t.pollList p = s.pollList p := by
  have hplace (e : EntryNo) : (t.devices.get e).configured = (s.devices.get e).configured ∧
      (t.devices.get e).ref = (s.devices.get e).ref := by
    have hdevices : t.devices.map Device.settings = s.devices.map Device.settings := congrArg Configuration.devices h
    have := congrArg (fun x : Vector Device 96 => x.get e) hdevices
    simp only [Vector.get_map, Device.settings, Device.mk.injEq] at this
    exact ⟨this.1, this.2.1⟩
  unfold pollList deviceAt
  simp only [hplace]

theorem State.beside_of_offRoad (ho : t.offRoad = s.offRoad) : (t.startQueue, t.beside) = (s.startQueue, s.beside) :=
  (congrArg (fun x : State => (x.startQueue, x.beside)) ho :)

theorem State.before_hlc (s : State) : (s.beforeBroadcasts.startQueue, s.beforeBroadcasts.beside) =
    ((s.setMode .loading).tcuLoading.apuLoading.startQueue, (s.setMode .loading).tcuLoading.apuLoading.beside) :=
  beside_of_offRoad (hlcLoading_offRoad _)

theorem State.before_startQueue (s : State) : s.beforeBroadcasts.startQueue = [] :=
  (Prod.mk.inj s.before_hlc).1.trans (Prod.mk.inj (apuLoading_apart _)).1

theorem State.before_spurs (s : State) : s.beforeBroadcasts.spurs = s.spurs := by
  have hhlc : s.beforeBroadcasts.spurs = (s.setMode .loading).tcuLoading.apuLoading.spurs :=
    (Prod.mk.inj (Prod.mk.inj s.before_hlc).2).1
  have hapu := apuLoading_apart (s.setMode .loading).tcuLoading
  simp only [apart, Prod.mk.injEq] at hapu
  obtain ⟨-, -, -, hspurs, -⟩ := hapu
  exact hhlc.trans (hspurs.trans (Prod.mk.inj (tcuLoading_beside (s.setMode .loading))).1)

/-- Every runner is IDLE, when nothing waits at the trunk and each run has its program, its zone and its cause. -/
theorem State.before_idle (hq : s.trunk.queue = []) (hf : ∀ r, (s.runners.get r).state ≠ .idle →
    (s.runners.get r).program ≠ none ∧ (s.runners.get r).zone ≠ none ∧ (s.runners.get r).cause ≠ none) :
    s.beforeBroadcasts.trunk.queue = [] ∧ ∀ r, (s.beforeBroadcasts.runners.get r).state = .idle := by
  obtain ⟨-, htrunk, hrunners⟩ : _ ∧ (s.setMode .loading).tcuLoading.trunk = s.trunk ∧
      (s.setMode .loading).tcuLoading.runners = s.runners := by
    have := tcuLoading_beside (s.setMode .loading)
    simp only [beside, Prod.mk.injEq] at this
    exact this
  obtain ⟨hqueue, hidle⟩ := apuLoading_idle (s := (s.setMode .loading).tcuLoading) (by rw [htrunk]; exact hq)
    (by rw [hrunners]; exact hf)
  have hhlc := (Prod.mk.inj s.before_hlc).2
  simp only [beside, Prod.mk.injEq] at hhlc
  obtain ⟨-, htrunk', hrunners'⟩ := hhlc
  rw [htrunk', hrunners']
  exact ⟨hqueue, hidle⟩

theorem State.enterLoading_hasBroadcast (s : State) : s.beforeBroadcasts.HasBroadcast s.enterLoading (List.finRange 8) :=
  broadcasts_hasBroadcast (List.nodup_finRange 8) s.before_loading

theorem State.enterLoading_loading (s : State) : s.enterLoading.Loading :=
  s.before_loading.of_standing s.enterLoading_hasBroadcast.calm.standing

theorem State.enterLoading_noClaims (s : State) : s.enterLoading.NoClaims :=
  s.enterLoading_hasBroadcast.calm.roads (hlcLoading_noClaims _)

theorem State.enterLoading_startQueue (s : State) : s.enterLoading.startQueue = [] :=
  s.enterLoading_hasBroadcast.calm.startQueue.trans s.before_startQueue

theorem State.enterLoading_idle (hq : s.trunk.queue = []) (hf : ∀ r, (s.runners.get r).state ≠ .idle →
    (s.runners.get r).program ≠ none ∧ (s.runners.get r).zone ≠ none ∧ (s.runners.get r).cause ≠ none) (r : RunnerNo) :
    (s.enterLoading.runners.get r).state = .idle := by
  obtain ⟨hqueue, hidle⟩ := before_idle hq hf
  rw [(s.enterLoading_hasBroadcast.calm.idle hqueue).2]
  exact hidle r

theorem State.enterLoading_spur {p : SpurNo} (h : (s.spurs.get p).standby = false) :
    (s.enterLoading.spurs.get p).broadcasts = (s.spurs.get p).broadcasts + 1 ∧ ∀ e ∈ s.pollList p, s.enterLoading.Rested e := by
  have hst : (s.beforeBroadcasts.spurs.get p).standby = false := by rw [before_spurs]; exact h
  refine ⟨(s.enterLoading_hasBroadcast.counted p (List.mem_finRange p) hst).trans (by rw [before_spurs]), fun e he => ?_⟩
  exact s.enterLoading_hasBroadcast.rested p (List.mem_finRange p) hst e
    (by rw [pollList_of_configuration s.before_configuration]; exact he)

theorem State.enterLoading_configuration (s : State) : s.enterLoading.configuration = s.configuration :=
  (congrArg Standing.configuration s.enterLoading_hasBroadcast.calm.standing).trans s.before_configuration

theorem State.hlcLoading_eq (s : State) : s.hlcLoading =
    (s.waits.foldl (fun t w => (t.abort w.vehicle .loading).1) s).abortClaims.1.releaseAll
      (s.waits.foldl (fun t w => (t.abort w.vehicle .loading).1) s).abortClaims.2 := by
  unfold hlcLoading forEach
  rw [List.foldl_map]

/-- The phases one after another, run by run and wait by wait. -/
theorem State.enterLoading_eq (s : State) :
    let held := (s.setMode .loading).tcuLoading
    let ended := (List.finRange 4).foldl (fun t r => if (t.runners.get r).state = .idle then t else t.cutShort r .loading)
      held.dropQueued
    let waited := ended.waits.foldl (fun t w => (t.abort w.vehicle .loading).1) ended
    let aborted := ((List.finRange 12).filter fun v => (waited.vehicles.get v).claim.isSome).foldl abortClaim (waited, [])
    s.enterLoading = (List.finRange 8).foldl State.broadcast (aborted.1.releaseAll aborted.2) := by
  intro held ended waited aborted
  have hcut : cutRun = fun t r => if (t.runners.get r).state = .idle then t else t.cutShort r .loading := by
    funext t r
    unfold cutRun
    by_cases h : (t.runners.get r).state = .idle
    · rw [if_neg (by rw [Runner.running_iff]; simp [h]), if_pos h]
    · rw [if_pos ((Runner.running_iff _).mpr h), if_neg h]
  have hended : held.apuLoading = ended := by rw [apuLoading_eq, hcut]
  have hphases : s.enterLoading = (List.finRange 8).foldl State.broadcast held.apuLoading.hlcLoading := rfl
  have haborted : waited.abortClaims = aborted := abortClaims_eq waited
  have hroads : ended.hlcLoading = waited.abortClaims.1.releaseAll waited.abortClaims.2 := hlcLoading_eq ended
  rw [hphases, hended, hroads, haborted]

end phases

/-- Settles O58. -/
theorem modeRequests : Obligations.ModeRequests := by
  refine ⟨fun t o => ?starts, fun t p => ?broadcast, fun s tag hs => ?requests⟩
  case starts =>
    intro x off opened
    exact ⟨State.startTrip_other, fun h => ⟨fun hoff => State.startTrip_off h ((Trip.powerOff_iff x).mpr hoff),
      fun hon => State.startTrip_on h (mt (Trip.powerOff_iff x).mp hon)⟩⟩
  case broadcast =>
    intro x fallen suspected sent idle
    have hsent (u : State) : ((u.modSpur p fun y => { y with counter := 0, broadcasts := y.broadcasts + 1 }).fallBack p).devicesTo p
        .suspect = sent u := State.devicesTo_eq (by decide) _ p
    refine ⟨fun hst => if_pos hst, fun hst => ⟨fun hu => ?_, fun e c hu => ?_, fun e f hu => ?_⟩⟩
    · rw [State.broadcast_active hst, hsent, State.dropTransaction_none hu, hu]; rfl
    · rw [State.broadcast_active hst, hsent, State.dropTransaction_poll hu, hu]; rfl
    · rw [State.broadcast_active hst, hsent, State.dropTransaction_fetch hu, hu]; rfl
  case requests =>
    intro undefined dead missing closed zoneFails stationFails channelFails junctionFails pointFails fails place before
    have hfails (k n f : Nat) : fails k n f ↔ s.bindingFails k n f := by
      have hzone : zoneFails n f ↔ TableFails s.zoneTests n f := exists_congr fun z => and_congr_right fun _ => by
        rw [State.zoneTests_iff]; simp only [State.undefinedBinding_iff]; rfl
      have hstation : stationFails n f ↔ TableFails s.stationTests n f := exists_congr fun z => and_congr_right fun _ => by
        rw [State.stationTests_iff]
        simp only [State.undefinedBinding_iff, State.deadZone_iff, State.missing_iff, State.closed_iff]; rfl
      have hchannel : channelFails n f ↔ TableFails s.channelTests n f := exists_congr fun z => and_congr_right fun _ => by
        rw [State.channelTests_iff]
        simp only [Channel.onVehicle_iff, State.deadZone_iff, State.sourceMissing_iff, not_exists]; rfl
      have hjunction : junctionFails n f ↔ TableFails s.junctionTests n f := exists_congr fun z => and_congr_right fun _ => by
        rw [State.junctionTests_iff]; simp only [State.deadZone_iff, State.missing_iff]; rfl
      have hpoint : pointFails n f ↔ TableFails s.pointTests n f := exists_congr fun z => and_congr_right fun _ => by
        rw [State.pointTests_iff]; simp only [State.deadZone_iff]; rfl
      exact or_congr (and_congr_right fun _ => hzone) (or_congr (and_congr_right fun _ => hstation)
        (or_congr (and_congr_right fun _ => hchannel) (or_congr (and_congr_right fun _ => hjunction)
          (and_congr_right fun _ => hpoint))))
    refine ⟨fun hm => exec_refused hs (r := .startRun) (x := .wrongMode) rfl (if_pos hm), fun hm k n f hf hl => ?refused,
      fun hm hno => ?accepted, fun hm => exec_refused hs (r := .enterLoading) (x := .wrongMode) rfl (if_pos hm),
      fun hm => ?entered, exec_accepted hs (r := .reset) rfl rfl⟩
    case refused =>
      have hbad : s.badBinding = some ⟨k, n, f⟩ :=
        State.badBinding_some ((hfails k n f).mp hf) fun a b c h => hl a b c ((hfails a b c).mpr h)
      exact exec_of_answer hs (c := .startRun tag) (r := .startRun) rfl (State.doStartRun_refuses hm hbad)
    case accepted =>
      intro t
      have hbad : s.badBinding = none := State.badBinding_none fun k n f h => hno k n f ((hfails k n f).mpr h)
      have ht : t = s.startRun := rfl
      refine ⟨exec_accepted hs (r := .startRun) rfl (State.doStartRun_accepts hm hbad), fun hoffs hheld => ⟨?_, fun o => ?_⟩⟩
      · exact (congrArg (fun u : State => u.slp.mode) ht).trans s.startRun_mode
      · intro x off
        rw [ht]
        obtain ⟨hopened, hunconfirmed⟩ := State.startRun_held hoffs hheld o
        exact ⟨fun hoff => hopened ((Trip.powerOff_iff x).mpr hoff),
          fun hon => hunconfirmed (mt (Trip.powerOff_iff x).mp hon)⟩
    case entered =>
      intro held dropped ended waited aborted t
      have ht : t = s.enterLoading := s.enterLoading_eq.symm
      have hmode : s.doEnterLoading = s.enterLoading.accept := if_neg (by rw [hm]; decide)
      rw [ht]
      exact ⟨exec_accepted hs (r := .enterLoading) rfl hmode, s.enterLoading_loading.1, s.enterLoading_loading.2,
        s.enterLoading_configuration, s.enterLoading_startQueue, s.enterLoading_noClaims.1, s.enterLoading_noClaims.2,
        State.enterLoading_idle, fun p hp => State.enterLoading_spur hp⟩

end Sys2Proof.Machine
end
